-- ==== Sys2Proof/Word.lean ====
section
/-!
DEFINITION. The words of the TS240 and their plainest arithmetic: codes, station numbers, addresses,
sequence numbers, and the count of time. Field widths are those of R33.
-/

namespace Sys2Proof

/-- One byte of the configuration memory (R180) and the check field (R33). -/
abbrev Byte := BitVec 8

/-- One 5-unit code, 0 to 31 (R1). -/
abbrev Code := BitVec 5

/-- A station number, 0 to 31, as the straps and the Source field give it (R33, R179). -/
abbrev Station := BitVec 5

/-- An address: 0–31 one station, 32–62 a group, 63 all-call (R33). -/
abbrev Addr := BitVec 6

/-- A TEXT's sequence number, counted modulo 8 (R33, R64). -/
abbrev Seq := BitVec 3

/-- A count of time. One tick is 1/24000 s, the longest time of which a line unit at each of the four
rates (R31) and a millisecond are both whole multiples (log 1). -/
abbrev Tick := Nat

/-- `n` milliseconds. -/
def ms (n : Nat) : Tick := 24 * n

/-- `n` seconds. -/
def sec (n : Nat) : Tick := 24000 * n

/-- `n` minutes. -/
def minutes (n : Nat) : Tick := 1440000 * n

/-- The address of one station (R33: 0–31 one station). -/
def addrOf (n : Station) : Addr := n.setWidth 6

/-- The all-call address (R33). -/
def allCall : Addr := 63

/-- A group or all-call address (R33, R56: 32–63). -/
def isGroup (a : Addr) : Bool := 32 ≤ a.toNat

/-- The station an individual address names (R33). -/
def stationOf (a : Addr) : Station := a.setWidth 5

end Sys2Proof
end

