-- ==== Sys2Proof/Syntax.lean ====
section
/-!
DEFINITION. The commands of the TS240: one constructor of `Instr` for each row of spec/opcode_table.json,
with what passes at that event as its operands (log 3), and the types those operands need.
-/

namespace Sys2Proof

/-- The level of an input line. -/
inductive Level where
  | high
  | low
  deriving DecidableEq, Repr

/-- The kinds of telegram (R33). `brk` is BREAK. -/
inductive Kind where
  | call | accept | refuse | clear | text | hold | go | brk | who | hereis | poll
  deriving DecidableEq, Repr

/-- The fields of a telegram as they stand on the line, Start, Turn and ACK slot apart (R33). -/
structure Telegram where
  precedence  : BitVec 2
  source      : Station
  kind        : BitVec 4
  sequence    : Seq
  destination : Addr
  length      : BitVec 6
  text        : List Code
  check       : Byte
  deriving DecidableEq, Repr

/-- The Turn and the ACK slot of a telegram as read, two units each: 3 is mark in both (R31, R33). -/
structure SlotUnits where
  turn : BitVec 2
  ack  : BitVec 2
  deriving DecidableEq, Repr

/-- A matrix position with its samples, closed or open, one a sweep of the matrix (R99). -/
structure KeySamples where
  position : BitVec 6
  samples  : List Bool
  deriving DecidableEq, Repr

/-- The three presence lines, sampled at device reset and at restart: high for PRESENT (R179). -/
structure PresenceLines where
  printer : Level
  punch   : Level
  reader  : Level
  deriving DecidableEq, Repr

/-- The presence lines at restart, and the units read, each mark or space, of a telegram then framed: since its Start, or
since its Check where that has come (R47, R54). -/
structure RestartLines extends PresenceLines where
  units : List Bool
  deriving DecidableEq, Repr

/-- The input lines that are first taken when the configuration load ends (R179, R184): the two paper
sense lines (R119), the two tape sense lines (R137), TAPE IN (R143) and AUX0 to AUX5 (R157). -/
structure InputLines where
  paperFirst  : Level
  paperSecond : Level
  tapeFirst   : Level
  tapeSecond  : Level
  tapeIn      : Level
  aux         : Vector Level 6
  deriving DecidableEq, Repr

/-- The commands, one for each row of spec/opcode_table.json. -/
inductive Instr where
  /-- RESET_ASSERT (R179): the RESET pin is taken low. -/
  | resetAssert
  /-- RESET_RELEASE (R179): with the five strap pins and the presence lines as sampled. -/
  | resetRelease (straps : Station) (lines : PresenceLines)
  /-- CONFIG_READ_DONE (R182): with the bytes read and the input lines as they stand at the end of the load. -/
  | configReadDone (image : List Byte) (inputs : InputLines)
  /-- CONFIG_NO_ACK (R180). -/
  | configNoAck (inputs : InputLines)
  /-- CONFIG_LOAD_TIMEOUT (R180). -/
  | configLoadTimeout (inputs : InputLines)
  /-- TELEGRAM_TURN (R37): the telegram that has arrived through Check. -/
  | telegramTurn (t : Telegram)
  /-- MALFORMED_DISCARD (R35): the fields that make the telegram malformed. -/
  | malformedDiscard (t : Telegram)
  /-- TELEGRAM_HAND_ON (R37): with the Turn and the ACK slot as read. -/
  | telegramHandOn (slot : SlotUnits)
  /-- TRANSMIT_START (R45). -/
  | transmitStart
  /-- ARBITRATION_LOSS (R39). -/
  | arbitrationLoss
  /-- COLLISION (R40). -/
  | collision
  /-- ATTEMPT_END (R41): whether the ACK slot held space. -/
  | attemptEnd (ackSpace : Bool)
  /-- RETRY_WAIT_EXPIRY (R42): of the control entry of this kind, or of the TEXT in the place. -/
  | retryWaitExpiry (which : Kind)
  /-- LINE_BREAK (R47). -/
  | lineBreak
  /-- LINE_RESTORED (R48). -/
  | lineRestored
  /-- LISTEN_QUIET_EXPIRY (R50). -/
  | listenQuietExpiry
  /-- LISTEN_WINDOW_EXPIRY (R50). -/
  | listenWindowExpiry
  /-- PROBE_WAIT_EXPIRY (R51). -/
  | probeWaitExpiry
  /-- SEND_TIMER_EXPIRY (R79). -/
  | sendTimerExpiry
  /-- SILENCE_EXPIRY (R93). -/
  | silenceExpiry
  /-- RING_WAIT_EXPIRY (R75). -/
  | ringWaitExpiry
  /-- BREAK_TIMER_EXPIRY (R94). -/
  | breakTimerExpiry
  /-- HOLD_ENTRY_EXPIRY (R82): of this station's entry. -/
  | holdEntryExpiry (station : Station)
  /-- HELD_SINCE_EXPIRY (R85). -/
  | heldSinceExpiry
  /-- KEY_PRESS (R99, R100): the samples of an UP position, up to the press it gives; RESTART's press is the command
  RESTART. -/
  | keyPress (key : KeySamples)
  /-- KEY_HEAD_RETRY (R101). -/
  | keyHeadRetry
  /-- CHARACTER_KEY (R104): the head of the key FIFO, a character key, is interpreted. -/
  | characterKey
  /-- LTRS_KEY (R102). -/
  | ltrsKey
  /-- FIGS_KEY (R102). -/
  | figsKey
  /-- LINE_KEY (R103). -/
  | lineKey
  /-- LOCAL_KEY (R103). -/
  | localKey
  /-- TAPE_KEY (R103). -/
  | tapeKey
  /-- BACKSPACE (R107). -/
  | backspace
  /-- CALL_KEY (R112). -/
  | callKey
  /-- CLEAR_KEY (R112). -/
  | clearKey
  /-- WHO_KEY (R89). -/
  | whoKey
  /-- HEREIS_KEY (R113). -/
  | hereisKey
  /-- BREAK_KEY (R87). -/
  | breakKey
  /-- POLL_KEY (R115). -/
  | pollKey
  /-- READ_START (R144). -/
  | readStart
  /-- READ_STOP (R149). -/
  | readStop
  /-- FILE_PRINT (R174). -/
  | filePrint
  /-- FILE_CLEAR (R177). -/
  | fileClear
  /-- ATTEND_KEY (R161). -/
  | attendKey
  /-- RESTART (R185): the RESTART press, with the presence lines as sampled again and the units of a telegram being
  framed. -/
  | restart (lines : RestartLines)
  /-- PAPER_STATE_CHANGE (R119): the pattern of the two lines, steady for 100 ms. -/
  | paperStateChange (first second : Level)
  /-- PU_TAKE_CELL (R123). -/
  | puTakeCell
  /-- PRINT_OP_COMPLETE (R121). -/
  | printOpComplete
  /-- HEAT_TIMER_EXPIRY (R130). -/
  | heatTimerExpiry
  /-- TAPE_STATE_CHANGE (R137): the pattern of the two lines, steady for 100 ms. -/
  | tapeStateChange (first second : Level)
  /-- PUNCH_TAKE_CELL (R139). -/
  | punchTakeCell
  /-- PUNCH_OP_COMPLETE (R136). -/
  | punchOpComplete
  /-- TAPE_IN_CHANGE (R143): the level, steady for 100 ms. -/
  | tapeInChange (level : Level)
  /-- READER_CYCLE_START (R146). -/
  | readerCycleStart
  /-- READER_CYCLE_COMPLETE (R147): the code of the row sensed. -/
  | readerCycleComplete (row : Code)
  /-- READER_RESUME (R148). -/
  | readerResume
  /-- RUN_UP_EXPIRY (R153). -/
  | runUpExpiry
  /-- SENSE_WINDOW_EXPIRY (R153). -/
  | senseWindowExpiry
  /-- MOTOR_SENSE_CHANGE (R157): the level, steady for 100 ms. -/
  | motorSenseChange (level : Level)
  /-- MOTOR_HOLD_EXPIRY (R154). -/
  | motorHoldExpiry
  /-- FAULT_WAIT_EXPIRY (R155). -/
  | faultWaitExpiry
  /-- BELL_PULSE_EXPIRY (R156): of the pulse taken first. -/
  | bellPulseExpiry
  /-- CADENCE_PHASE_EXPIRY (R156). -/
  | cadencePhaseExpiry
  /-- CALL_LAMP_FLASH_EXPIRY (R158). -/
  | callLampFlashExpiry
  /-- ATTEND_SWITCH_CHANGE (R159): the level, steady for 100 ms. -/
  | attendSwitchChange (level : Level)
  /-- ATTEND_TIMER_EXPIRY (R162). -/
  | attendTimerExpiry
  /-- RING_TIMER_EXPIRY (R166). -/
  | ringTimerExpiry
  /-- REPLAY_HEADER_RETRY (R174). -/
  | replayHeaderRetry
  /-- STATION_CLOCK_TICK (R168). -/
  | stationClockTick
  /-- HUNTING_SPACE_READ (R36): a space unit read after this many further units at mark. -/
  | huntingSpaceRead (afterUnits : Nat)
  /-- BROKEN_SPACE_READ (R48). -/
  | brokenSpaceRead
  /-- KEY_RELEASE (R99): the samples of a DOWN position, up to the release it gives. -/
  | keyRelease (key : KeySamples)
  deriving DecidableEq, Repr

end Sys2Proof
end

