-- ==== Sys2Proof/Decode.lean ====
section
/-!
DEFINITION. The command a word spells by the opcode table's bits. No row of spec/opcode_table.json gives bits, so no
word spells a command (log 23).
-/

namespace Sys2Proof

/-- The command that `nbits` bits `w` spell by the table: none, since the table gives no row any bits. -/
def decodeTableWord (_nbits _w : Nat) : Option Instr := none

end Sys2Proof
end

