-- ==== Sys2Proof/Config.lean ====
section
/-!
DEFINITION. What the configuration fixes: resolved characters (the answerback is made of them), routes,
answer windows, auxiliary functions, the configuration set and the default set (R2, R55, R157, R183).
The spec leaves no value open after a command that completes, so there is no free value here.
-/

namespace Sys2Proof

/-- A resolved character (R2): LETTER and FIGURE carry their code. -/
inductive Resolved where
  | letter (c : Code)
  | figure (c : Code)
  | bell
  | space
  | cr
  | lf
  deriving DecidableEq, Repr

/-- The case of the code (R1). -/
inductive Case where
  | ltrs
  | figs
  deriving DecidableEq, Repr

/-- A set of destinations: PRINT, PUNCH, FILE (R55). -/
structure Route where
  print : Bool
  punch : Bool
  file  : Bool
  deriving DecidableEq, Repr

/-- No destination (R55: "including none"). -/
def Route.none : Route := ⟨false, false, false⟩

/-- Whether a set of destinations is empty (R66). -/
def Route.isEmpty (r : Route) : Bool := !r.print && !r.punch && !r.file

/-- An answer window (R55). -/
structure Window where
  enabled     : Bool
  base        : Addr
  mask        : Addr
  route       : Route
  acceptCalls : Bool
  deriving DecidableEq, Repr

/-- The line rate codes 0 to 3 (R31). -/
inductive Rate where
  | r600 | r1200 | r2400 | r4800
  deriving DecidableEq, Repr

/-- One unit time u in ticks (R31: 1/600, 1/1200, 1/2400, 1/4800 s). -/
def Rate.unit : Rate → Tick
  | .r600 => 40
  | .r1200 => 20
  | .r2400 => 10
  | .r4800 => 5

/-- The auxiliary terminal functions, codes 0 to 11 (R157). -/
inductive AuxFn where
  | unused | bell | callLamp | engagedLamp | fileLamp | faultLamp | attendedLamp
  | tapeLowLamp | paperLowLamp | motorSense | attendSwitch | runLamp
  deriving DecidableEq, Repr

/-- The limits of the three queues, in blocks (R15, R180). They are handed to the queue records (R184). -/
structure Limits where
  send  : Nat
  print : Nat
  punch : Nat
  deriving DecidableEq, Repr

/-- The configuration set (layout table of R180, R181), the queue limits apart. -/
structure Configuration where
  rate             : Rate
  edit             : Bool
  unshiftOnSpace   : Bool
  wrap             : Bool
  originSeparation : Bool
  keepPrinted      : Bool
  autoReplay       : Bool
  tapeEcho         : Bool
  autoWho          : Bool
  width            : Nat
  motorHold        : Nat
  attendTimeout    : Nat
  defaultAttended  : Bool
  retryLimit       : Nat
  aux              : Vector AuxFn 6
  answerback       : List Resolved
  windows          : Vector Window 8
  deriving DecidableEq, Repr

/-- The FIGURE of a decimal digit (R1: code 3 is 1, on to code 11 for 9 and code 12 for 0). -/
def digitChar (d : Nat) : Resolved :=
  .figure (if d % 10 = 0 then 12 else BitVec.ofNat 5 (d % 10 + 2))

/-- `width` FIGURE digits of a number, with leading zeros (R134). -/
def digits : Nat → Nat → List Resolved
  | 0, _ => []
  | w + 1, n => digits w (n / 10) ++ [digitChar (n % 10)]

/-- A window that is not enabled (R55, R183). -/
def Window.disabled : Window := ⟨false, 0, 0, Route.none, false⟩

/-- The default answerback, STATION nn (R183). -/
def defaultAnswerback (station : Station) : List Resolved :=
  [.letter 22, .letter 23, .letter 3, .letter 23, .letter 11, .letter 18, .letter 17, .space]
    ++ digits 2 station.toNat

/-- W0: the three forced fields, with route and accept-calls (R55). -/
def ownWindow (station : Station) (route : Route) (acceptCalls : Bool) : Window :=
  ⟨true, addrOf station, 63, route, acceptCalls⟩

/-- The default windows (R55, R183). -/
def defaultWindows (station : Station) : Vector Window 8 :=
  #v[ownWindow station ⟨true, false, true⟩ true, Window.disabled, Window.disabled, Window.disabled,
     Window.disabled, Window.disabled, Window.disabled, ⟨true, 63, 63, ⟨true, false, true⟩, true⟩]

/-- The default set (R183). -/
def Configuration.default (station : Station) : Configuration where
  rate := .r1200
  edit := false
  unshiftOnSpace := true
  wrap := true
  originSeparation := true
  keepPrinted := false
  autoReplay := true
  tapeEcho := true
  autoWho := true
  width := 72
  motorHold := 20
  attendTimeout := 0
  defaultAttended := true
  retryLimit := 3
  aux := #v[.bell, .callLamp, .engagedLamp, .fileLamp, .faultLamp, .attendedLamp]
  answerback := defaultAnswerback station
  windows := defaultWindows station

/-- The default limits (R183). -/
def Limits.default : Limits := ⟨16, 48, 48⟩

end Sys2Proof
end

