-- ==== Sys2Proof/Machine/State.lean ====
section
/-!
DEFINITION. The state of the TS240, block by block, as plain data, and its values at device reset.
Timers are `Option Tick`: absent when stopped, else what is left to run (log 1).
-/

namespace Sys2Proof.Machine

/-! ### Character Store (chapter 2) -/

/-- The origin a stored character carries (R3). -/
inductive Origin where
  | line | keyboard | reader | notice
  deriving DecidableEq, Repr

/-- The mark of a boundary: START or END (R3). -/
inductive Mark where
  | start
  | finish
  deriving DecidableEq, Repr

/-- The content of a store cell (R3). -/
inductive Cell where
  | character (r : Resolved) (o : Origin)
  | boundary (m : Mark) (station : Station)
  deriving DecidableEq, Repr

/-- A queue record (R15). `inFlight` is SEND's only; `openMark` is PRINT's and PUNCH's only. -/
structure Queue where
  head       : Option Nat
  headIndex  : Nat
  tail       : Option Nat
  tailIndex  : Nat
  cellCount  : Nat
  blockCount : Nat
  limit      : Nat
  inFlight   : Nat
  openMark   : Option Station
  deriving DecidableEq, Repr

/-- The three queues (R14, R15). -/
inductive QueueName where
  | send | print | punch
  deriving DecidableEq, Repr

/-- The chain of a file record (R16). -/
structure Chain where
  first : Option Nat
  last  : Option Nat
  count : Nat
  deriving DecidableEq, Repr

/-- The store (R12 to R15). `cells` lists (32 × block + position, content), keys strictly rising, an unlisted
position having no content; `links` lists (block, next block), an unlisted block having a link of none;
`free` is the free-block stack, its top first. -/
structure Store where
  cells : List (Nat × Cell)
  links : List (Nat × Nat)
  free  : List Nat
  send  : Queue
  print : Queue
  punch : Queue
  deriving DecidableEq, Repr

/-! ### Calls (chapter 5) -/

/-- The reasons of a REFUSE, values 1 to 6 in this order (R75). -/
inductive Reason where
  | busy | notAccepting | fileFull | noAnswer | noTape | readerBusy
  deriving DecidableEq, Repr

/-- The causes of a CLEAR, values 0 to 4 in this order (R91). -/
inductive Cause where
  | normal | retryFailed | silence | congestion | restart
  deriving DecidableEq, Repr

/-- The line view's state (R68). -/
inductive ViewState where
  | free | ringing | engaged
  deriving DecidableEq, Repr

/-- The line view (R68). -/
structure LineView where
  state       : ViewState
  caller      : Option Station
  destination : Option Addr
  ringWait    : Option Tick
  silence     : Option Tick
  deriving DecidableEq, Repr

/-- The call record's state (R71). -/
inductive CallState where
  | idle | dialing | calling | awaiting | ringing | opened | clearing
  deriving DecidableEq, Repr

/-- The station's part in the call (R71). -/
inductive Role where
  | caller | called | member
  deriving DecidableEq, Repr

/-- The answer of a RINGING record (R71). -/
inductive Answer where
  | none | acceptSent
  deriving DecidableEq, Repr

/-- One entry of the hold set, with what is left of its 30 s (R82). -/
structure Hold where
  station : Station
  left    : Tick
  deriving DecidableEq, Repr

/-- The call record (R71). -/
structure CallRecord where
  state        : CallState
  role         : Option Role
  callAddr     : Addr
  partyAddr    : Addr
  partyStation : Option Station
  answer       : Answer
  route        : Route
  window       : Fin 8
  sendSeq      : Seq
  recvSeq      : Seq
  holdSet      : List Hold
  heldByMe     : Bool
  heldSince    : Option Tick
  answerback   : Option (List Resolved)
  fileLink     : Option (Fin 24)
  readerLink   : Bool
  deriving DecidableEq, Repr

/-- The send timer: stopped, running, or expired and not yet stopped (R79). -/
inductive SendTimer where
  | stopped
  | running (left : Tick)
  | expired
  deriving DecidableEq, Repr

/-- What the Call Manager owns. -/
structure CallManager where
  view       : LineView
  call       : CallRecord
  sendTimer  : SendTimer
  breakTimer : Option Tick
  deriving DecidableEq, Repr

/-! ### The Common Line (chapter 3) -/

/-- The join state (R49). -/
inductive JoinState where
  | offline | listen | probe | joined | listenOnly
  deriving DecidableEq, Repr

/-- The line condition (R49). -/
inductive LineCondition where
  | clear | broken
  deriving DecidableEq, Repr

/-- Who asked for a control telegram (R43). `cmNoOutcome` is the CM where it ignores the outcome
(R74, R75, R93, R97); `lu` is the LU itself, for the announcement (R52). -/
inductive Requester where
  | cm | cmNoOutcome | lu
  deriving DecidableEq, Repr

/-- The content of a control entry: what is to be sent, for whom, with how many retries (R43). -/
structure Request where
  kind        : Kind
  destination : Addr
  text        : List Code
  requester   : Requester
  allowance   : Nat
  deriving DecidableEq, Repr

/-- Ready or waiting (R42, R43). A retry that has become ready counts the time since, for R38. -/
inductive Readiness where
  | ready
  | retryReady (since : Tick)
  | waiting (left : Tick)
  deriving DecidableEq, Repr

/-- An entry of the outgoing control list (R43); the list's order is the entries' places, oldest first. -/
structure ControlEntry where
  content     : Request
  retriesUsed : Nat
  collisions  : Nat
  readiness   : Readiness
  withdrawn   : Bool
  beside      : Option Request
  deriving DecidableEq, Repr

/-- The TEXT place's content (R44). -/
structure TextPlace where
  destination : Addr
  sequence    : Seq
  codes       : List Code
  retriesUsed : Nat
  collisions  : Nat
  readiness   : Readiness
  withdrawn   : Bool
  deriving DecidableEq, Repr

/-- Where the telegram in the transmit slot comes from (R39, R45, R51). -/
inductive SlotSource where
  | control (k : Kind)
  | text
  | probe
  deriving DecidableEq, Repr

/-- The transmit slot's content (R45). -/
structure Slot where
  source   : SlotSource
  telegram : Telegram
  deriving DecidableEq, Repr

/-- The answer decision on a CALL (R59, R163). `accept` is ACCEPT by the unattended test, `glare` ACCEPT by glare. -/
inductive AnswerOutcome where
  | accept | glare | ring
  | refuse (r : Reason)
  | memberJoin | notTaken
  deriving DecidableEq, Repr

/-- The result of acceptance of a TEXT (R64, R67). `notForUs` is a TEXT that failed R64. -/
inductive TextResult where
  | notForUs
  | taken (destinations : Route) (blockTaken : Bool)
  | duplicate
  | noDestination
  | noSpace
  deriving DecidableEq, Repr

/-- What the Turn decided, for the hand-on (R59, R67, R76). -/
inductive TurnResult where
  | plain
  | call (o : AnswerOutcome) (window : Fin 8) (recordAtTurn : CallState)
  | text (r : TextResult)
  deriving DecidableEq, Repr

/-- The receive buffer's telegram after its Turn: the telegram, its resolved run, whether this station takes it,
and what the Turn decided (R36, R37). -/
structure Framed where
  telegram : Telegram
  run      : List Resolved
  taken    : Bool
  result   : TurnResult
  deriving DecidableEq, Repr

/-- The receive side (R36). `own` marks a telegram this station drives (R36: "frames the telegrams it sends in the
same way"); `ownWithdrawn` that its requester withdrew it before the hand-on (R74). -/
inductive Receive where
  | hunting
  | framing (own : Bool) (ownWithdrawn : Bool) (framed : Option Framed)
  deriving DecidableEq, Repr

/-- What the Line Unit owns (R49). Two fields are the model's own (log 17): `spaceLeft`, what is left of the space unit last
read in HUNTING or BROKEN, during which the line is not at mark; `frameTime`, the time since the Start of the telegram
framed. -/
structure LineUnit where
  joinState       : JoinState
  condition       : LineCondition
  receive         : Receive
  slot            : Option Slot
  control         : List ControlEntry
  text            : Option TextPlace
  ackRead         : Option Bool
  probeCount      : Nat
  probeCollisions : Nat
  probeWait       : Option Tick
  quiet           : Tick
  listenWindow    : Option Tick
  spaceRun        : Nat
  spaceLeft       : Tick
  frameTime       : Tick
  markRun         : Tick
  lastOwn         : Bool
  restartClear    : Bool
  deriving DecidableEq, Repr

/-! ### Keyboard (chapter 6) -/

/-- The keys (R98). -/
inductive Key where
  | code (c : Code)
  | space | ltrs | figs | cr | lf | backspace
  | call | clear | who | hereis | brk
  | line | localMode | tape
  | readStart | readStop | filePrint | fileClear | attend | restart | poll
  deriving DecidableEq, Repr

/-- The level of a matrix position (R99). -/
inductive KeyLevel where
  | up | down
  deriving DecidableEq, Repr

/-- The scan state of a matrix position (R99). -/
structure KeyScan where
  level : KeyLevel
  count : Nat
  deriving DecidableEq, Repr

/-- The keyboard mode (R103). -/
inductive KeyMode where
  | line | localMode | tape
  deriving DecidableEq, Repr

/-- What the Keyboard Unit owns (R117). `editStack` has its bottom first. `headRead` is the call record's state as the
interpreter read it when it took the head of the FIFO (R101, log 45). -/
structure KeyboardUnit where
  scan        : List KeyScan
  fifo        : List Key
  headRead    : CallState
  headWaiting : Bool
  retryDue    : Bool
  case        : Case
  mode        : KeyMode
  editStack   : List Resolved
  dial        : List Nat
  deriving DecidableEq, Repr

/-! ### Page Printer (chapter 7) -/

/-- The state of a paper or tape supply (R119, R137). -/
inductive Supply where
  | good | low | out
  deriving DecidableEq, Repr

/-- A printing origin: the stored origins and FILE (R3, R118). -/
inductive PrintOrigin where
  | line | keyboard | reader | notice | file
  deriving DecidableEq, Repr

/-- The source selector (R128). -/
inductive Source where
  | queue | cursor
  deriving DecidableEq, Repr

/-- The printer's operations (R118, R121). A SHIFT names the case it moves the type to. -/
inductive PrintOp where
  | strike
  | shift (c : Case)
  | space | lf | bell | cr | crLf
  deriving DecidableEq, Repr

/-- The printer's work in hand (R118, R123): a taken cell, its source, the operations still to start. `kept` says
that the cursor it came from has ended normally, so that it is finished (R129, log 13). -/
structure PrintWork where
  cell   : Cell
  source : Source
  kept   : Bool
  todo   : List PrintOp
  deriving DecidableEq, Repr

/-- What the Print Unit owns (R118). An absent column is UNKNOWN, an absent shift is UNKNOWN, an absent last origin is NONE. -/
structure PrintUnit where
  present    : Bool
  paper      : Supply
  column     : Option Nat
  shift      : Option Case
  lastOrigin : Option PrintOrigin
  source     : Source
  op         : Option PrintOp
  opLeft     : Tick
  lastOp     : Option PrintOp
  work       : Option PrintWork
  heat       : Nat
  throttle   : Bool
  heatTimer  : Option Tick
  deriving DecidableEq, Repr

/-! ### Tape Punch and Reader (chapter 8) -/

/-- The punch's work in hand: a taken cell and the codes still to start (R136). -/
structure PunchWork where
  cell : Cell
  todo : List Code
  deriving DecidableEq, Repr

/-- The reader run's state (R143). -/
inductive RunState where
  | running | paused
  deriving DecidableEq, Repr

/-- The reader run record (R143). -/
structure ReaderRun where
  destination : QueueName
  limit       : Nat
  count       : Nat
  blanks      : Nat
  shift       : Case
  held        : Option Resolved
  state       : RunState
  deriving DecidableEq, Repr

/-- A reader cycle in progress; `dropped` when its run has ended (R143, R150). -/
structure ReaderCycle where
  left    : Tick
  dropped : Bool
  deriving DecidableEq, Repr

/-- What the Tape Unit owns (R136, R143). -/
structure TapeUnit where
  punchPresent  : Bool
  tape          : Supply
  punchShift    : Option Case
  punchOp       : Option Code
  punchLeft     : Tick
  punchWork     : Option PunchWork
  readerPresent : Bool
  tapeIn        : Bool
  run           : Option ReaderRun
  cycle         : Option ReaderCycle
  resumeDue     : Bool
  deriving DecidableEq, Repr

/-! ### Motor, bell, lamps, auxiliary terminals (chapter 9) -/

/-- The motor state (R152). -/
inductive Motor where
  | stopped | starting | running | faulted
  deriving DecidableEq, Repr

/-- Who asked for a bell pulse (R156). -/
inductive BellSource where
  | printer | keyboard
  deriving DecidableEq, Repr

/-- A running bell pulse (R156). -/
structure Pulse where
  source : BellSource
  left   : Tick
  deriving DecidableEq, Repr

/-- A phase of the ringing cadence or of the CALL lamp's flash (R156, R158). -/
structure Phase where
  on   : Bool
  left : Tick
  deriving DecidableEq, Repr

/-- What the Motor and Terminal Control owns (R152, R156, R157). -/
structure MotorTerminal where
  motor          : Motor
  printerDemand  : Bool
  punchDemand    : Bool
  readerDemand   : Bool
  runUp          : Option Tick
  senseWindow    : Option Tick
  hold           : Option Tick
  faultWait      : Option Tick
  pulses         : List Pulse
  cadence        : Option Phase
  flash          : Option Phase
  senseRunning   : Bool
  switchAttended : Bool
  deriving DecidableEq, Repr

/-! ### Unattended answering and the message file (chapter 10) -/

/-- Attendance (R160). -/
inductive Attendance where
  | attended | unattended
  deriving DecidableEq, Repr

/-- The cause of a pending attendance change (R160). -/
inductive AttendCause where
  | key | switch | timeout
  deriving DecidableEq, Repr

/-- The ring state (R165). -/
inductive RingState where
  | none | ringing | answered
  deriving DecidableEq, Repr

/-- The state of a file record (R168). -/
inductive FileState where
  | opened | filed | cut
  deriving DecidableEq, Repr

/-- A message file record (R168). `slot` is the slot it takes (R169); its character count is its chain's count. -/
structure FileRecord where
  slot         : Fin 24
  number       : Nat
  source       : Station
  destination  : Addr
  window       : Fin 8
  openedAt     : BitVec 16
  completedAt  : Option (BitVec 16)
  state        : FileState
  printed      : Bool
  printStarted : Bool
  chain        : Chain
  gapCount     : Nat
  answerback   : Option (List Resolved)
  deriving DecidableEq, Repr

/-- The mode of the print cursor (R172). -/
inductive CursorMode where
  | follow | replay
  deriving DecidableEq, Repr

/-- The print cursor (R172), naming its record by its slot. `again` is the print started flag as read when a REPLAY
started, which its header says as REPEAT, also when the header is tried again (R174). -/
structure Cursor where
  record        : Fin 24
  offset        : Nat
  mode          : CursorMode
  headerPending : Bool
  again         : Bool
  deriving DecidableEq, Repr

/-- What the Answering Unit owns (R160, R165, R167, R168, R172). `file` has its oldest record first. -/
structure AnsweringUnit where
  attendance     : Attendance
  pending        : Option (Attendance × AttendCause)
  attendTimer    : Option Tick
  ring           : RingState
  ringTimer      : Option Tick
  autoAnswered   : Bool
  clock          : BitVec 16
  minuteLeft     : Option Tick
  nextNumber     : Nat
  file           : List FileRecord
  cursor         : Option Cursor
  headerRetryDue : Bool
  deriving DecidableEq, Repr

/-! ### Configuration Loader (chapter 11) -/

/-- The load status (R179, R184). -/
inductive LoadStatus where
  | loading | done | failed
  deriving DecidableEq, Repr

/-- What the Configuration Loader owns, with the sampled station number and the configuration it hands out (R179, R184). -/
structure ConfigLoader where
  resetLow : Bool
  load     : LoadStatus
  fault    : Bool
  loadLeft : Option Tick
  station  : Station
  config   : Configuration
  deriving DecidableEq, Repr

/-! ### The whole -/

/-- The state of the TS240: its nine blocks, and the queue of commands that wait, the front first. -/
structure State where
  lu : LineUnit
  cm : CallManager
  cs : Store
  ku : KeyboardUnit
  pu : PrintUnit
  tu : TapeUnit
  mt : MotorTerminal
  au : AnsweringUnit
  cl : ConfigLoader
  pending : List Instr
  deriving DecidableEq, Repr

/-- The reasons for which the machine stops. There is none: the part has no error stop and no error register
(00_scope.md), and every command completes (log 2). -/
inductive Fault where
  deriving DecidableEq, Repr

/-- The reasons for which a command has no meaning here. -/
inductive Refusal where
  /-- Raised by `exec` for a command whose meaning is not written yet. Safe: nothing is claimed of it. No arm raises it. -/
  | notModelled (mnemonic : String)
  deriving DecidableEq, Repr

/-! ### Values at device reset -/

/-- An empty queue with its limit (R29). -/
def Queue.empty (limit : Nat) : Queue := ⟨none, 0, none, 0, 0, 0, limit, 0, none⟩

/-- The store after device reset (R13, R29): block 0 on top of the stack, block 127 at its bottom. -/
def Store.reset (l : Limits) : Store :=
  ⟨[], [], List.range 128, Queue.empty l.send, Queue.empty l.print, Queue.empty l.punch⟩

/-- The line view after device reset (R68). -/
def LineView.reset : LineView := ⟨.free, none, none, none, none⟩

/-- The call record after device reset (R71). -/
def CallRecord.reset : CallRecord where
  state := .idle
  role := none
  callAddr := 0
  partyAddr := 0
  partyStation := none
  answer := .none
  route := Route.none
  window := 0
  sendSeq := 0
  recvSeq := 0
  holdSet := []
  heldByMe := false
  heldSince := none
  answerback := none
  fileLink := none
  readerLink := false

/-- The Call Manager after device reset (R68, R71, R97). -/
def CallManager.reset : CallManager := ⟨LineView.reset, CallRecord.reset, .stopped, none⟩

/-- The Line Unit after device reset (R49). -/
def LineUnit.reset : LineUnit where
  joinState := .offline
  condition := .clear
  receive := .hunting
  slot := none
  control := []
  text := none
  ackRead := none
  probeCount := 0
  probeCollisions := 0
  probeWait := none
  quiet := 0
  listenWindow := none
  spaceRun := 0
  spaceLeft := 0
  frameTime := 0
  markRun := 0
  lastOwn := false
  restartClear := false

/-- The Keyboard Unit after device reset (R117). -/
def KeyboardUnit.reset : KeyboardUnit where
  scan := List.replicate 64 ⟨.up, 0⟩
  fifo := []
  headRead := .idle
  headWaiting := false
  retryDue := false
  case := .ltrs
  mode := .localMode
  editStack := []
  dial := []

/-- The Print Unit after device reset (R135); presence and paper before they are taken are log 4. -/
def PrintUnit.reset : PrintUnit where
  present := false
  paper := .good
  column := none
  shift := none
  lastOrigin := none
  source := .queue
  op := none
  opLeft := 0
  lastOp := none
  work := none
  heat := 0
  throttle := false
  heatTimer := none

/-- The Tape Unit after device reset (R151); presence, tape and TAPE IN before they are taken are log 4. -/
def TapeUnit.reset : TapeUnit where
  punchPresent := false
  tape := .good
  punchShift := none
  punchOp := none
  punchLeft := 0
  punchWork := none
  readerPresent := false
  tapeIn := false
  run := none
  cycle := none
  resumeDue := false

/-- The Motor and Terminal Control after device reset (R152, R156); the input levels before they are taken are log 4. -/
def MotorTerminal.reset : MotorTerminal where
  motor := .stopped
  printerDemand := false
  punchDemand := false
  readerDemand := false
  runUp := none
  senseWindow := none
  hold := none
  faultWait := none
  pulses := []
  cadence := none
  flash := none
  senseRunning := false
  switchAttended := false

/-- The Answering Unit after device reset (R178); attendance before the load ends is log 4. -/
def AnsweringUnit.reset : AnsweringUnit where
  attendance := .attended
  pending := none
  attendTimer := none
  ring := .none
  ringTimer := none
  autoAnswered := false
  clock := 0
  minuteLeft := none
  nextNumber := 1
  file := []
  cursor := none
  headerRetryDue := false

/-- The Configuration Loader while RESET is low (R179); station and configuration before they are read are log 4. -/
def ConfigLoader.reset : ConfigLoader where
  resetLow := true
  load := .loading
  fault := false
  loadLeft := none
  station := 0
  config := Configuration.default 0

/-- The machine right after device reset: RESET is low, every block at its device-reset values, no command waiting
(R179, log 4). -/
def State.reset : State where
  lu := LineUnit.reset
  cm := CallManager.reset
  cs := Store.reset Limits.default
  ku := KeyboardUnit.reset
  pu := PrintUnit.reset
  tu := TapeUnit.reset
  mt := MotorTerminal.reset
  au := AnsweringUnit.reset
  cl := ConfigLoader.reset
  pending := []

end Sys2Proof.Machine
end

