-- ==== Sys2Proof/Machine/Code.lean ====
section
/-!
DEFINITION. The 5-unit code: resolution, generation, encoded length (R1 to R11), and the text of every notice
(R134, R174, notice index of chapter 12).
-/

namespace Sys2Proof.Machine

/-- The case a resolved character must be generated in, if any (R2). -/
def Resolved.caseNeeded : Resolved → Option Case
  | .letter _ => some .ltrs
  | .figure _ => some .figs
  | .bell => some .figs
  | .space => none
  | .cr => none
  | .lf => none

/-- The code of a resolved character (R1, R2, R8). -/
def Resolved.code : Resolved → Code
  | .letter c => c
  | .figure c => c
  | .bell => 26
  | .space => 16
  | .cr => 1
  | .lf => 2

/-- The shift code that names a case (R1). -/
def Case.shiftCode : Case → Code
  | .ltrs => 31
  | .figs => 30

/-- A LETTER, FIGURE or BELL by its code and case (R1, R102): code 26 in figures is BELL. -/
def charIn (k : Case) (c : Code) : Resolved :=
  match k with
  | .ltrs => .letter c
  | .figs => if c = 26 then .bell else .figure c

/-- The case state a SPACE leaves (R5, R8, R10). -/
def afterSpace (unshift : Bool) (k : Case) : Case := if unshift then .ltrs else k

/-- Resolution of one code (R5): the resolved character, if any, and the case state after. -/
def resolve (unshift : Bool) (k : Case) (c : Code) : Option Resolved × Case :=
  if c = 0 then (none, k)
  else if c = 1 then (some .cr, k)
  else if c = 2 then (some .lf, k)
  else if c = 16 then (some .space, afterSpace unshift k)
  else if c = 30 then (none, .figs)
  else if c = 31 then (none, .ltrs)
  else (some (charIn k c), k)

/-- Resolution of a stream of codes in order (R4, R6). -/
def resolveAll (unshift : Bool) : Case → List Code → List Resolved
  | _, [] => []
  | k, c :: cs =>
    let (r, k') := resolve unshift k c
    match r with
    | some x => x :: resolveAll unshift k' cs
    | none => resolveAll unshift k' cs

/-- Line receive: the case is taken up as LTRS at the first code of the text field (R4, R6). -/
def lineResolve (unshift : Bool) (cs : List Code) : List Resolved := resolveAll unshift .ltrs cs

/-- Generation of one resolved character (R8): its codes, and the shift state after. An absent state is UNKNOWN. -/
def generate (unshift : Bool) (k : Option Case) (r : Resolved) : List Code × Option Case :=
  match Resolved.caseNeeded r with
  | some need => if k = some need then ([Resolved.code r], k) else ([Case.shiftCode need, Resolved.code r], some need)
  | none => ([Resolved.code r], if r = .space ∧ unshift then some .ltrs else k)

/-- Generation of a sequence of resolved characters (R8). -/
def generateAll (unshift : Bool) : Option Case → List Resolved → List Code
  | _, [] => []
  | k, r :: rs => (generate unshift k r).1 ++ generateAll unshift (generate unshift k r).2 rs

/-- Line send takes up LTRS at the start of each telegram (R7). -/
def lineSend (unshift : Bool) (rs : List Resolved) : List Code := generateAll unshift (some .ltrs) rs

/-- The encoded length of a sequence (R9). -/
def encodedLength (unshift : Bool) (rs : List Resolved) : Nat := (lineSend unshift rs).length

/-- How many characters from the head are taken while the encoded length stays at or below `room` (R24, R80). -/
def fitCount (unshift : Bool) : Nat → Option Case → List Resolved → Nat
  | _, _, [] => 0
  | room, k, r :: rs =>
    if (generate unshift k r).1.length ≤ room then
      fitCount unshift (room - (generate unshift k r).1.length) (generate unshift k r).2 rs + 1
    else 0

/-! ### Notices -/

/-- LETTERs and SPACE by name, for the words of the notices. -/
def Ltr.A : Resolved := .letter 3
@[inherit_doc Ltr.A] def Ltr.B : Resolved := .letter 4
@[inherit_doc Ltr.A] def Ltr.C : Resolved := .letter 5
@[inherit_doc Ltr.A] def Ltr.D : Resolved := .letter 6
@[inherit_doc Ltr.A] def Ltr.E : Resolved := .letter 7
@[inherit_doc Ltr.A] def Ltr.F : Resolved := .letter 8
@[inherit_doc Ltr.A] def Ltr.G : Resolved := .letter 9
@[inherit_doc Ltr.A] def Ltr.H : Resolved := .letter 10
@[inherit_doc Ltr.A] def Ltr.I : Resolved := .letter 11
@[inherit_doc Ltr.A] def Ltr.K : Resolved := .letter 13
@[inherit_doc Ltr.A] def Ltr.L : Resolved := .letter 14
@[inherit_doc Ltr.A] def Ltr.M : Resolved := .letter 15
@[inherit_doc Ltr.A] def Ltr.N : Resolved := .letter 17
@[inherit_doc Ltr.A] def Ltr.O : Resolved := .letter 18
@[inherit_doc Ltr.A] def Ltr.P : Resolved := .letter 19
@[inherit_doc Ltr.A] def Ltr.R : Resolved := .letter 21
@[inherit_doc Ltr.A] def Ltr.S : Resolved := .letter 22
@[inherit_doc Ltr.A] def Ltr.T : Resolved := .letter 23
@[inherit_doc Ltr.A] def Ltr.U : Resolved := .letter 24
@[inherit_doc Ltr.A] def Ltr.W : Resolved := .letter 26
@[inherit_doc Ltr.A] def Ltr.X : Resolved := .letter 27
@[inherit_doc Ltr.A] def Ltr.Y : Resolved := .letter 28
@[inherit_doc Ltr.A] def Ltr.sp : Resolved := .space

/-- What a replay header says (R174). -/
structure HeaderFacts where
  again       : Bool
  number      : Nat
  source      : Nat
  destination : Nat
  openedAt    : Nat
  completedAt : Nat
  count       : Nat
  gaps        : Nat
  cut         : Bool
  answerback  : Option (List Resolved)
  deriving DecidableEq, Repr

/-- The notices (notice index, chapter 12). -/
inductive Notice where
  | configFault | lineFault | duplicateStation
  | duplicateProbed (nn : Nat)
  | lineBroken | lineRestored | lineEngaged
  | noAnswer (nn : Nat)
  | refused (nn : Nat) (r : Reason)
  | callOpen (nn : Nat)
  | callFailed
  | cleared (nn : Nat) (c : Cause)
  | memberLeft (nn : Nat)
  | holdExpired (nn : Nat)
  | breakFrom (nn : Nat)
  | answerback (nn : Nat) (text : List Resolved)
  | callAbandoned | dialingAbandoned | lineDiscarded
  | textLost (n : Nat)
  | motorFault | runStopped | tapeEnd
  | runDone (nnn : Nat)
  | header (h : HeaderFacts)
  | endMsg (nnn : Nat)
  deriving DecidableEq, Repr

section
open Ltr

/-- The reason words (R75). -/
def Reason.word : Reason → List Resolved
  | .busy => [B, U, S, Y]
  | .notAccepting => [N, O, T, sp, A, C, C, E, P, T, I, N, G]
  | .fileFull => [F, I, L, E, sp, F, U, L, L]
  | .noAnswer => [N, O, sp, A, N, S, W, E, R]
  | .noTape => [N, O, sp, T, A, P, E]
  | .readerBusy => [R, E, A, D, E, R, sp, B, U, S, Y]

/-- The cause words (R91). -/
def Cause.word : Cause → List Resolved
  | .normal => [N, O, R, M, A, L]
  | .retryFailed => [R, E, T, R, Y, sp, F, A, I, L, E, D]
  | .silence => [S, I, L, E, N, C, E]
  | .congestion => [C, O, N, G, E, S, T, I, O, N]
  | .restart => [R, E, S, T, A, R, T]

/-- A time of the station clock as hhh:mm, hours modulo 1000 (R174). -/
def clockText (m : Nat) : List Resolved := digits 3 (m / 60 % 1000) ++ [.figure 21] ++ digits 2 (m % 60)

/-- The text of a replay header (R174). -/
def HeaderFacts.text (h : HeaderFacts) : List Resolved :=
  (if h.again then [R, E, P, E, A, T, sp] else [])
    ++ [M, S, G, sp] ++ digits 3 h.number
    ++ [sp, F, R, O, M, sp] ++ digits 2 h.source
    ++ [sp, T, O, sp] ++ digits 2 h.destination
    ++ [sp] ++ clockText h.openedAt ++ [.figure 13] ++ clockText h.completedAt
    ++ [sp] ++ digits 4 h.count ++ [sp, C, H, A, R, S]
    ++ (if 0 < h.gaps then [sp, L, O, S, T, sp] ++ digits 3 h.gaps else [])
    ++ (if h.cut then [sp, C, U, T] else [])
    ++ (match h.answerback with | some a => sp :: a | none => [])

/-- The text of a notice (R134, notice index of chapter 12). -/
def Notice.text : Notice → List Resolved
  | .configFault => [C, O, N, F, I, G, sp, F, A, U, L, T]
  | .lineFault => [L, I, N, E, sp, F, A, U, L, T]
  | .duplicateStation => [D, U, P, L, I, C, A, T, E, sp, S, T, A, T, I, O, N]
  | .duplicateProbed nn =>
    [D, U, P, L, I, C, A, T, E, sp, S, T, A, T, I, O, N, sp] ++ digits 2 nn ++ [sp, P, R, O, B, E, D]
  | .lineBroken => [L, I, N, E, sp, B, R, O, K, E, N]
  | .lineRestored => [L, I, N, E, sp, R, E, S, T, O, R, E, D]
  | .lineEngaged => [L, I, N, E, sp, E, N, G, A, G, E, D]
  | .noAnswer nn => [N, O, sp, A, N, S, W, E, R, sp] ++ digits 2 nn
  | .refused nn r => [R, E, F, U, S, E, D, sp] ++ digits 2 nn ++ [sp] ++ Reason.word r
  | .callOpen nn => [C, A, L, L, sp, O, P, E, N, sp] ++ digits 2 nn
  | .callFailed => [C, A, L, L, sp, F, A, I, L, E, D]
  | .cleared nn c => [C, L, E, A, R, E, D, sp] ++ digits 2 nn ++ [sp] ++ Cause.word c
  | .memberLeft nn => [M, E, M, B, E, R, sp, L, E, F, T, sp] ++ digits 2 nn
  | .holdExpired nn => [H, O, L, D, sp, E, X, P, I, R, E, D, sp] ++ digits 2 nn
  | .breakFrom nn => [B, R, E, A, K, sp, F, R, O, M, sp] ++ digits 2 nn
  | .answerback nn t => [A, N, S, W, E, R, B, A, C, K, sp] ++ digits 2 nn ++ [sp] ++ t
  | .callAbandoned => [C, A, L, L, sp, A, B, A, N, D, O, N, E, D]
  | .dialingAbandoned => [D, I, A, L, I, N, G, sp, A, B, A, N, D, O, N, E, D]
  | .lineDiscarded => [L, I, N, E, sp, D, I, S, C, A, R, D, E, D]
  | .textLost n => [T, E, X, T, sp, L, O, S, T, sp] ++ digits 1 n
  | .motorFault => [M, O, T, O, R, sp, F, A, U, L, T]
  | .runStopped => [R, U, N, sp, S, T, O, P, P, E, D]
  | .tapeEnd => [T, A, P, E, sp, E, N, D]
  | .runDone nnn => [R, U, N, sp, D, O, N, E, sp] ++ digits 3 nnn
  | .header h => h.text
  | .endMsg nnn => [E, N, D, sp, M, S, G, sp] ++ digits 3 nnn

end

/-- Cells of one origin (R3). -/
def cellsOf (o : Origin) (rs : List Resolved) : List Cell := rs.map fun r => .character r o

/-- A notice run: LF, the text, CR, LF, every cell of origin NOTICE (R134). -/
def Notice.run (n : Notice) : List Cell := cellsOf .notice ([.lf] ++ Notice.text n ++ [.cr, .lf])

end Sys2Proof.Machine
end

