-- ==== Sys2Proof/Machine/Operands.lean ====
section
/-!
DEFINITION. The operand forms of the commands: the fields of a telegram and their judging (R33 to R35), the
patterns of the sense lines (R119, R137), the key matrix (R98), and the configuration image (R180 to R182).
-/

namespace Sys2Proof.Machine

/-! ### Telegrams -/

/-- The kind a Kind field names (R33); values 0 and 12 to 15 name none (R35). -/
def kindOfField (k : BitVec 4) : Option Kind :=
  match k.toNat with
  | 1 => some .call
  | 2 => some .accept
  | 3 => some .refuse
  | 4 => some .clear
  | 5 => some .text
  | 6 => some .hold
  | 7 => some .go
  | 8 => some .brk
  | 9 => some .who
  | 10 => some .hereis
  | 11 => some .poll
  | _ => none

/-- The Kind field of a kind (R33). -/
def kindField : Kind → BitVec 4
  | .call => 1
  | .accept => 2
  | .refuse => 3
  | .clear => 4
  | .text => 5
  | .hold => 6
  | .go => 7
  | .brk => 8
  | .who => 9
  | .hereis => 10
  | .poll => 11

/-- The precedence a kind needs: TEXT 2, BREAK 0, every other 1 (R35). -/
def kindPrecedence : Kind → BitVec 2
  | .text => 2
  | .brk => 0
  | _ => 1

/-- The sum of the check: every field but Check, as numbers, plus every text code (R34). -/
def checkSum (t : Telegram) : Nat :=
  t.precedence.toNat + t.source.toNat + t.kind.toNat + t.sequence.toNat + t.destination.toNat
    + t.length.toNat + (t.text.map BitVec.toNat).sum

/-- The check value that makes the sum a multiple of 256 (R34). -/
def checkFor (t : Telegram) : Byte := BitVec.ofNat 8 (256 - checkSum t % 256)

/-- The digit a POLL code names (R35): code 3 is 1, on to code 11 for 9 and code 12 for 0. -/
def pollDigit (c : Code) : Option Nat :=
  if 3 ≤ c.toNat ∧ c.toNat ≤ 12 then some ((c.toNat - 2) % 10) else none

/-- The digits of a POLL, read most significant first (R35). -/
def pollDigits : List Code → Option (List Nat)
  | [] => some []
  | c :: cs =>
    match pollDigit c, pollDigits cs with
    | some d, some ds => some (d :: ds)
    | _, _ => none

/-- The count a POLL carries (R35, R88): 0 stands for none, which only a POLL of length 0 gives. -/
def pollCount (cs : List Code) : Nat :=
  match pollDigits cs with
  | some ds => ds.foldl (fun n d => 10 * n + d) 0
  | none => 0

/-- The reason a REFUSE value carries (R35, R75). -/
def reasonOf (c : Code) : Option Reason :=
  match c.toNat with
  | 1 => some .busy
  | 2 => some .notAccepting
  | 3 => some .fileFull
  | 4 => some .noAnswer
  | 5 => some .noTape
  | 6 => some .readerBusy
  | _ => none

/-- The REFUSE value of a reason (R75). -/
def reasonCode : Reason → Code
  | .busy => 1
  | .notAccepting => 2
  | .fileFull => 3
  | .noAnswer => 4
  | .noTape => 5
  | .readerBusy => 6

/-- The cause a CLEAR value carries (R35, R91). -/
def causeOf (c : Code) : Option Cause :=
  match c.toNat with
  | 0 => some .normal
  | 1 => some .retryFailed
  | 2 => some .silence
  | 3 => some .congestion
  | 4 => some .restart
  | _ => none

/-- The CLEAR value of a cause (R91). -/
def causeCode : Cause → Code
  | .normal => 0
  | .retryFailed => 1
  | .silence => 2
  | .congestion => 3
  | .restart => 4

/-- The lengths a kind allows (R35). -/
def lengthAllowed (k : Kind) (n : Nat) : Bool :=
  match k with
  | .refuse => n == 1
  | .clear => n == 1
  | .text => 1 ≤ n && n ≤ 48
  | .hereis => 1 ≤ n && n ≤ 48
  | .poll => n ≤ 3
  | _ => n == 0

/-- The values a kind's text allows (R35). -/
def textAllowed (k : Kind) (cs : List Code) : Bool :=
  match k with
  | .refuse => cs.all fun c => (reasonOf c).isSome
  | .clear => cs.all fun c => (causeOf c).isSome
  | .poll => cs.isEmpty || ((pollDigits cs).isSome && pollCount cs != 0)
  | _ => true

/-- The kind a valid telegram has, or none when some field makes it malformed (R35). -/
def validKind (t : Telegram) : Option Kind :=
  match kindOfField t.kind with
  | none => none
  | some k =>
    if t.precedence = kindPrecedence k
        ∧ (k = .text ∨ t.sequence = 0)
        ∧ (k = .who ∨ t.destination ≠ addrOf t.source)
        ∧ lengthAllowed k t.length.toNat
        ∧ t.text.length = t.length.toNat
        ∧ textAllowed k t.text
        ∧ (checkSum t + t.check.toNat) % 256 = 0
    then some k else none

/-- A telegram as this station sends it, with its Check computed (R33, R34). -/
def makeTelegram (k : Kind) (source : Station) (sequence : Seq) (destination : Addr) (text : List Code) : Telegram :=
  let t : Telegram :=
    { precedence := kindPrecedence k, source, kind := kindField k, sequence, destination
      length := BitVec.ofNat 6 text.length, text, check := 0 }
  { t with check := checkFor t }

/-- A probe: a WHO whose Source and Destination are equal (R51, R57). -/
def isProbe (k : Kind) (t : Telegram) : Bool := k = .who && t.destination = addrOf t.source

/-- The single value of a REFUSE as its reason (R34, R75). -/
def telegramReason (t : Telegram) : Option Reason :=
  match t.text with
  | c :: _ => reasonOf c
  | [] => none

/-- The single value of a CLEAR as its cause (R34, R91). -/
def telegramCause (t : Telegram) : Option Cause :=
  match t.text with
  | c :: _ => causeOf c
  | [] => none

/-! ### The units of a telegram, and the run of space (R33, R35, R47) -/

/-- A field's units, most significant first; a unit of value 0 is space (R31, R33). -/
def fieldUnits (n v : Nat) : List Bool := (List.range n).map fun i => v.testBit (n - 1 - i)

/-- The fields of a telegram in their order, Start first: the units of each, and whether it is found wrong (R33, R35).
A text that its kind does not allow is found wrong at its first wrong code, or, a POLL's count of 0, at its last. -/
def judgedFields (t : Telegram) : List (List Bool × Bool) :=
  let kind := kindOfField t.kind
  let allows (p : Kind → Bool) : Bool := match kind with | some k => p k | none => true
  let code (i : Nat) (c : Code) : List Bool × Bool :=
    (fieldUnits 5 c.toNat, !allows fun k => match k with
      | .poll => (pollDigit c).isSome && (i + 1 < t.text.length || pollCount t.text ≠ 0)
      | _ => textAllowed k [c])
  [([false], false),
   (fieldUnits 2 t.precedence.toNat, t.precedence = 3),
   (fieldUnits 5 t.source.toNat, false),
   (fieldUnits 4 t.kind.toNat, kind.isNone || !allows fun k => t.precedence = kindPrecedence k),
   (fieldUnits 3 t.sequence.toNat, !allows fun k => k = .text || t.sequence = 0),
   (fieldUnits 6 t.destination.toNat, !allows fun k => k = .who || t.destination ≠ addrOf t.source),
   (fieldUnits 6 t.length.toNat, !allows fun k => lengthAllowed k t.length.toNat)]
    ++ t.text.zipIdx.map (fun x => code x.2 x.1)
    ++ [(fieldUnits 8 t.check.toNat, false)]

/-- The units up to the end of the first field found wrong, where the judging stops (R35). -/
def judgedUnits : List (List Bool × Bool) → List Bool
  | [] => []
  | (units, wrong) :: rest => units ++ (if wrong then [] else judgedUnits rest)

/-- The units framed of a telegram after its Start: through Check, or through the field found wrong (R33, R35). -/
def framedUnits (t : Telegram) : List Bool := judgedUnits (judgedFields t).tail

/-- The units of a Turn (R33). -/
def turnUnits (u : SlotUnits) : List Bool := fieldUnits 2 u.turn.toNat

/-- A space stands in either unit of the ACK slot (R37, R41). -/
def heldSpace (u : SlotUnits) : Bool := u.ack != 3

/-- The units of space in succession that make a line break (R47). -/
def breakRun : Nat := 48

/-- The run of space once these units, mark (`true`) or space, have followed a run of `n`; it stands where it reaches the
line break (R47). -/
def spaceRunThrough : List Bool → Nat → Nat
  | [], n => n
  | mark :: rest, n => if breakRun ≤ n then n else spaceRunThrough rest (if mark then 0 else n + 1)

/-- The run of space after the ACK slot, from a run of `n` at Check: the slot's own units are not counted, and a mark in the
slot ends the run (R47); a station that takes the telegram drives space in both (R37). -/
def runAfterSlot (u : SlotUnits) (taken : Bool) (n : Nat) : Nat :=
  if taken ∨ u.ack = 0 then spaceRunThrough (turnUnits u) n else 0

/-! ### Sense lines -/

/-- Whether a line is high. -/
def isHigh : Level → Bool
  | .high => true
  | .low => false

/-- The state the two paper sense lines, or the two tape sense lines, give (R119, R137). -/
def supplyOf (first second : Level) : Supply :=
  match first, second with
  | .high, .high => .good
  | .high, .low => .low
  | .low, _ => .out

/-! ### The key matrix -/

/-- The key at a matrix position (R98); positions 47 to 63 carry none. -/
def keyAt (p : BitVec 6) : Option Key :=
  let n := p.toNat
  if n ≤ 12 then some (.code (BitVec.ofNat 5 (n + 3)))
  else if n ≤ 25 then some (.code (BitVec.ofNat 5 (n + 4)))
  else match n with
    | 26 => some .space
    | 27 => some .ltrs
    | 28 => some .figs
    | 29 => some .cr
    | 30 => some .lf
    | 31 => some .backspace
    | 32 => some .call
    | 33 => some .clear
    | 34 => some .who
    | 35 => some .hereis
    | 36 => some .brk
    | 37 => some .line
    | 38 => some .localMode
    | 39 => some .tape
    | 40 => some .readStart
    | 41 => some .readStop
    | 42 => some .filePrint
    | 43 => some .fileClear
    | 44 => some .attend
    | 45 => some .restart
    | 46 => some .poll
    | _ => none

/-- RESTART's matrix position (R98). -/
def restartPosition : BitVec 6 := 45

/-- The resolved character a character key gives by the keyboard case (R102); other keys give none. -/
def keyChar (k : Case) : Key → Option Resolved
  | .code c => some (charIn k c)
  | .space => some .space
  | .cr => some .cr
  | .lf => some .lf
  | _ => none

/-- The digit a code key gives in DIALING, whatever the case (R110). -/
def keyDigit : Key → Option Nat
  | .code c => pollDigit c
  | _ => none

/-! ### The configuration image -/

/-- What a load hands out: the configuration set and the three limits (R184). -/
structure Loaded where
  config : Configuration
  limits : Limits
  deriving DecidableEq, Repr

/-- Byte `n` of the image as a number; an image of 61 bytes has bytes 0 to 60 (R180). -/
def byteAt (image : List Byte) (n : Nat) : Nat := (image.getD n 0).toNat

/-- A bit of byte `n`. -/
def bitAt (image : List Byte) (n b : Nat) : Bool := (image.getD n 0).getLsbD b

/-- The resolved character an answerback byte gives (R181). -/
def answerbackChar (b : Byte) : Option Resolved :=
  let n := b.toNat
  if (0x23 ≤ n ∧ n ≤ 0x2F) ∨ (0x31 ≤ n ∧ n ≤ 0x3D) then some (.letter (BitVec.ofNat 5 (n - 0x20)))
  else if (0x43 ≤ n ∧ n ≤ 0x4F) ∨ (0x51 ≤ n ∧ n ≤ 0x59) ∨ (0x5B ≤ n ∧ n ≤ 0x5D) then
    some (.figure (BitVec.ofNat 5 (n - 0x40)))
  else if n = 0x5A then some .bell
  else if n = 0x01 then some .cr
  else if n = 0x02 then some .lf
  else if n = 0x10 then some .space
  else none

/-- The answerback bytes read until a byte of 0 or the end of the field (R181). -/
def answerbackChars : List Byte → Option (List Resolved)
  | [] => some []
  | b :: bs =>
    if b = 0 then some []
    else match answerbackChar b, answerbackChars bs with
      | some r, some rs => some (r :: rs)
      | _, _ => none

/-- The answerback of the image: 1 to 20 characters from byte 18 (R181). -/
def imageAnswerback (image : List Byte) : Option (List Resolved) :=
  match answerbackChars ((image.drop 18).take 20) with
  | some [] => none
  | r => r

/-- The function an AUX byte names (R157); 12 to 255 are a configuration fault. -/
def auxFnOf (n : Nat) : Option AuxFn :=
  match n with
  | 0 => some .unused
  | 1 => some .bell
  | 2 => some .callLamp
  | 3 => some .engagedLamp
  | 4 => some .fileLamp
  | 5 => some .faultLamp
  | 6 => some .attendedLamp
  | 7 => some .tapeLowLamp
  | 8 => some .paperLowLamp
  | 9 => some .motorSense
  | 10 => some .attendSwitch
  | 11 => some .runLamp
  | _ => none

/-- The rate a rate code names (R31). -/
def rateOf (n : Nat) : Option Rate :=
  match n with
  | 0 => some .r600
  | 1 => some .r1200
  | 2 => some .r2400
  | 3 => some .r4800
  | _ => none

/-- The route bits of a window flags byte (layout of R180: FILE bit 2, PUNCH bit 1, PRINT bit 0). -/
def routeAt (image : List Byte) (n : Nat) : Route := ⟨bitAt image n 0, bitAt image n 1, bitAt image n 2⟩

/-- Window `i` of W1 to W7: base, mask and flags from three bytes at 36 + 3 i (R180, R181). -/
def windowAt (image : List Byte) (i : Nat) : Window :=
  let n := 36 + 3 * i
  { enabled := bitAt image (n + 2) 7
    base := BitVec.ofNat 6 (byteAt image n)
    mask := BitVec.ofNat 6 (byteAt image (n + 1))
    route := routeAt image (n + 2)
    acceptCalls := bitAt image (n + 2) 3 }

/-- Whether the bytes of window `i` of W1 to W7 are in range: base and mask 0–63, flag bits 6 to 4 zero (R180). -/
def windowBytesValid (image : List Byte) (i : Nat) : Bool :=
  let n := 36 + 3 * i
  byteAt image n ≤ 63 && byteAt image (n + 1) ≤ 63
    && !bitAt image (n + 2) 6 && !bitAt image (n + 2) 5 && !bitAt image (n + 2) 4

/-- Whether a byte stands in its range (R182). -/
def byteIn (image : List Byte) (n lo hi : Nat) : Bool := lo ≤ byteAt image n && byteAt image n ≤ hi

/-- The tests of R182 that bear on single bytes, the signature, the checksum and the window flags. -/
def imageBytesValid (image : List Byte) : Bool :=
  image.length == 61
    && byteAt image 0 == 0xA5 && byteAt image 1 == 0x3C
    && (image.map BitVec.toNat).sum % 256 == 0
    && byteIn image 4 40 80 && byteIn image 5 2 120 && byteIn image 6 0 60 && byteIn image 7 0 1
    && byteIn image 8 1 7 && byteIn image 9 4 32 && byteIn image 10 8 96 && byteIn image 11 8 96
    && !bitAt image 38 7 && !bitAt image 38 6 && !bitAt image 38 5 && !bitAt image 38 4
    && windowBytesValid image 1 && windowBytesValid image 2 && windowBytesValid image 3
    && windowBytesValid image 4 && windowBytesValid image 5 && windowBytesValid image 6
    && windowBytesValid image 7

/-- The AUX functions of bytes 12 to 17 (R157). -/
def imageAux (image : List Byte) : Option (Vector AuxFn 6) :=
  match auxFnOf (byteAt image 12), auxFnOf (byteAt image 13), auxFnOf (byteAt image 14),
        auxFnOf (byteAt image 15), auxFnOf (byteAt image 16), auxFnOf (byteAt image 17) with
  | some a, some b, some c, some d, some e, some f => some #v[a, b, c, d, e, f]
  | _, _, _, _, _, _ => none

/-- The eight windows of the image, W0 with its three forced fields (R55, R181). -/
def imageWindows (station : Station) (image : List Byte) : Vector Window 8 :=
  #v[ownWindow station (routeAt image 38) (bitAt image 38 3),
     windowAt image 1, windowAt image 2, windowAt image 3, windowAt image 4,
     windowAt image 5, windowAt image 6, windowAt image 7]

/-- The configuration a complete image gives when every test of R182 holds, none when any one fails. -/
def loadImage (station : Station) (image : List Byte) : Option Loaded :=
  if imageBytesValid image then
    match rateOf (byteAt image 2), imageAux image, imageAnswerback image with
    | some rate, some aux, some answerback =>
      some
        { limits := ⟨byteAt image 9, byteAt image 10, byteAt image 11⟩
          config :=
            { rate
              edit := bitAt image 3 7
              unshiftOnSpace := bitAt image 3 6
              wrap := bitAt image 3 5
              originSeparation := bitAt image 3 4
              keepPrinted := bitAt image 3 3
              autoReplay := bitAt image 3 2
              tapeEcho := bitAt image 3 1
              autoWho := bitAt image 3 0
              width := byteAt image 4
              motorHold := byteAt image 5
              attendTimeout := byteAt image 6
              defaultAttended := byteAt image 7 == 1
              retryLimit := byteAt image 8
              aux, answerback
              windows := imageWindows station image } }
    | _, _, _ => none
  else none

/-- What a failed load hands out: the whole default set (R183). -/
def loadDefaults (station : Station) : Loaded := ⟨Configuration.default station, Limits.default⟩

/-! ### The samples of a key position (R99) -/

/-- The other level. -/
def KeyLevel.other : KeyLevel → KeyLevel
  | .up => .down
  | .down => .up

/-- The sample is against the level held: closed at an UP position, open at a DOWN one (R99). -/
def KeyLevel.isAgainst (closed : Bool) : KeyLevel → Bool
  | .up => closed
  | .down => !closed

/-- One sample of a position (R99): the third in a row against its level changes the level, one with it sets the count
to 0. -/
def KeyScan.sample (closed : Bool) (k : KeyScan) : KeyScan :=
  if k.level.isAgainst closed then
    if k.count < 2 then { k with count := k.count + 1 } else ⟨k.level.other, 0⟩
  else { k with count := 0 }

/-- A position's samples, one a sweep, up to the one that changes its level (R99, log 10). -/
def KeyScan.samples : List Bool → KeyScan → KeyScan
  | [], k => k
  | b :: bs, k => if (k.sample b).level = k.level then KeyScan.samples bs (k.sample b) else k.sample b

end Sys2Proof.Machine
end

