-- ==== Sys2Proof/Machine/Store.lean ====
section
/-!
DEFINITION. The character store's memory and its acts: blocks, the free-block stack, queues, file chains, the
space check (R12 to R25). Nothing here signals block events; Ops.lean does (R27).
-/

namespace Sys2Proof.Machine

/-! ### Memory: a list of (key, content), keys strictly rising -/

/-- What stands at a key; none where nothing is listed (R12: "has no content", "a link of none"). -/
def Memory.read {α : Type} (k : Nat) : List (Nat × α) → Option α
  | [] => none
  | (k', v) :: m => if k = k' then some v else Memory.read k m

/-- Put a content at a key, keeping the keys strictly rising. -/
def Memory.write {α : Type} (k : Nat) (v : α) : List (Nat × α) → List (Nat × α)
  | [] => [(k, v)]
  | (k', v') :: m =>
    if k < k' then (k, v) :: (k', v') :: m
    else if k = k' then (k, v) :: m
    else (k', v') :: Memory.write k v m

/-- Take away the contents at the keys that satisfy `p`. -/
def Memory.clear {α : Type} (p : Nat → Bool) (m : List (Nat × α)) : List (Nat × α) := m.filter fun e => !p e.1

/-- The canonical form: keys strictly rising. (An entry equal to what an unlisted key reads as cannot be written
down: an unlisted key has no content.) -/
def Memory.wf {α : Type} : List (Nat × α) → Bool
  | [] => true
  | [_] => true
  | (k, _) :: (k', v') :: m => k < k' && Memory.wf ((k', v') :: m)

/-! ### Blocks -/

/-- The key of a cell: 32 cells a block (R12). -/
def cellKey (block position : Nat) : Nat := 32 * block + position

/-- The cell at a position of a block (R12). -/
def Store.cellAt (st : Store) (block position : Nat) : Option Cell := Memory.read (cellKey block position) st.cells

/-- A block's link (R12). -/
def Store.link (st : Store) (block : Nat) : Option Nat := Memory.read block st.links

/-- Release of a block: its link is set to none, its cells lose their contents, and its number goes on top of the
free-block stack (R12, R13). -/
def Store.release (st : Store) (block : Nat) : Store :=
  { st with
    cells := Memory.clear (fun k => k / 32 == block) st.cells
    links := Memory.clear (fun k => k == block) st.links
    free := block :: st.free }

/-- Release of blocks in the order given, each pushed as it is reached (R25). -/
def Store.releaseAll (st : Store) (blocks : List Nat) : Store := blocks.foldl Store.release st

/-- The first `n` blocks of a chain, by its links (R12, R15). -/
def Store.chainBlocks (st : Store) : Nat → Option Nat → List Nat
  | 0, _ => []
  | _, none => []
  | n + 1, some b => b :: st.chainBlocks n (st.link b)

/-- Set the link of the present tail block, if there is one, to a block newly taken (R18). -/
def linkTail (tail : Option Nat) (block : Nat) (links : List (Nat × Nat)) : List (Nat × Nat) :=
  match tail with
  | some t => Memory.write t block links
  | none => links

/-! ### Queues -/

/-- The record of a queue. -/
def Store.queue (st : Store) : QueueName → Queue
  | .send => st.send
  | .print => st.print
  | .punch => st.punch

/-- Replace the record of a queue. -/
def Store.setQueue (st : Store) (n : QueueName) (q : Queue) : Store :=
  match n with
  | .send => { st with send := q }
  | .print => { st with print := q }
  | .punch => { st with punch := q }

/-- The room left in a queue's tail block (R18). -/
def Queue.room (q : Queue) : Nat :=
  match q.tail with
  | some _ => 31 - q.tailIndex
  | none => 0

/-- The blocks needed by a run of `k` cells where `room` cells are left (R18). -/
def blocksFor (room k : Nat) : Nat := if k ≤ room then 0 else (k - room + 31) / 32

/-- The blocks a run needs in a queue (R18). -/
def Queue.blocksNeeded (q : Queue) (run : List Cell) : Nat := blocksFor q.room run.length

/-- The limit test of the space check (R19). -/
def Queue.limitPasses (q : Queue) (run : List Cell) : Bool := q.blockCount + q.blocksNeeded run ≤ q.limit

/-- The reserve class of a run (R19). -/
inductive ReserveClass where
  | respect | mayUse
  deriving DecidableEq, Repr

/-- The reserve test (R19): a run that needs no block passes in either class. -/
def reservePasses (c : ReserveClass) (free needed : Nat) : Bool :=
  needed == 0 ||
    match c with
    | .respect => needed + 5 ≤ free
    | .mayUse => needed ≤ free

/-- The free count (R13). -/
def Store.freeCount (st : Store) : Nat := st.free.length

/-- The space check of a run for one queue (R19). -/
def Store.spaceCheck (st : Store) (n : QueueName) (c : ReserveClass) (run : List Cell) : Bool :=
  (st.queue n).limitPasses run && reservePasses c st.freeCount ((st.queue n).blocksNeeded run)

/-- A cell written on in a queue's tail block, or in a block taken from the top of the stack (R18). With no block
to take, which the space check excludes, nothing is written. -/
def Store.pushCell (n : QueueName) (st : Store) (c : Cell) : Store :=
  let q := st.queue n
  match q.tail, decide (q.tailIndex < 31) with
  | some t, true =>
    { st with cells := Memory.write (cellKey t (q.tailIndex + 1)) c st.cells }.setQueue n
      { q with tailIndex := q.tailIndex + 1, cellCount := q.cellCount + 1 }
  | tail, _ =>
    match st.free with
    | [] => st
    | b :: rest =>
      { st with
        cells := Memory.write (cellKey b 0) c st.cells
        links := linkTail tail b st.links
        free := rest }.setQueue n
        { q with
          head := match q.head with | some h => some h | none => some b
          headIndex := match q.head with | some _ => q.headIndex | none => 0
          tail := some b
          tailIndex := 0
          cellCount := q.cellCount + 1
          blockCount := q.blockCount + 1 }

/-- A run written after the newest cell of a queue, in its order (R17, R18). -/
def Store.pushRun (st : Store) (n : QueueName) (run : List Cell) : Store := run.foldl (Store.pushCell n) st

/-- A queue with no cells; its limit and open-call mark stay (R25). -/
def Queue.emptied (q : Queue) : Queue :=
  { q with head := none, tail := none, cellCount := 0, blockCount := 0 }

/-- The oldest cell of a queue, if it holds one (R15, R23). -/
def Store.headCell (st : Store) (n : QueueName) : Option Cell :=
  match (st.queue n).head with
  | some h => st.cellAt h (st.queue n).headIndex
  | none => none

/-- Removal of the oldest cell; a block emptied by it is released at once (R23). -/
def Store.popCell (n : QueueName) (st : Store) : Store :=
  let q := st.queue n
  match q.head with
  | none => st
  | some h =>
    if q.cellCount ≤ 1 then (st.release h).setQueue n q.emptied
    else if q.headIndex = 31 then
      (st.release h).setQueue n
        { q with head := st.link h, headIndex := 0, cellCount := q.cellCount - 1, blockCount := q.blockCount - 1 }
    else
      { st with cells := Memory.clear (fun k => k == cellKey h q.headIndex) st.cells }.setQueue n
        { q with headIndex := q.headIndex + 1, cellCount := q.cellCount - 1 }

/-- Removal of `k` cells, one at a time (R24). -/
def Store.popCells (n : QueueName) : Nat → Store → Store
  | 0, st => st
  | k + 1, st => Store.popCells n k (st.popCell n)

/-- The cells of a chain from a place on, at most `n` of them (R15). -/
def Store.cellsFrom (st : Store) : Nat → Option Nat → Nat → List Cell
  | 0, _, _ => []
  | _, none, _ => []
  | n + 1, some b, i =>
    let rest := if i = 31 then st.cellsFrom n (st.link b) 0 else st.cellsFrom n (some b) (i + 1)
    match st.cellAt b i with
    | some c => c :: rest
    | none => rest

/-- The cells of a queue, oldest first (R15). -/
def Store.queueCells (st : Store) (n : QueueName) : List Cell :=
  st.cellsFrom (st.queue n).cellCount (st.queue n).head (st.queue n).headIndex

/-- Flush of a queue: its blocks are released in chain order and it is empty, its in-flight count 0 (R25). -/
def Store.flushQueue (st : Store) (n : QueueName) : Store :=
  let q := st.queue n
  (st.releaseAll (st.chainBlocks q.blockCount q.head)).setQueue n { q.emptied with inFlight := 0 }

/-- The unsent cells of SEND: those beyond the in-flight count (R79). -/
def Store.unsentCount (st : Store) : Nat := st.send.cellCount - st.send.inFlight

/-! ### File chains -/

/-- The block count of a chain: its cell count divided by 32, rounded up (R16). -/
def Chain.blockCount (ch : Chain) : Nat := (ch.count + 31) / 32

/-- The room left in a chain's last block (R16, R18). -/
def Chain.room (ch : Chain) : Nat := if ch.count % 32 = 0 then 0 else 32 - ch.count % 32

/-- The blocks a run needs in a chain (R18). -/
def Chain.blocksNeeded (ch : Chain) (run : List Cell) : Nat := blocksFor ch.room run.length

/-- A chain with no cells (R16). -/
def Chain.empty : Chain := ⟨none, none, 0⟩

/-- A cell appended to the tail of a chain (R16, R18). -/
def Store.pushChainCell (p : Store × Chain) (c : Cell) : Store × Chain :=
  let (st, ch) := p
  match ch.last, decide (ch.room ≠ 0) with
  | some b, true =>
    ({ st with cells := Memory.write (cellKey b (ch.count % 32)) c st.cells }, { ch with count := ch.count + 1 })
  | last, _ =>
    match st.free with
    | [] => (st, ch)
    | b :: rest =>
      ({ st with
         cells := Memory.write (cellKey b 0) c st.cells
         links := linkTail last b st.links
         free := rest },
       { first := match ch.first with | some f => some f | none => some b
         last := some b
         count := ch.count + 1 })

/-- A run appended to a chain (R16, R17). -/
def Store.pushChainRun (st : Store) (ch : Chain) (run : List Cell) : Store × Chain :=
  run.foldl Store.pushChainCell (st, ch)

/-- The cell at an offset of a chain (R16, R172). -/
def Store.chainCell (st : Store) (ch : Chain) (offset : Nat) : Option Cell :=
  if offset < ch.count then
    match (st.chainBlocks (offset / 32 + 1) ch.first).getLast? with
    | some b => st.cellAt b (offset % 32)
    | none => none
  else none

/-- Flush of a chain: its blocks are released in chain order (R25). -/
def Store.flushChain (st : Store) (ch : Chain) : Store := st.releaseAll (st.chainBlocks ch.blockCount ch.first)

end Sys2Proof.Machine
end

