-- ==== Sys2Proof/Machine/Flags.lean ====
section
/-!
DEFINITION. What is read from the state and held nowhere of its own: availability (R61), the answer windows
(R56), flow levels (R28), effective destinations (R62, R63), the source selector's choice (R128), motor demand
(R133, R142, R150), and the lamps, the bell, the MOTOR pin and the auxiliary terminals (R152, R156 to R158).
-/

namespace Sys2Proof.Machine

/-! ### Configuration in force -/

/-- The configuration load has ended (R184). -/
def loaded (s : State) : Bool := !s.cl.resetLow && s.cl.load ≠ .loading

/-- One unit time (R31). -/
def unitTime (s : State) : Tick := s.cl.config.rate.unit

/-- Unshift-on-space (R10). -/
def unshift (s : State) : Bool := s.cl.config.unshiftOnSpace

/-- This station's own address. -/
def ownAddr (s : State) : Addr := addrOf s.cl.station

/-- The terminal that is the input of a function: the lowest-numbered one that carries it (R157). -/
def auxInput (f : AuxFn) (c : Configuration) : Option (Fin 6) := (List.finRange 6).find? fun i => c.aux[i] = f

/-- A MOTOR SENSE input is assigned (R153). -/
def senseAssigned (s : State) : Bool := (auxInput .motorSense s.cl.config).isSome

/-- An ATTEND SWITCH input is assigned (R159). -/
def switchAssigned (s : State) : Bool := (auxInput .attendSwitch s.cl.config).isSome

/-- The attend timeout is on (R162). -/
def timeoutOn (s : State) : Bool := s.cl.config.attendTimeout ≠ 0 && !switchAssigned s

/-! ### Answer windows (R55, R56) -/

/-- A destination matches a window (R56). -/
def Window.matches (w : Window) (d : Addr) : Bool := w.enabled && (d &&& w.mask) = (w.base &&& w.mask)

/-- W1 to W7 in order. -/
def groupWindows : List (Fin 8) := [1, 2, 3, 4, 5, 6, 7]

/-- The window that applies to a destination; none when it is not addressed here (R56). -/
def windowFor (s : State) (d : Addr) : Option (Fin 8) :=
  if d = ownAddr s then some 0
  else if isGroup d then groupWindows.find? fun i => Window.matches s.cl.config.windows[i] d
  else none

/-- The route of W0 (R60). -/
def ownRoute (s : State) : Route := s.cl.config.windows[0].route

/-! ### The call record -/

/-- A CALLER in a group call has no party station (R60, R71). -/
def isGroupCaller (c : CallRecord) : Bool := c.role = some .caller && c.partyStation = none

/-- The call is an individual one (R58): its role is CALLER or CALLED and it has a party station. -/
def isIndividual (c : CallRecord) : Bool :=
  (c.role = some .caller || c.role = some .called) && c.partyStation ≠ none

/-- The station is the call's party (R60). -/
def isParty (s : State) (src : Station) : Bool :=
  if isGroupCaller s.cm.call then src ≠ s.cl.station else s.cm.call.partyStation = some src

/-- The role may send text: CALLER or CALLED of an OPEN call (R79, R104). -/
def maySend (c : CallRecord) : Bool :=
  c.state = .opened && (c.role = some .caller || c.role = some .called)

/-! ### The message file -/

/-- A record is closed when its state is FILED or CUT (R168). -/
def FileRecord.isClosed (r : FileRecord) : Bool := r.state ≠ .opened

/-- Closed and printed (R22, R171). -/
def FileRecord.isPrinted (r : FileRecord) : Bool := r.isClosed && r.printed

/-- Closed and not printed (R174, R175). -/
def FileRecord.isUnprinted (r : FileRecord) : Bool := r.isClosed && !r.printed

/-- The record in a slot. -/
def recordIn (s : State) (slot : Fin 24) : Option FileRecord := s.au.file.find? fun r => r.slot = slot

/-- A slot can be had: fewer than 24 records, or a closed printed one (R61, R164). -/
def slotFree (s : State) : Bool := s.au.file.length < 24 || s.au.file.any FileRecord.isPrinted

/-- The reclaimable blocks: those in the chains of closed printed records (R22). -/
def reclaimable (s : State) : Nat := ((s.au.file.filter FileRecord.isPrinted).map fun r => r.chain.blockCount).sum

/-! ### Availability (R61, R120, R138) -/

/-- PRINT is available (R61, R120). -/
def printerAvailable (s : State) : Bool := s.pu.present && s.pu.paper ≠ .out && s.mt.motor ≠ .faulted

/-- PUNCH is available (R61, R138). -/
def punchAvailable (s : State) : Bool := s.tu.punchPresent && s.tu.tape ≠ .out && s.mt.motor ≠ .faulted

/-- FILE is available (R61). -/
def fileAvailable (s : State) : Bool :=
  s.cm.call.fileLink.isSome || (!(s.au.file.any fun r => !r.isClosed) && slotFree s)

/-- The destinations of a route that are available. -/
def availableIn (s : State) (r : Route) : Route :=
  ⟨r.print && printerAvailable s, r.punch && punchAvailable s, r.file && fileAvailable s⟩

/-- Effective destinations of a TEXT (R62 attended, R63 unattended). -/
def effective (s : State) : Route :=
  let r := s.cm.call.route
  let a := availableIn s r
  match s.au.attendance with
  | .attended => ⟨a.print, a.punch, a.file && !a.print⟩
  | .unattended => ⟨a.print && !r.file, a.punch, a.file⟩

/-! ### Flow levels (R28) -/

/-- The flow levels are tested: OPEN, with a role other than group CALLER (R28). -/
def flowApplies (s : State) : Bool := s.cm.call.state = .opened && !isGroupCaller s.cm.call

/-- The HOLD-level (R28). -/
def holdLevel (s : State) : Bool :=
  let r := s.cm.call.route
  s.cs.freeCount ≤ 12
    || (r.print && s.cs.print.limit ≤ s.cs.print.blockCount + 2)
    || (r.punch && s.cs.punch.limit ≤ s.cs.punch.blockCount + 2)

/-- The GO-level (R28). -/
def goLevel (s : State) : Bool :=
  let r := s.cm.call.route
  20 ≤ s.cs.freeCount
    && (!r.print || s.cs.print.blockCount + 4 ≤ s.cs.print.limit)
    && (!r.punch || s.cs.punch.blockCount + 4 ≤ s.cs.punch.limit)
    && !(availableIn s r).isEmpty

/-! ### The source selector (R128) -/

/-- The cell the print cursor offers (R128, R172): its mode is FOLLOW or REPLAY, no header is pending, and the cell exists. -/
def cursorCell (s : State) : Option Cell :=
  match s.au.cursor with
  | none => none
  | some c =>
    if c.headerPending then none
    else match recordIn s c.record with
      | some r => s.cs.chainCell r.chain c.offset
      | none => none

/-- The printer stands at a line boundary (R128). -/
def atLineBoundary (s : State) : Bool := s.pu.column = some 1 || s.pu.lastOp = some .lf

/-- What a source offers (R123). -/
def offered (s : State) : Source → Option Cell
  | .queue => s.cs.headCell .print
  | .cursor => cursorCell s

/-- The choice of the selector: the source, with the cell it offers; none when nothing is taken (R128). -/
def choose (s : State) : Option (Source × Cell) :=
  if atLineBoundary s then
    match offered s .queue, offered s .cursor with
    | some c, _ => some (.queue, c)
    | none, some c => some (.cursor, c)
    | none, none => none
  else
    match offered s s.pu.source with
    | some c => some (s.pu.source, c)
    | none => none

/-! ### Demand on the motor -/

/-- The printer may start an operation (R121): PRESENT, paper not OUT, motor RUNNING. -/
def printerOperable (s : State) : Bool := s.pu.present && s.pu.paper ≠ .out && s.mt.motor = .running

/-- The punch may start an operation (R139). -/
def punchOperable (s : State) : Bool := s.tu.punchPresent && s.tu.tape ≠ .out && s.mt.motor = .running

/-- The printer's demand (R133). -/
def printerDemandNow (s : State) : Bool :=
  s.pu.present && s.pu.paper ≠ .out && (s.pu.op.isSome || s.pu.work.isSome || (choose s).isSome)

/-- The punch's demand (R142). -/
def punchDemandNow (s : State) : Bool :=
  s.tu.punchPresent && s.tu.tape ≠ .out
    && (s.tu.punchOp.isSome || s.tu.punchWork.isSome || s.cs.punch.cellCount ≠ 0)

/-- A run is RUNNING (R150). -/
def runIsRunning (t : TapeUnit) : Bool :=
  match t.run with
  | some r => r.state = .running
  | none => false

/-- The reader's demand (R150). -/
def readerDemandNow (s : State) : Bool := runIsRunning s.tu || s.tu.cycle.isSome

/-- Motor demand as last reported: any of the three (R152). -/
def demandHeld (m : MotorTerminal) : Bool := m.printerDemand || m.punchDemand || m.readerDemand

/-! ### Outputs (computed from the state they show, log 18) -/

/-- The MOTOR pin (R152). -/
def motorPin (s : State) : Bool := s.mt.motor = .starting || s.mt.motor = .running

/-- The bell output (R156): any pulse running, or the cadence in its on phase. -/
def bellOutput (s : State) : Bool :=
  !s.mt.pulses.isEmpty || match s.mt.cadence with | some p => p.on | none => false

/-- The CALL lamp (R158). -/
def callLamp (s : State) : Bool :=
  match s.cm.call.state with
  | .awaiting => true
  | .opened => true
  | .ringing => match s.mt.flash with | some p => p.on | none => false
  | _ => false

/-- The FILE lamp: a record whose printed flag is clear, an OPEN one included (R158). -/
def fileLamp (s : State) : Bool := s.au.file.any fun r => !r.printed

/-- The FAULT lamp's four causes (R158). -/
def faultLamp (s : State) : Bool :=
  s.cl.fault || s.lu.joinState = .listenOnly || s.lu.condition = .broken || s.mt.motor = .faulted

/-- What a function drives its terminal to, on or off; none where it leaves it undriven, as the input functions do, the
input itself and any higher terminal of the same code (R157, R158). An unused terminal is driven off. -/
def functionDrives (s : State) : AuxFn → Option Bool
  | .unused => some false
  | .bell => some (bellOutput s)
  | .callLamp => some (callLamp s)
  | .engagedLamp => some (s.cm.view.state ≠ .free)
  | .fileLamp => some (fileLamp s)
  | .faultLamp => some (faultLamp s)
  | .attendedLamp => some (s.au.attendance = .attended)
  | .tapeLowLamp => some (s.tu.tape ≠ .good)
  | .paperLowLamp => some (s.pu.paper ≠ .good)
  | .motorSense => none
  | .attendSwitch => none
  | .runLamp => some (s.mt.motor = .running)

/-- What auxiliary terminal `i` is driven to, none where it is undriven; off until the load ends (R157, R158). -/
def auxTerminal (s : State) (i : Fin 6) : Option Bool :=
  if loaded s then functionDrives s s.cl.config.aux[i] else some false

end Sys2Proof.Machine
end

