-- ==== Sys2Proof/Machine/Time.lean ====
section
/-!
DEFINITION. Time: how every timer and count of time moves as time passes (log 1). While RESET is low nothing is
timed (R179).
-/

namespace Sys2Proof.Machine

/-- A timer after `d` more ticks; one that has run out stays at 0 until its expiry is taken. -/
def timeDown (d : Tick) (t : Option Tick) : Option Tick := t.map fun left => left - d

/-- A phase after `d` more ticks. -/
def Phase.elapse (d : Tick) (p : Phase) : Phase := { p with left := p.left - d }

/-- A readiness after `d` more ticks: the retry wait runs by itself (R42), and a ready retry counts on (R38). -/
def Readiness.elapse (d : Tick) : Readiness → Readiness
  | .ready => .ready
  | .retryReady since => .retryReady (since + d)
  | .waiting left => .waiting (left - d)

/-- A control entry after `d` more ticks. -/
def ControlEntry.elapse (d : Tick) (e : ControlEntry) : ControlEntry := { e with readiness := e.readiness.elapse d }

/-- The TEXT place after `d` more ticks. -/
def TextPlace.elapse (d : Tick) (p : TextPlace) : TextPlace := { p with readiness := p.readiness.elapse d }

/-- Whether the quiet timer counts the time at mark: in HUNTING, the line BROKEN or not, and not OFFLINE (R32, R36, R49,
log 40). -/
def LineUnit.counting (l : LineUnit) : Bool := l.joinState ≠ .offline && l.receive = .hunting

/-- The Line Unit after `d` more ticks without a space read: the space unit read last lasts on, then the line is at mark;
the quiet timer and the mark count of a break count the time at mark (R32, R48), and a run of space ends with any (R47,
log 17). -/
def LineUnit.elapse (d : Tick) (l : LineUnit) : LineUnit :=
  { l with
    quiet := if l.counting then l.quiet + (d - l.spaceLeft) else l.quiet
    markRun := if l.condition = .broken then l.markRun + (d - l.spaceLeft) else l.markRun
    spaceRun := if l.counting && l.spaceLeft < d then 0 else l.spaceRun
    spaceLeft := l.spaceLeft - d
    frameTime := if l.receive = .hunting then l.frameTime else l.frameTime + d
    listenWindow := if l.condition = .clear then timeDown d l.listenWindow else l.listenWindow
    probeWait := timeDown d l.probeWait
    control := l.control.map (ControlEntry.elapse d)
    text := l.text.map (TextPlace.elapse d) }

/-- The time until the line has been at mark for `d` more ticks: the space unit read last ends first (R32, log 17). -/
def LineUnit.untilMark (d : Tick) (l : LineUnit) : Tick := if d = 0 then 0 else l.spaceLeft + d

/-- The send timer after `d` more ticks. -/
def SendTimer.elapse (d : Tick) : SendTimer → SendTimer
  | .stopped => .stopped
  | .running left => .running (left - d)
  | .expired => .expired

/-- A hold entry after `d` more ticks. -/
def Hold.elapse (d : Tick) (h : Hold) : Hold := { h with left := h.left - d }

/-- The Call Manager after `d` more ticks. -/
def CallManager.elapse (d : Tick) (c : CallManager) : CallManager :=
  { c with
    view.ringWait := timeDown d c.view.ringWait
    view.silence := timeDown d c.view.silence
    call.holdSet := c.call.holdSet.map (Hold.elapse d)
    call.heldSince := timeDown d c.call.heldSince
    sendTimer := c.sendTimer.elapse d
    breakTimer := timeDown d c.breakTimer }

/-- The Print Unit after `d` more ticks. -/
def PrintUnit.elapse (d : Tick) (p : PrintUnit) : PrintUnit :=
  { p with opLeft := p.opLeft - d, heatTimer := timeDown d p.heatTimer }

/-- A reader cycle after `d` more ticks. -/
def ReaderCycle.elapse (d : Tick) (c : ReaderCycle) : ReaderCycle := { c with left := c.left - d }

/-- The Tape Unit after `d` more ticks. -/
def TapeUnit.elapse (d : Tick) (t : TapeUnit) : TapeUnit :=
  { t with punchLeft := t.punchLeft - d, cycle := t.cycle.map (ReaderCycle.elapse d) }

/-- A bell pulse after `d` more ticks. -/
def Pulse.elapse (d : Tick) (p : Pulse) : Pulse := { p with left := p.left - d }

/-- The Motor and Terminal Control after `d` more ticks. -/
def MotorTerminal.elapse (d : Tick) (m : MotorTerminal) : MotorTerminal :=
  { m with
    runUp := timeDown d m.runUp
    senseWindow := timeDown d m.senseWindow
    hold := timeDown d m.hold
    faultWait := timeDown d m.faultWait
    pulses := m.pulses.map (Pulse.elapse d)
    cadence := m.cadence.map (Phase.elapse d)
    flash := m.flash.map (Phase.elapse d) }

/-- The Answering Unit after `d` more ticks. -/
def AnsweringUnit.elapse (d : Tick) (a : AnsweringUnit) : AnsweringUnit :=
  { a with
    attendTimer := timeDown d a.attendTimer
    ringTimer := timeDown d a.ringTimer
    minuteLeft := timeDown d a.minuteLeft }

/-- The machine after `d` more ticks in which nothing happens. -/
def elapse (d : Tick) (s : State) : State :=
  if s.cl.resetLow then s
  else
    { s with
      lu := s.lu.elapse d
      cm := s.cm.elapse d
      pu := s.pu.elapse d
      tu := s.tu.elapse d
      mt := s.mt.elapse d
      au := s.au.elapse d
      cl.loadLeft := timeDown d s.cl.loadLeft }

end Sys2Proof.Machine
end

