-- ==== Sys2Proof/Machine/Ops.lean ====
section
/-!
DEFINITION. The operations the blocks share: control requests (R43, R46), block events and the flow levels
(R27, R28, R83, R84), appends and notices (R17 to R20, R134), the bell (R156), and sending a TEXT's cells (R79, R80).
-/

namespace Sys2Proof.Machine

/-! ### The outgoing control list (R43) -/

/-- The control entry of this kind is in the transmit slot. -/
def inSlot (k : Kind) (l : LineUnit) : Bool :=
  match l.slot with
  | some x => x.source = .control k
  | none => false

/-- The TEXT is in the transmit slot. -/
def textInSlot (l : LineUnit) : Bool :=
  match l.slot with
  | some x => x.source = .text
  | none => false

/-- A new entry: ready, with nothing used (R43). -/
def ControlEntry.fresh (r : Request) : ControlEntry := ⟨r, 0, 0, .ready, false, none⟩

/-- The opposite of the HOLD and GO pair (R43). -/
def holdOpposite : Kind → Option Kind
  | .hold => some .go
  | .go => some .hold
  | _ => none

/-- An entry a HOLD or GO request cancels against: of the opposite kind, to the same destination, not in the slot (R43). -/
def cancels (l : LineUnit) (r : Request) (e : ControlEntry) : Bool :=
  holdOpposite r.kind = some e.content.kind && e.content.destination = r.destination && !inSlot e.content.kind l

/-- A request entered into the list (R43). Two choices are the model's, where the spec is silent: the pair's rule comes
before that of an entry of the same kind, in the slot or outside it, which is then left as it is (log 36); and a second
content for the entry in the slot takes the place of the one held beside it, unreported (log 41). -/
def enterRequest (r : Request) (l : LineUnit) : LineUnit :=
  if l.control.any (cancels l r) then { l with control := l.control.filter fun e => !cancels l r e }
  else if l.control.any fun e => e.content.kind = r.kind then
    { l with
      control := l.control.map fun e =>
        if e.content.kind = r.kind then
          if inSlot r.kind l then { e with beside := some r } else ControlEntry.fresh r
        else e }
  else { l with control := l.control ++ [ControlEntry.fresh r] }

/-- The LU enters requests: JOINED (R46), and not while the restart CLEAR is waited for (R54). -/
def entersRequests (l : LineUnit) : Bool := l.joinState = .joined && !l.restartClear

/-- A request to the LU; none when it is refused at once as exhausted (R46, R54). -/
def luRequest (r : Request) (s : State) : Option State :=
  if entersRequests s.lu then some { s with lu := enterRequest r s.lu } else none

/-- A request with the retry limit as its allowance (R42). -/
def request (s : State) (k : Kind) (d : Addr) (text : List Code) (who : Requester) : Request :=
  ⟨k, d, text, who, s.cl.config.retryLimit⟩

/-- A requester withdraws its entry: outside the slot it is removed at once; in the slot the attempt runs to its
end and the entry is then removed, unreported, with any content held beside it (R43). -/
def withdraw (k : Kind) (l : LineUnit) : LineUnit :=
  { l with
    control :=
      if inSlot k l then
        l.control.map fun e => if e.content.kind = k then { e with withdrawn := true, beside := none } else e
      else l.control.filter fun e => e.content.kind ≠ k }

/-- The CM withdraws the TEXT in the place (R44). -/
def withdrawText (l : LineUnit) : LineUnit :=
  { l with
    text :=
      if textInSlot l then l.text.map fun p => { p with withdrawn := true } else none }

/-! ### Flow control (R28, R83, R84) -/

/-- A control request whose exhaustion changes nothing: HOLD, GO, REFUSE, BREAK, HEREIS, POLL and the CLEARs
whose outcome the CM ignores (R84, R96). -/
def requestOrDrop (r : Request) (s : State) : State := (luRequest r s).getD s

/-- The address of the talking party, for HOLD and GO (R67, R83, R84). -/
def talkingParty (c : CallRecord) : Addr :=
  match c.partyStation with
  | some n => addrOf n
  | none => c.partyAddr

/-- HOLD is queued to the talking party (R83). -/
def queueHold (s : State) : State :=
  requestOrDrop (request s .hold (talkingParty s.cm.call) [] .cm) s

/-- Held-by-me is set: HOLD queued, held-since started from 0 (R83). -/
def setHeld (s : State) : State :=
  { queueHold s with
    cm.call.heldByMe := true
    cm.call.heldSince := some (sec 120) }

/-- At the GO-level: GO queued, held-by-me cleared, held-since stopped (R84). -/
def clearHeld (s : State) : State :=
  { requestOrDrop (request s .go (talkingParty s.cm.call) [] .cm) s with
    cm.call.heldByMe := false
    cm.call.heldSince := none }

/-- The CM's test of the flow levels (R28, R83, R84). -/
def flowTest (s : State) : State :=
  if flowApplies s then
    if holdLevel s then (if s.cm.call.heldByMe then s else setHeld s)
    else if goLevel s && s.cm.call.heldByMe then clearHeld s
    else s
  else s

/-! ### Block events (R27) -/

/-- The run is PAUSED (R148). -/
def runIsPaused (t : TapeUnit) : Bool :=
  match t.run with
  | some r => r.state = .paused
  | none => false

/-- A replay header is pending (R174). -/
def headerIsPending (a : AnsweringUnit) : Bool :=
  match a.cursor with
  | some c => c.headerPending
  | none => false

/-- A block-released event: the waiting key, the PAUSED run and the pending header each have it to answer
(log 6), and the CM tests the flow levels (R27, R28). -/
def blockReleased (s : State) : State :=
  flowTest
    { s with
      ku.retryDue := s.ku.retryDue || s.ku.headWaiting
      tu.resumeDue := s.tu.resumeDue || runIsPaused s.tu
      au.headerRetryDue := s.au.headerRetryDue || headerIsPending s.au }

/-- A block-taken event: the CM tests the flow levels (R27, R28). -/
def blockTaken (s : State) : State := flowTest s

/-- The events of one act that took and released blocks (R27): one of each kind, after the act is whole. -/
def signal (released taken : Bool) (s : State) : State :=
  let s1 := if released then blockReleased s else s
  if taken then blockTaken s1 else s1

/-! ### Appends (R17 to R20) -/

/-- The send timer starts when a run reaches a SEND that holds no unsent cell (R79). -/
def startSendTimer (n : QueueName) (run : List Cell) (s : State) : State :=
  if n = .send ∧ run ≠ [] ∧ s.cs.unsentCount = 0 then { s with cm.sendTimer := .running (ms 400) } else s

/-- A run that has passed stands in its queue, before the event of the act (R17, R18). -/
def placeRun (n : QueueName) (run : List Cell) (s : State) : State :=
  { startSendTimer n run s with cs := s.cs.pushRun n run }

/-- A run takes a block of the queue (R18, R27). -/
def takesBlock (n : QueueName) (run : List Cell) (s : State) : Bool := (s.cs.queue n).blocksNeeded run != 0

/-- A run appended to a queue, with the event of the act; none when the space check refuses it (R17 to R20, R27). -/
def appendRun (n : QueueName) (c : ReserveClass) (run : List Cell) (s : State) : Option State :=
  if s.cs.spaceCheck n c run then some (signal false (takesBlock n run s) (placeRun n run s)) else none

/-- A notice: appended to PRINT as one run of class MAY USE when the printer is PRESENT; discarded when it is
ABSENT, dropped when refused (R20, R134). -/
def notice (n : Notice) (s : State) : State :=
  if s.pu.present then (appendRun .print .mayUse n.run s).getD s else s

/-- A notice that is part of a larger act: the state with it in PRINT, and whether it took a block, for the event that
the act gives when it is whole (R27, R134). -/
def placeNotice (n : Notice) (s : State) : State × Bool :=
  if s.pu.present && s.cs.spaceCheck .print .mayUse n.run then (placeRun .print n.run s, takesBlock .print n.run s)
  else (s, false)

/-- Removal of the head cell of a queue, with the event of the act (R23, R27). -/
def removeHead (n : QueueName) (s : State) : State :=
  let st := s.cs.popCell n
  signal (s.cs.freeCount < st.freeCount) false { s with cs := st }

/-- SEND is flushed, and the send timer stopped, since SEND then holds no unsent cell (R25, R79). -/
def flushSend (s : State) : State :=
  let st := s.cs.flushQueue .send
  signal (s.cs.freeCount < st.freeCount) false { s with cs := st, cm.sendTimer := .stopped }

/-- The in-flight cells are removed from the head of SEND, and the in-flight count is 0 (R24). -/
def ackSend (s : State) : State :=
  let st := Store.popCells .send s.cs.send.inFlight s.cs
  let st := { st with send.inFlight := 0 }
  signal (s.cs.freeCount < st.freeCount) false { s with cs := st }

/-! ### The bell (R156) -/

/-- A 100 ms bell pulse from the moment it is taken. -/
def bellPulse (b : BellSource) (s : State) : State :=
  { s with mt.pulses := s.mt.pulses ++ [⟨b, ms 100⟩] }

/-- A key is refused, or a refusal is reported to the KU: the bell sounds for 100 ms (R20, R156). -/
def refuseKey (s : State) : State := bellPulse .keyboard s

/-! ### Forming a TEXT (R79, R80) -/

/-- The resolved characters among cells. -/
def charsOf (cs : List Cell) : List Resolved :=
  cs.filterMap fun c => match c with | .character r _ => some r | .boundary _ _ => none

/-- The unsent characters of SEND (R79). -/
def unsentChars (s : State) : List Resolved := charsOf ((s.cs.queueCells .send).drop s.cs.send.inFlight)

/-- The CM permits a TEXT (R79). -/
def permitsText (s : State) : Bool :=
  s.lu.joinState = .joined && maySend s.cm.call && s.cm.call.holdSet.isEmpty

/-- The unsent cells are ready to go (R79). -/
def readyToGo (s : State) : Bool :=
  let u := unsentChars s
  !u.isEmpty && (48 ≤ encodedLength (unshift s) u || u.contains .cr || s.cm.sendTimer = .expired)

/-- An entry waits for its retry (R42). -/
def Readiness.isReady : Readiness → Bool
  | .waiting _ => false
  | _ => true

/-- The place of the candidate is the TEXT place's: the slot is empty, the line CLEAR, requests are served, and no
control entry is ready (R45). -/
def textMayBeChosen (s : State) : Bool :=
  s.lu.slot = none && s.lu.condition = .clear && !s.lu.restartClear
    && !(s.lu.control.any fun e => e.readiness.isReady)

/-- The CM forms a new TEXT when the place is empty, the LU would choose it, it is permitted, and the unsent cells
are ready to go; it waits in the place for its gap (R44, R45, R79, R80, log 7). -/
def formText (s : State) : State :=
  if s.lu.text = none ∧ textMayBeChosen s ∧ permitsText s ∧ s.cs.send.inFlight = 0 ∧ readyToGo s then
    let u := unsentChars s
    let n := fitCount (unshift s) 48 (some .ltrs) u
    { s with
      cs.send.inFlight := n
      cm.sendTimer := if n = u.length then .stopped else s.cm.sendTimer
      lu.text := some
        { destination := s.cm.call.partyAddr
          sequence := s.cm.call.sendSeq
          codes := lineSend (unshift s) (u.take n)
          retriesUsed := 0
          collisions := 0
          readiness := .ready
          withdrawn := false } }
  else s

end Sys2Proof.Machine
end

