-- ==== Sys2Proof/Machine/File.lean ====
section
/-!
DEFINITION. The shared operations of the Answering Unit: file records (R168 to R171), the print cursor (R172 to
R176), attendance (R160 to R162), and the answer decision (R163, R164).
-/

namespace Sys2Proof.Machine

/-! ### Records -/

/-- Change the record in a slot. -/
def updateRecord (slot : Fin 24) (f : FileRecord → FileRecord) (s : State) : State :=
  { s with au.file := s.au.file.map fun r => if r.slot = slot then f r else r }

/-- Deletion of a record: out of the file's order, its slot freed, its chain flushed (R171), before the event. -/
def dropRecord (r : FileRecord) (s : State) : State :=
  { s with
    au.file := s.au.file.filter fun x => x.slot ≠ r.slot
    cs := s.cs.flushChain r.chain }

/-- The CM is told of a change of FILE availability while a call is OPEN with FILE in its route and no OPEN record,
and tests the flow levels (R28, R61, R171). -/
def fileChange (was : Bool) (s : State) : State :=
  if fileAvailable s ≠ was ∧ s.cm.call.route.file ∧ s.cm.call.fileLink = none then flowTest s else s

/-- The oldest closed printed record (R169, R171). -/
def oldestPrinted (s : State) : Option FileRecord := s.au.file.find? FileRecord.isPrinted

/-- The oldest closed unprinted record (R174, R175). -/
def oldestUnprinted (s : State) : Option FileRecord := s.au.file.find? FileRecord.isUnprinted

/-! ### The print cursor -/

/-- The cursor has offered every cell of a closed record, its header appended (R173). -/
def cursorDone (s : State) : Bool :=
  match s.au.cursor with
  | none => false
  | some c =>
    match recordIn s c.record with
    | some r => !c.headerPending && r.isClosed && r.chain.count ≤ c.offset
    | none => false

/-- The cursor is freed and the source falls back to QUEUE (R129). A character in hand is dropped when the cursor is
abandoned, and finished when it ends (R129). -/
def freeCursor (ended : Bool) (s : State) : State :=
  { s with
    au.cursor := none
    au.headerRetryDue := false
    pu.source := .queue
    pu.work :=
      match s.pu.work with
      | some w =>
        if w.source = .cursor then (if ended || w.kept then some { w with kept := true } else none) else some w
      | none => none }

/-- The record just printed goes, with keep-printed off (R171, R173). -/
def dropPrinted (r : FileRecord) (s : State) : State := if s.cl.config.keepPrinted then s else dropRecord r s

/-- The cursor ends (R173), in one act: printed is set, END MSG is appended, the cursor is freed, and with keep-printed
off the record is deleted; the block events come when all of it is done (R27). -/
def endCursor (s : State) : State :=
  match s.au.cursor with
  | none => s
  | some c =>
    match recordIn s c.record with
    | none => freeCursor true s
    | some r =>
      let p := placeNotice (.endMsg r.number) (updateRecord c.record (fun x => { x with printed := true }) s)
      fileChange (fileAvailable s)
        (signal (!s.cl.config.keepPrinted && r.chain.blockCount != 0) p.2 (dropPrinted r (freeCursor true p.1)))

/-- The cursor is abandoned (R176): no notice, and the record keeps its flags. -/
def abandonCursor (s : State) : State :=
  match s.au.cursor with
  | none => s
  | some _ => freeCursor false s

/-- What the header of a record says (R174). -/
def headerOf (r : FileRecord) (again : Bool) : HeaderFacts where
  again := again
  number := r.number
  source := r.source.toNat
  destination := r.destination.toNat
  openedAt := r.openedAt.toNat
  completedAt := match r.completedAt with | some m => m.toNat | none => 0
  count := r.chain.count
  gaps := r.gapCount
  cut := r.state = .cut
  answerback := r.answerback

/-- The header of the cursor's record is tried: appended, header-pending is cleared; refused, it stays pending (R174). -/
def tryHeader (s : State) : State :=
  match s.au.cursor with
  | none => s
  | some c =>
    if c.headerPending then
      match recordIn s c.record with
      | none => s
      | some r =>
        match appendRun .print .mayUse (Notice.run (.header (headerOf r c.again)))
            { s with au.headerRetryDue := false } with
        | some s' => { s' with au.cursor := some { c with headerPending := false } }
        | none => { s with au.headerRetryDue := false }
    else s

/-- A REPLAY of a record starts (R174): cursor placed with the header pending, print started read and then set, and
the header tried. A record with no cells ends when its header is appended (R173). -/
def startReplay (r : FileRecord) (s : State) : State :=
  let s1 := updateRecord r.slot (fun x => { x with printStarted := true }) s
  let s2 := tryHeader { s1 with au.cursor := some ⟨r.slot, 0, .replay, true, r.printStarted⟩ }
  if cursorDone s2 then endCursor s2 else s2

/-- The record a FOLLOW cursor may be placed on (R172). -/
def followable (s : State) : Option FileRecord :=
  if s.au.cursor = none ∧ s.au.attendance = .unattended ∧ printerAvailable s then
    s.au.file.find? fun r => !r.isClosed && !r.printStarted && s.cl.config.windows[r.window].route.print
  else none

/-- The AU's test for FOLLOW (R172). -/
def followTest (s : State) : State :=
  match followable s with
  | some r =>
    { updateRecord r.slot (fun x => { x with printStarted := true }) s with
      au.cursor := some ⟨r.slot, 0, .follow, false, false⟩ }
  | none => s

/-- The record auto replay would start on (R175). -/
def replayable (s : State) : Option FileRecord :=
  if s.cl.config.autoReplay ∧ s.au.attendance = .unattended ∧ s.cm.call.state ≠ .opened ∧ s.au.cursor = none
      ∧ printerAvailable s then oldestUnprinted s
  else none

/-- The AU's tests for FOLLOW and for auto replay, made again each time a replay ends at once (R172, R173, R175).
The first argument bounds the replays that end at once by the records there are. -/
def auTestsFor : Nat → State → State
  | 0, s => followTest s
  | n + 1, s =>
    let s1 := followTest s
    match replayable s1 with
    | some r =>
      let s2 := startReplay r s1
      if s2.au.cursor = none then auTestsFor n s2 else s2
    | none => s1

/-- The AU's tests for FOLLOW and for auto replay (R172, R175). -/
def auTests (s : State) : State := auTestsFor s.au.file.length s

/-- The cursor ends if it is done, and the AU then makes its tests (R173). -/
def finishCursor (s : State) : State := if cursorDone s then auTests (endCursor s) else s

/-! ### Attendance -/

/-- The attend timer at its full length, or stopped where the timeout is off (R162). -/
def attendTimerFull (s : State) : Option Tick :=
  if timeoutOn s then some (minutes s.cl.config.attendTimeout) else none

/-- The attendance becomes the target (R160): to UNATTENDED stops the attend timer, to ATTENDED starts it (R162); a
change is an occasion for the AU's tests (R172, R175). -/
def becomeAttendance (target : Attendance) (s : State) : State :=
  if s.au.attendance = target then s
  else
    auTests
      { s with
        au.attendance := target
        au.attendTimer := if target = .attended then attendTimerFull s else none }

/-- A request to change attendance (R160). -/
def attendRequest (target : Attendance) (cause : AttendCause) (s : State) : State :=
  if s.cm.call.state = .idle then becomeAttendance target { s with au.pending := none }
  else if s.au.attendance = target then { s with au.pending := none }
  else { s with au.pending := some (target, cause) }

/-- A pending change is applied (R160). -/
def applyPending (s : State) : State :=
  match s.au.pending with
  | some (target, _) => becomeAttendance target { s with au.pending := none }
  | none => s

/-- The AU is told of a press (R100, R162): in ATTENDED the attend timer starts again, and a pending change of
cause TIMEOUT is cleared. -/
def pressReport (s : State) : State :=
  { s with
    au.attendTimer := if s.au.attendance = .attended then attendTimerFull s else s.au.attendTimer
    au.pending :=
      match s.au.pending with
      | some (_, .timeout) => none
      | p => p }

/-! ### The answer decision (R163, R164) -/

/-- The unattended test: none is ACCEPT, else the reason of the REFUSE (R164). -/
def unattendedTest (s : State) : Option Reason :=
  if (ownRoute s).file then
    if slotFree s ∧ 12 < s.cs.freeCount + reclaimable s then none else some .fileFull
  else if (ownRoute s).print ∧ printerAvailable s then none
  else some .notAccepting

/-- The AU's decision on a CALL, for the window that applies (R163). -/
def answerDecision (s : State) (source : Station) (destination : Addr) (w : Fin 8) : AnswerOutcome :=
  let c := s.cm.call
  let individual : Bool := destination = ownAddr s
  let win := s.cl.config.windows[w]
  if individual ∧ c.state = .calling ∧ c.partyStation = some source then .glare
  else if c.state ≠ .idle ∧ c.state ≠ .dialing then (if individual then .refuse .busy else .notTaken)
  else if !win.acceptCalls then (if individual then .refuse .notAccepting else .notTaken)
  else if individual then
    match s.au.attendance with
    | .attended => .ring
    | .unattended =>
      match unattendedTest s with
      | none => .accept
      | some r => .refuse r
  else if s.au.attendance = .unattended ∧ win.route.file ∧ !fileAvailable s then .notTaken
  else .memberJoin

end Sys2Proof.Machine
end

