-- ==== Sys2Proof/Machine/Calls.lean ====
section
/-!
DEFINITION. The shared operations of the Call Manager: the call record's state and its ends (R71, R77, R78, R92,
R95), the line view (R68 to R70), exhaustion (R96), reader runs it stops (R149, R150), and the acceptance of a TEXT
with its delivery (R21, R22, R62 to R66, R169).
-/

namespace Sys2Proof.Machine

/-! ### The reader run, as others end it (R149, R150) -/

/-- A run ends: the record is removed, a cycle in progress will have its code dropped, and for SEND the reader run
link is cleared (R150). -/
def endRun (s : State) : State :=
  match s.tu.run with
  | none => s
  | some r =>
    { s with
      tu.run := none
      tu.resumeDue := false
      tu.cycle := s.tu.cycle.map fun c => { c with dropped := true }
      cm.call.readerLink := if r.destination = .send then false else s.cm.call.readerLink }

/-- The CM tells the TU to stop the run of the reader run link; a run with another destination is left (R86, R95, R149). -/
def stopSendRun (s : State) : State :=
  if s.cm.call.readerLink then
    match s.tu.run with
    | some r => if r.destination = .send then endRun s else s
    | none => s
  else s

/-! ### The call record's state -/

/-- The call record goes to a state. A waiting key is taken again on any change (R101). In leaving RINGING the ring
state becomes NONE, the ring timer stops and the cadence is withdrawn (R165); in entering it the CALL lamp starts
to flash, on first (R158). -/
def setCallState (st : CallState) (s : State) : State :=
  let stays : Bool := st = .ringing
  { s with
    cm.call.state := st
    ku.retryDue := s.ku.retryDue || (s.ku.headWaiting && st ≠ s.cm.call.state)
    au.ring := if stays then s.au.ring else .none
    au.ringTimer := if stays then s.au.ringTimer else none
    mt.cadence := if stays then s.mt.cadence else none
    mt.flash :=
      if stays then (if s.cm.call.state = .ringing then s.mt.flash else some ⟨true, ms 500⟩) else none }

/-- The line view goes FREE (R68). -/
def freeView (s : State) : State := { s with cm.view := LineView.reset }

/-- The caller of this station's own call, for the line view (R70). -/
def viewCaller (s : State) : Option Station :=
  if s.cm.call.role = some .caller then some s.cl.station else s.cm.call.partyStation

/-- The line view is set to RINGING for this station's call, its timer started afresh (R70). -/
def ringView (s : State) : State :=
  { s with cm.view := ⟨.ringing, viewCaller s, some s.cm.call.callAddr, some (sec 40), none⟩ }

/-- The line view is set to ENGAGED for this station's call, its timer started afresh (R70). -/
def engageView (s : State) : State :=
  { s with cm.view := ⟨.engaged, viewCaller s, some s.cm.call.callAddr, none, some (sec 120)⟩ }

/-- The CM tells the AU that the record has reached IDLE: the auto-answered flag is cleared (R167), a pending
attendance change applied (R160), and auto replay tested (R175). -/
def tellIdle (s : State) : State := auTests (applyPending { s with au.autoAnswered := false })

/-! ### Leaving OPEN (R95) -/

/-- An END boundary goes to a queue whose open-call mark is present, and the mark is cleared whether it was
appended or refused (R26). -/
def appendEnd (n : QueueName) (s : State) : State :=
  match (s.cs.queue n).openMark with
  | none => s
  | some p =>
    let s1 := (appendRun n .mayUse [.boundary .finish p] s).getD s
    { s1 with cs := s1.cs.setQueue n { s1.cs.queue n with openMark := none } }

/-- The edit stack is emptied, with LINE DISCARDED if it held any character (R109). -/
def discardEdit (s : State) : State :=
  if s.ku.editStack = [] then s else notice .lineDiscarded { s with ku.editStack := [] }

/-- The call's file record closes, FILED or CUT (R95, R170). -/
def closeFile (filed : Bool) (s : State) : State :=
  match s.cm.call.fileLink with
  | none => s
  | some slot =>
    { updateRecord slot
        (fun r => { r with
          state := if filed then .filed else .cut
          completedAt := some s.au.clock }) s with
      cm.call.fileLink := none }

/-- The TEXT in the place and the CM's HOLD, GO and BREAK entries are withdrawn (R95). -/
def withdrawOpen (s : State) : State :=
  { s with lu := withdraw .brk (withdraw .go (withdraw .hold (withdrawText s.lu))) }

/-- The hold set is empty and held-by-me clear, its timer stopped (R78, R95). -/
def clearHolds (s : State) : State :=
  { s with cm.call.holdSet := [], cm.call.heldByMe := false, cm.call.heldSince := none }

/-- What the CM does when the record leaves OPEN, in the order of R95; a FOLLOW cursor that had caught up with the
record is then done, and its caller finishes it (R173, log 5). -/
def leaveOpen (st : CallState) (filed : Bool) (s : State) : State :=
  let s1 := flushSend (discardEdit (stopSendRun (clearHolds (withdrawOpen (setCallState st s)))))
  closeFile filed (appendEnd .punch (appendEnd .print s1))

/-- An optional notice. -/
def noticeIf (n : Option Notice) (s : State) : State :=
  match n with
  | some x => notice x s
  | none => s

/-- The record goes to IDLE from any state, with what leaving OPEN does if it was OPEN, a notice, and the AU told (R95). A
FOLLOW that ends with its record is dealt with, its auto-replay test too, before a pending attendance is applied: the
model's choice (log 39). -/
def toIdle (filed : Bool) (n : Option Notice) (s : State) : State :=
  let s1 := if s.cm.call.state = .opened then leaveOpen .idle filed s else setCallState .idle s
  tellIdle (finishCursor (noticeIf n s1))

/-! ### Requests with an outcome (R96) -/

/-- The party address as it stands in a notice. -/
def partyNumber (s : State) : Nat := s.cm.call.partyAddr.toNat

/-- The CM takes the exhaustion of a control telegram (R74, R77, R84, R89, R92, R96). -/
def exhausted (r : Request) (s : State) : State :=
  if r.requester = .cm then
    match r.kind with
    | .call => if s.cm.call.state = .calling then toIdle false (some (.noAnswer r.destination.toNat)) s else s
    | .accept => if s.cm.call.state = .ringing then toIdle false (some .callFailed) s else s
    | .clear => if s.cm.call.state = .clearing then toIdle false none s else s
    | .who => notice (.noAnswer r.destination.toNat) s
    | .refuse => s
    | .text => s
    | .hold => s
    | .go => s
    | .brk => s
    | .hereis => s
    | .poll => s
  else s

/-- A request whose refusal by the LU is an exhaustion the CM takes at once (R46). -/
def sendRequest (r : Request) (s : State) : State :=
  match luRequest r s with
  | some s' => s'
  | none => exhausted r s

/-- A CLEAR of this station's, for the CM to wait on in CLEARING (R92). -/
def clearRequest (c : Cause) (s : State) : Request :=
  request s .clear s.cm.call.partyAddr [causeCode c] .cm

/-- The record goes from OPEN to CLEARING, with a notice and a CLEAR to the party address (R81, R85, R92). -/
def openToClearing (filed : Bool) (n : Option Notice) (c : Cause) (s : State) : State :=
  let s1 := finishCursor (noticeIf n (leaveOpen .clearing filed s))
  sendRequest (clearRequest c s1) s1

/-- The TEXT in the place is exhausted (R81). -/
def textExhausted (s : State) : State :=
  if s.cm.call.state = .opened then
    openToClearing false (some (.cleared (partyNumber s) .retryFailed)) .retryFailed s
  else s

/-! ### Opening (R78) -/

/-- The WHO of the WHO key and of auto-WHO (R89, R167). -/
def requestWho (d : Addr) (s : State) : State := sendRequest (request s .who d [] .cm) s

/-- The sequences and the holds of a call that opens (R78). -/
def openFields (s : State) : State := clearHolds { s with cm.call.sendSeq := 1, cm.call.recvSeq := 0 }

/-- The record enters OPEN (R78): sequences and holds reset, the view ENGAGED, CALL OPEN nn but for a MEMBER, and
the AU told, which may ask for a WHO (R167). -/
def enterOpen (s : State) : State :=
  let s := engageView (openFields (setCallState .opened s))
  let s := if s.cm.call.role = some .member then s else notice (.callOpen (partyNumber s)) s
  if s.cm.call.role = some .called ∧ s.au.autoAnswered ∧ s.cl.config.autoWho then requestWho s.cm.call.partyAddr s
  else s

/-- The fields set when the record leaves IDLE for a call to this station (R71, R76). -/
def setCalled (role : Role) (source : Station) (destination : Addr) (w : Fin 8) (s : State) : State :=
  { s with
    cm.call.role := some role
    cm.call.callAddr := destination
    cm.call.partyAddr := addrOf source
    cm.call.partyStation := some source
    cm.call.route := s.cl.config.windows[w].route
    cm.call.window := w
    cm.call.answer := .none
    cm.call.answerback := none
    cm.call.fileLink := none
    cm.call.readerLink := false }

/-- The fields set when the record goes to CALLING (R71, R72). -/
def setCaller (d : Addr) (s : State) : State :=
  { s with
    cm.call.role := some .caller
    cm.call.callAddr := d
    cm.call.partyAddr := d
    cm.call.partyStation := if isGroup d then none else some (stationOf d)
    cm.call.route := ownRoute s
    cm.call.window := 0
    cm.call.answer := .none
    cm.call.answerback := none
    cm.call.fileLink := none
    cm.call.readerLink := false }

/-! ### The AU's answer in RINGING (R77) -/

/-- The AU answers ACCEPT: ACCEPT queued to the caller, answer ACCEPT SENT (R77). -/
def answerAccept (s : State) : State :=
  let s1 := { s with cm.call.answer := .acceptSent }
  sendRequest (request s1 .accept s1.cm.call.partyAddr [] .cm) s1

/-- The AU answers REFUSE with a reason: REFUSE queued to the caller, the record IDLE (R77). -/
def answerRefuse (r : Reason) (s : State) : State :=
  toIdle false none
    (requestOrDrop (request s .refuse s.cm.call.partyAddr [reasonCode r] .cmNoOutcome) s)

/-! ### Stopping the local sending (R86, R87) -/

/-- The send sequence grows by 1 if a TEXT is in flight (R86). -/
def stepSequence (s : State) : State :=
  if s.cs.send.inFlight ≠ 0 then { s with cm.call.sendSeq := s.cm.call.sendSeq + 1 } else s

/-- The TEXT in the place is withdrawn (R86). -/
def withdrawPlace (s : State) : State := { s with lu := withdrawText s.lu }

/-- Steps 1 to 4 of R86. -/
def stopSending (s : State) : State :=
  flushSend (withdrawPlace (stepSequence (stopSendRun s)))

/-! ### Acceptance of a TEXT (R62 to R66) and its delivery (R21, R22, R169) -/

/-- The class of a TEXT by its sequence (R64). -/
inductive TextClass where
  | duplicate
  | fresh (lost : Nat)
  deriving DecidableEq, Repr

/-- The class of sequence `s` after last accepted `a`: normal has a lost count of 0, a gap from 1 to 6 (R64). -/
def classify (a s : Seq) : TextClass := if s = a then .duplicate else .fresh (s - a - 1).toNat

/-- The gap notice, for a gap (R65). -/
def gapRun (lost : Nat) : List Cell := if lost = 0 then [] else (Notice.textLost lost).run

/-- A START boundary before a run that holds another cell, where the queue's open-call mark is absent (R66). -/
def withStart (q : Queue) (party : Station) (run : List Cell) : List Cell :=
  if run ≠ [] ∧ q.openMark = none then .boundary .start party :: run else run

/-- The runs of a TEXT for the effective destinations (R66). -/
structure TextRuns where
  print : List Cell
  punch : List Cell
  file  : List Cell
  deriving DecidableEq, Repr

/-- One run for each effective destination (R66). -/
def textRuns (s : State) (e : Route) (party : Station) (lost : Nat) (text : List Resolved) : TextRuns :=
  let body := cellsOf .line text
  { print := if e.print then withStart s.cs.print party (gapRun lost ++ body) else []
    punch := if e.punch then withStart s.cs.punch party body else []
    file := if e.file then gapRun lost ++ body else [] }

/-- The chain a file run would go to: the OPEN record's, or a new empty one (R66, R169). -/
def targetChain (s : State) : Chain :=
  match s.cm.call.fileLink with
  | some slot => match recordIn s slot with | some r => r.chain | none => Chain.empty
  | none => Chain.empty

/-- The blocks a delivery needs in all (R21). -/
def deliveryBlocks (s : State) (r : TextRuns) : Nat :=
  s.cs.print.blocksNeeded r.print + s.cs.punch.blocksNeeded r.punch + (targetChain s).blocksNeeded r.file

/-- The space check of a delivery: each queue's limit, and the reserve once on the sum, counting reclaimable blocks
where it includes a file chain (R21, R22). -/
def deliveryPasses (s : State) (e : Route) (r : TextRuns) : Bool :=
  s.cs.print.limitPasses r.print && s.cs.punch.limitPasses r.punch
    && reservePasses .respect (s.cs.freeCount + (if e.file then reclaimable s else 0)) (deliveryBlocks s r)

/-- Printed records are deleted, oldest first, until the free count passes the reserve test for `needed` blocks (R22). -/
def reclaimFor (needed : Nat) : Nat → State → State
  | 0, s => s
  | n + 1, s =>
    if reservePasses .respect s.cs.freeCount needed then s
    else match oldestPrinted s with
      | some r => reclaimFor needed n (dropRecord r s)
      | none => s

/-- A free slot: the lowest-numbered one (R169, log 15). -/
def lowestSlot (s : State) : Option (Fin 24) := (List.finRange 24).find? fun i => (recordIn s i).isNone

/-- The next record number after one: after 999 it wraps to 1 (R168). -/
def numberAfter (n : Nat) : Nat := if n = 999 then 1 else n + 1

/-- A record opens, last in the file's order, in a free slot or in that of the oldest closed printed record, which
is deleted first (R169). -/
def openRecord (s : State) : State :=
  let s := if s.au.file.length < 24 then s else
    match oldestPrinted s with
    | some r => dropRecord r s
    | none => s
  match lowestSlot s with
  | none => s
  | some slot =>
    { s with
      au.file := s.au.file ++
        [{ slot
           number := s.au.nextNumber
           source := s.cm.call.partyStation.getD 0
           destination := s.cm.call.callAddr
           window := s.cm.call.window
           openedAt := s.au.clock
           completedAt := none
           state := .opened
           printed := false
           printStarted := false
           chain := Chain.empty
           gapCount := 0
           answerback := s.cm.call.answerback }]
      au.nextNumber := numberAfter s.au.nextNumber
      cm.call.fileLink := some slot }

/-- A file run, with its gap count held at 255, goes into the call's record (R65, R170). -/
def appendFile (run : List Cell) (lost : Nat) (s : State) : State :=
  match s.cm.call.fileLink with
  | none => s
  | some slot =>
    match recordIn s slot with
    | none => s
    | some r =>
      let (st, ch) := s.cs.pushChainRun r.chain run
      updateRecord slot (fun x => { x with chain := ch, gapCount := min 255 (x.gapCount + lost) }) { s with cs := st }

/-- A START sets the queue's open-call mark (R26). -/
def markStart (q : Queue) (party : Station) (run : List Cell) : Queue :=
  match run with
  | .boundary .start _ :: _ => { q with openMark := some party }
  | _ => q

/-- The delivery of a TEXT that passes: the record opened, printed records deleted for blocks, the runs appended in
the order PRINT, PUNCH, file chain (R21, R22, R66). -/
def deliver (e : Route) (r : TextRuns) (party : Station) (lost : Nat) (s : State) : State :=
  let needed := deliveryBlocks s r
  let s := if e.file ∧ s.cm.call.fileLink = none then openRecord s else s
  let s := if e.file then reclaimFor needed s.au.file.length s else s
  let s := { s with cs := (s.cs.pushRun .print r.print).pushRun .punch r.punch }
  let s := { s with cs.print := markStart s.cs.print party r.print, cs.punch := markStart s.cs.punch party r.punch }
  if e.file then appendFile r.file lost s else s

/-- The TEXT is for this station (R64): the record OPEN, the source the party, the role not a group CALLER, and the
destination this station's number or the call's group address. -/
def textIsForUs (s : State) (t : Telegram) : Bool :=
  s.cm.call.state = .opened && isParty s t.source && !isGroupCaller s.cm.call
    && (t.destination = ownAddr s || (s.cm.call.role = some .member && t.destination = s.cm.call.callAddr))

/-- Acceptance of a TEXT at its Turn (R64 to R66), with the block events of its delivery and the AU's test for
FOLLOW where it opened a record (R27, R172). -/
def acceptText (t : Telegram) (run : List Resolved) (s : State) : TextResult × State :=
  if textIsForUs s t then
    match classify s.cm.call.recvSeq t.sequence with
    | .duplicate => (.duplicate, s)
    | .fresh lost =>
      let e := effective s
      let r := textRuns s e t.source lost run
      if e.isEmpty then (.noDestination, s)
      else if deliveryPasses s e r then
        let needed := deliveryBlocks s r
        let s1 := deliver e r t.source lost s
        let s2 := { s1 with cm.call.recvSeq := t.sequence }
        let released : Bool := s.cs.freeCount < s2.cs.freeCount + needed
        let opened : Bool := s.cm.call.fileLink = none && s2.cm.call.fileLink ≠ none
        let s3 := signal released (needed != 0) s2
        (.taken e (needed != 0), if opened then followTest s3 else s3)
      else (.noSpace, s)
  else (.notForUs, s)

end Sys2Proof.Machine
end

