-- ==== Sys2Proof/Machine/Mechanisms.lean ====
section
/-!
DEFINITION. The shared operations of the mechanisms: the motor and the demands on it (R152 to R155), the printer's
operations and the work in hand (R121 to R127), the punch's (R136 to R142), and the reader run (R144 to R150).
`settle` closes each command that has an effect.
-/

namespace Sys2Proof.Machine

/-- What a command answers. -/
abbrev Result := Host.Outcome State Fault Refusal

/-! ### Demand and the motor (R152 to R154) -/

/-- The motor starts (R153). -/
def startMotor (s : State) : State :=
  { s with
    mt.motor := .starting
    mt.runUp := some (ms 400)
    mt.senseWindow := if senseAssigned s then some (sec 2) else none
    mt.hold := none
    mt.faultWait := none }

/-- The hold timer at its full length (R152, R154). -/
def holdFull (s : State) : Tick := sec s.cl.config.motorHold

/-- Demand begins (R153, R154). -/
def demandBegins (s : State) : State :=
  match s.mt.motor with
  | .stopped => startMotor s
  | .starting => s
  | .running => { s with mt.hold := none }
  | .faulted => s

/-- Demand ends (R153, R154, R155). -/
def demandEnds (s : State) : State :=
  match s.mt.motor with
  | .stopped => s
  | .starting => s
  | .running => { s with mt.hold := some (holdFull s) }
  | .faulted => s

/-- The PU and TU report their demands (R152). -/
def reportDemands (s : State) : State :=
  { s with
    mt.printerDemand := printerDemandNow s
    mt.punchDemand := punchDemandNow s
    mt.readerDemand := readerDemandNow s }

/-- The demands are reported, and the MT acts on their combination beginning or ending (R152, log 11). -/
def refreshDemand (s : State) : State :=
  match demandHeld s.mt, demandHeld (reportDemands s).mt with
  | false, true => demandBegins (reportDemands s)
  | true, false => demandEnds (reportDemands s)
  | _, _ => reportDemands s

/-- What follows every act: the CM forms the TEXT it now may (R45, R79, log 7), and the demands are reported (log 11).
Before the load ends there is neither (R49, R152). -/
def settle (s : State) : State := if loaded s then refreshDemand (formText s) else s

/-- The outcome of a command that acts. -/
def acted (s : State) : Result := .next (settle s)

/-- The outcome of a command whose event cannot occur in the present state: nothing changes (log 2). -/
def unmoved (s : State) : Result := .next s

/-- A command that acts where its event can occur. -/
def actIf (can : Bool) (f : State → State) (s : State) : Result := if can then acted (f s) else unmoved s

/-- A timer's expiry: the time it had left passes, and then it acts (log 1). -/
def expire (timer : Option Tick) (can : Bool) (f : State → State) (s : State) : Result :=
  match timer with
  | some left => actIf can (fun x => f (elapse left x)) s
  | none => unmoved s

/-! ### The printer's operations (R121, R122, R125, R130, R131) -/

/-- The throttle after a change of the heat count (R131). -/
def throttleFor (heat : Nat) (on : Bool) : Bool := if on then !(heat ≤ 400) else 600 ≤ heat

/-- The heat a STRIKE adds, held at 1000 (R130, R131). -/
def heatUp (p : PrintUnit) : PrintUnit :=
  let h := min 1000 (p.heat + 10)
  { p with heat := h, throttle := throttleFor h p.throttle }

/-- The heat an expiry of the heat timer takes away (R130, R131). -/
def heatDown (p : PrintUnit) : PrintUnit :=
  let h := p.heat - 6
  { p with heat := h, throttle := throttleFor h p.throttle }

/-- The column after a STRIKE or SPACE (R122). -/
def advance (width : Nat) (column : Option Nat) : Option Nat :=
  match column with
  | some c => some (if c < width then c + 1 else c)
  | none => none

/-- The duration of a CR; an UNKNOWN column is reckoned as W (R121, R123). -/
def crTime (width : Nat) (column : Option Nat) : Tick := ms (60 + 3 * (column.getD width - 1))

/-- The column when a CR has started: an UNKNOWN one stays so until the CR completes (R122, R123). -/
def crColumn (column : Option Nat) : Option Nat :=
  match column with
  | some _ => some 1
  | none => none

/-- A printer operation starts: its duration and its effect at start (R121). The STRIKE's duration is by the throttle
before its own heat (log 8). -/
def startPrintOp (op : PrintOp) (s : State) : State :=
  let w := s.cl.config.width
  let p := s.pu
  match op with
  | .strike =>
    let started := { p with op := some op, opLeft := if p.throttle then ms 200 else ms 100, column := advance w p.column }
    { s with pu := heatUp started }
  | .shift c => { s with pu := { p with op := some op, opLeft := ms 100, shift := some c } }
  | .space =>
    { s with pu :=
        { p with
          op := some op
          opLeft := ms 100
          column := advance w p.column
          shift := if unshift s then some .ltrs else p.shift } }
  | .lf => { s with pu := { p with op := some op, opLeft := ms 100 } }
  | .bell => bellPulse .printer { s with pu := { p with op := some op, opLeft := ms 100 } }
  | .cr => { s with pu := { p with op := some op, opLeft := crTime w p.column, column := crColumn p.column } }
  | .crLf =>
    { s with pu :=
        { p with op := some op, opLeft := max (crTime w p.column) (ms 100), column := crColumn p.column } }

/-- The work in hand goes on with its next operation, where the printer may start one and does none (R121, R123). -/
def nextPrintOp (s : State) : State :=
  match s.pu.op, s.pu.work with
  | none, some w =>
    match w.todo with
    | op :: rest => if printerOperable s then startPrintOp op { s with pu.work := some { w with todo := rest } } else s
    | [] => { s with pu.work := none }
  | _, _ => s

/-- What last operation holds after an operation: a pair leaves LF (R121, R124). -/
def lastOpOf (op : PrintOp) : PrintOp := if op = .crLf then .lf else op

/-- The operation moves the carriage to column 1 at its completion, where the column was UNKNOWN (R123). -/
def isReturn (op : PrintOp) : Bool := op = .cr || op = .crLf

/-- An operation completes (R121), and the next one of the work in hand starts. -/
def finishPrintOp (op : PrintOp) (s : State) : State :=
  nextPrintOp
    { s with
      pu.op := none
      pu.opLeft := 0
      pu.lastOp := some (lastOpOf op)
      pu.column := if isReturn op && s.pu.column = none then some 1 else s.pu.column }

/-! ### Taking a cell (R123, R125 to R127) -/

/-- The origin a cell is printed under (R126). -/
def printOrigin (src : Source) (o : Origin) : PrintOrigin :=
  match src, o with
  | .cursor, _ => .file
  | .queue, .line => .line
  | .queue, .keyboard => .keyboard
  | .queue, .reader => .reader
  | .queue, .notice => .notice

/-- The column is known to be above 1 (R126, R127). -/
def aboveOne (column : Option Nat) : Bool :=
  match column with
  | some c => 1 < c
  | none => false

/-- The character's own operation (R118). -/
def ownOp : Resolved → PrintOp
  | .letter _ => .strike
  | .figure _ => .strike
  | .bell => .bell
  | .space => .space
  | .cr => .cr
  | .lf => .lf

/-- The SHIFT the generator needs first, if any (R125). -/
def shiftFirst (shift : Option Case) (r : Resolved) : List PrintOp :=
  match Resolved.caseNeeded r with
  | some k => if shift = some k then [] else [.shift k]
  | none => []

/-- The character moves the carriage, so that it wraps at W: a LETTER, a FIGURE or a SPACE (R122). -/
def moves (r : Resolved) : Bool := ownOp r = .strike || ownOp r = .space

/-- Items 3 to 5 of R123: the first CR where the column is UNKNOWN, the SHIFT, and the operation itself. -/
def lastItems (shift : Option Case) (column : Option Nat) (r : Resolved) : List PrintOp :=
  match column, r with
  | none, .cr => [.cr]
  | none, .lf => [.crLf]
  | none, _ => .cr :: shiftFirst shift r ++ [ownOp r]
  | some _, _ => shiftFirst shift r ++ [ownOp r]

/-- Origin separation is due for a character (R126). -/
def separates (s : State) (o : PrintOrigin) : Bool :=
  s.cl.config.originSeparation && s.pu.lastOrigin ≠ none && s.pu.lastOrigin ≠ some o && aboveOne s.pu.column

/-- The operations a cell needs, in the order they are acted (R123, R126, R127). -/
def opsFor (s : State) (src : Source) (c : Cell) : List PrintOp :=
  match c with
  | .boundary .start _ => if s.cl.config.originSeparation && aboveOne s.pu.column then [.crLf] else []
  | .boundary .finish _ => []
  | .character r o =>
    let sep := separates s (printOrigin src o)
    let col1 := if sep then some 1 else s.pu.column
    let wraps : Bool := s.cl.config.wrap && moves r && col1 = some s.cl.config.width
    let col2 := if wraps then some 1 else col1
    (if sep then [.crLf] else []) ++ (if wraps then [.crLf] else []) ++ lastItems s.pu.shift col2 r

/-- The last origin after a cell is taken (R126). -/
def originAfter (src : Source) (c : Cell) (last : Option PrintOrigin) : Option PrintOrigin :=
  match c with
  | .character _ o => some (printOrigin src o)
  | .boundary _ _ => last

/-- A cell is an LF (R123, R124). -/
def isLf (c : Cell) : Bool :=
  match c with
  | .character .lf _ => true
  | _ => false

/-- A CR alone is in progress: nothing of the work in hand comes after it (R123, log 9). -/
def crAlone (p : PrintUnit) : Bool :=
  p.op = some .cr &&
    match p.work with
    | some w => w.todo.isEmpty
    | none => true

/-- What the ready printer takes; none where it is not ready, or nothing is offered (R123, R128). -/
def printerTakes (s : State) : Option (Source × Cell) :=
  if printerOperable s then
    match choose s with
    | some (src, c) =>
      if (s.pu.op = none ∧ s.pu.work = none) ∨ (crAlone s.pu ∧ isLf c) then some (src, c) else none
    | none => none
  else none

/-- A taken cell becomes the work in hand and its first operation starts; an LF joins a CR in progress (R123, R124). -/
def beginWork (src : Source) (c : Cell) (s : State) : State :=
  let s1 := { s with pu.source := src, pu.lastOrigin := originAfter src c s.pu.lastOrigin }
  if crAlone s.pu then
    { s1 with
      pu.op := some .crLf
      pu.opLeft := max s.pu.opLeft (ms 100)
      pu.work := some ⟨c, src, false, []⟩ }
  else
    match opsFor s src c with
    | op :: rest => startPrintOp op { s1 with pu.work := some ⟨c, src, false, rest⟩ }
    | [] => s1

/-- The cursor moves past the cell the PU takes (R128, R172). -/
def advanceCursor (s : State) : State :=
  { s with au.cursor := s.au.cursor.map fun c => { c with offset := c.offset + 1 } }

/-- The PU takes a cell: it becomes the work in hand, and leaves PRINT or is passed by the cursor in the same act,
which may end the cursor (R123, R173). -/
def takePrintCell (src : Source) (c : Cell) (s : State) : State :=
  match src with
  | .queue => removeHead .print (beginWork src c s)
  | .cursor => finishCursor (advanceCursor (beginWork src c s))

/-! ### Availability reports (R120, R138) -/

/-- The PU reports a change of its availability: the CM tests the flow levels where PRINT is in the route, and the AU
abandons the cursor or makes its tests (R120, R172, R175, R176). -/
def printerChange (was : Bool) (s : State) : State :=
  if printerAvailable s = was then s
  else
    let s1 := if s.cm.call.route.print then flowTest s else s
    if was then abandonCursor s1 else auTests s1

/-- The TU reports a change of punch availability (R138). -/
def punchChange (was : Bool) (s : State) : State :=
  if punchAvailable s = was then s
  else if s.cm.call.route.punch then flowTest s else s

/-! ### The punch (R136 to R142) -/

/-- The codes a cell needs (R139). -/
def punchCodes (s : State) (c : Cell) : List Code :=
  match c with
  | .character r _ => (generate (unshift s) s.tu.punchShift r).1
  | .boundary .start _ => List.replicate 6 0 ++ [31]
  | .boundary .finish _ => List.replicate 6 0

/-- The punch shift when the operation for a code has started (R139). -/
def punchShiftAfter (unshiftOn : Bool) (c : Code) (k : Option Case) : Option Case :=
  if c = 31 then some .ltrs
  else if c = 30 then some .figs
  else if c = 16 ∧ unshiftOn then some .ltrs
  else k

/-- A PUNCH operation starts (R136, R139). -/
def startPunchOp (c : Code) (s : State) : State :=
  { s with
    tu.punchOp := some c
    tu.punchLeft := ms 100
    tu.punchShift := punchShiftAfter (unshift s) c s.tu.punchShift }

/-- The punch's work in hand goes on with its next code, where the punch may start one and does none (R139, R141). -/
def nextPunchOp (s : State) : State :=
  match s.tu.punchOp, s.tu.punchWork with
  | none, some w =>
    match w.todo with
    | c :: rest => if punchOperable s then startPunchOp c { s with tu.punchWork := some { w with todo := rest } } else s
    | [] => { s with tu.punchWork := none }
  | _, _ => s

/-- A PUNCH operation completes (R136). -/
def finishPunchOp (s : State) : State := nextPunchOp { s with tu.punchOp := none, tu.punchLeft := 0 }

/-- What the ready punch takes (R139). -/
def punchTakes (s : State) : Option Cell :=
  if punchOperable s && s.tu.punchOp = none && s.tu.punchWork = none then s.cs.headCell .punch else none

/-- The punch takes a cell (R139). -/
def takePunchCell (c : Cell) (s : State) : State :=
  removeHead .punch (nextPunchOp { s with tu.punchWork := some ⟨c, punchCodes s c⟩ })

/-- The codes still needed on a new tape: a LETTER's, FIGURE's or BELL's are found again from UNKNOWN (R141). -/
def retape (unshiftOn : Bool) (w : PunchWork) : PunchWork :=
  match w.cell, w.todo with
  | .character r _, _ :: _ =>
    match Resolved.caseNeeded r with
    | some _ => { w with todo := (generate unshiftOn none r).1 }
    | none => w
  | _, _ => w

/-! ### The reader run (R144 to R150) -/

/-- A run is made (R144, R145); for SEND the CM sets the reader run link. -/
def startRun (destination : QueueName) (limit : Nat) (s : State) : State :=
  { s with
    tu.run := some ⟨destination, limit, 0, 0, .ltrs, none, .running⟩
    tu.resumeDue := false
    cm.call.readerLink := if destination = .send then true else s.cm.call.readerLink }

/-- The run ends with its notice (R149, R150). -/
def endRunWith (n : Notice) (s : State) : State := notice n (endRun s)

/-- The one-cell run a reader character makes (R147). -/
def readerCell (ch : Resolved) : List Cell := cellsOf .reader [ch]

/-- One cell for the destination passes the space check, class RESPECT (R146). -/
def cellFits (n : QueueName) (s : State) : Bool := s.cs.spaceCheck n .respect (readerCell .space)

/-- The run after a character of it has been appended (R147, R148). -/
def ReaderRun.counted (r : ReaderRun) : ReaderRun :=
  { r with count := min 999 (r.count + 1), held := none, state := .running }

/-- The character that reaches the run's limit: appended, the run ended and RUN DONE printed in one act, with one event
(R27, R147, R150). -/
def readerLast (r : ReaderRun) (ch : Resolved) (s : State) : State :=
  let s1 := { placeRun r.destination (readerCell ch) s with tu.run := some r.counted }
  let p := placeNotice (.runDone r.counted.count) (endRun s1)
  signal false (takesBlock r.destination (readerCell ch) s || p.2) p.1

/-- A character is appended to the run's destination: the count grows, and at its limit the run ends; refused, it is
held and the run goes PAUSED (R147, R148). -/
def readerAppend (r : ReaderRun) (ch : Resolved) (s : State) : State :=
  match appendRun r.destination .respect (readerCell ch) s with
  | some s1 =>
    if r.limit ≠ 0 ∧ r.counted.count = r.limit then readerLast r ch s
    else { s1 with tu.run := some r.counted }
  | none => { s with tu.run := some { r with held := some ch, state := .paused } }

/-- A run takes the code of a row it has sensed (R147). -/
def readerCode (r : ReaderRun) (row : Code) (s : State) : State :=
  let res := resolve (unshift s) r.shift row
  let blanks := if row = 0 then r.blanks + 1 else 0
  let r1 := { r with shift := res.2, blanks := blanks }
  let s1 := { s with tu.run := some r1 }
  if 8 ≤ blanks then endRunWith .tapeEnd s1
  else
    match res.1 with
    | some ch => readerAppend r1 ch s1
    | none => s1

/-- A run takes its next step: it ends with no tape, pauses with no space, or starts a cycle (R146). -/
def readerStep (r : ReaderRun) (s : State) : State :=
  if !s.tu.tapeIn then endRunWith .tapeEnd s
  else if cellFits r.destination s then { s with tu.cycle := some ⟨ms 100, false⟩ }
  else { s with tu.run := some { r with state := .paused } }

/-- A PAUSED run answers a block-released event (R148). -/
def readerGoOn (r : ReaderRun) (s : State) : State :=
  match r.held with
  | some ch => readerAppend r ch s
  | none => if cellFits r.destination s then { s with tu.run := some { r with state := .running } } else s

/-! ### Motor states (R153 to R155) -/

/-- The motor becomes RUNNING: with no demand its hold timer starts at once, and the mechanisms go on (R153, R154). -/
def enterRunning (s : State) : State :=
  nextPunchOp (nextPrintOp
    { s with
      mt.motor := .running
      mt.runUp := none
      mt.senseWindow := none
      mt.hold := if demandHeld s.mt then none else some (holdFull s) })

/-- The work in hand after the printer shift has become UNKNOWN: the SHIFT before its character is needed again (R125,
R133). -/
def reshift (w : PrintWork) : PrintWork :=
  match w.cell, w.todo.getLast? with
  | .character r _, some last =>
    match Resolved.caseNeeded r with
    | some k => { w with todo := (w.todo.dropLast.filter fun op => op ≠ .shift k) ++ [.shift k, last] }
    | none => w
  | _, _ => w

/-- The motor enters FAULTED (R155). -/
def enterFaulted (s : State) : State :=
  let s1 :=
    { s with
      mt.motor := .faulted
      mt.runUp := none
      mt.senseWindow := none
      mt.hold := none
      mt.faultWait := some (sec 10)
      pu.shift := none
      pu.work := s.pu.work.map reshift }
  let s2 := punchChange (punchAvailable s) (printerChange (printerAvailable s) s1)
  notice .motorFault (endRun s2)

/-- The fault wait ends: to STARTING if demand stands, else to STOPPED; the printer and punch are available again (R155). -/
def leaveFaulted (s : State) : State :=
  let s1 :=
    if demandHeld s.mt then startMotor s
    else { s with mt.motor := .stopped, mt.faultWait := none }
  punchChange (punchAvailable s) (printerChange (printerAvailable s) s1)

end Sys2Proof.Machine
end

