-- ==== Sys2Proof/Machine/Reset.lean ====
section
/-!
DEFINITION. Device reset and the configuration load (R179 to R184), with the LU's moves into LISTEN, PROBE and JOINED
(R49 to R54) that they, restart and the line's commands share.
-/

namespace Sys2Proof.Machine

/-! ### Join states (R50, R51, R52, R54) -/

/-- The LU goes to LISTEN (R49, R50, R54): the quiet timer counts from 0, a new listen window runs. -/
def enterListen (s : State) : State :=
  { s with
    lu.joinState := .listen
    lu.receive := .hunting
    lu.ackRead := none
    lu.probeCount := 0
    lu.probeCollisions := 0
    lu.probeWait := none
    lu.quiet := 0
    lu.listenWindow := some (sec 30)
    lu.lastOwn := false
    lu.restartClear := false }

/-- The LU goes to PROBE (R50, R51). -/
def enterProbe (s : State) : State :=
  { s with
    lu.joinState := .probe
    lu.probeCount := 0
    lu.probeCollisions := 0
    lu.probeWait := none
    lu.listenWindow := none }

/-- The answerback as codes (R8, R52, R89). -/
def answerbackCodes (s : State) : List Code := lineSend (unshift s) s.cl.config.answerback

/-- The announcement (R52). -/
def announcement (s : State) : Request := ⟨.hereis, allCall, answerbackCodes s, .lu, 0⟩

/-- The LU is JOINED and enters the announcement (R52). -/
def enterJoined (s : State) : State :=
  { s with lu := enterRequest (announcement s) { s.lu with joinState := .joined, probeWait := none } }

/-! ### Device reset (R179) -/

/-- RESET_ASSERT: every block holds its device-reset values. -/
def execResetAssert (s : State) : Result := .next { State.reset with pending := s.pending }

/-- What is sampled and started at the release of RESET (R130, R168, R179, R180). -/
def release (straps : Station) (lines : PresenceLines) (s : State) : State :=
  { s with
    cl.resetLow := false
    cl.load := .loading
    cl.fault := false
    cl.loadLeft := some (ms 100)
    cl.station := straps
    pu.present := isHigh lines.printer
    pu.heatTimer := some (ms 100)
    tu.punchPresent := isHigh lines.punch
    tu.readerPresent := isHigh lines.reader
    au.minuteLeft := some (minutes 1) }

/-- RESET_RELEASE (R179). -/
def execResetRelease (straps : Station) (lines : PresenceLines) (s : State) : Result :=
  actIf s.cl.resetLow (release straps lines) s

/-! ### The configuration load (R180 to R184) -/

/-- A configuration load is in progress. -/
def loadingNow (s : State) : Bool := !s.cl.resetLow && s.cl.load = .loading

/-- The input level that a function's terminal takes; none where no terminal carries it (R157). -/
def auxLevel (f : AuxFn) (c : Configuration) (inputs : InputLines) : Bool :=
  match auxInput f c with
  | some i => isHigh inputs.aux[i]
  | none => false

/-- Attendance by a switch level (R157). -/
def attendanceOf (attended : Bool) : Attendance := if attended then .attended else .unattended

/-- The values handed to the blocks at the end of the load, with the inputs first taken then (R184). -/
def handOut (ok : Bool) (ld : Loaded) (inputs : InputLines) (s : State) : State :=
  { s with
    cl.load := if ok then .done else .failed
    cl.fault := !ok
    cl.loadLeft := none
    cl.config := ld.config
    cs.send.limit := ld.limits.send
    cs.print.limit := ld.limits.print
    cs.punch.limit := ld.limits.punch
    pu.paper := supplyOf inputs.paperFirst inputs.paperSecond
    tu.tape := supplyOf inputs.tapeFirst inputs.tapeSecond
    tu.tapeIn := isHigh inputs.tapeIn
    mt.senseRunning := auxLevel .motorSense ld.config inputs
    mt.switchAttended := auxLevel .attendSwitch ld.config inputs
    au.attendance := attendanceOf ld.config.defaultAttended }

/-- The switch's first request replaces the default attendance, and the attend timer starts if ATTENDED (R159, R160, R162). -/
def firstAttendance (s : State) : State :=
  let s1 := if switchAssigned s then attendRequest (attendanceOf s.mt.switchAttended) .switch s else s
  { s1 with au.attendTimer := if s1.au.attendance = .attended then attendTimerFull s1 else none }

/-- The end of the load (R184): DONE with what the image gives, FAILED with the whole default set, the fault flag and
CONFIG FAULT; the LU goes to LISTEN. -/
def endLoad (result : Option Loaded) (inputs : InputLines) (s : State) : State :=
  match result with
  | some ld => firstAttendance (enterListen (handOut true ld inputs s))
  | none => firstAttendance (enterListen (notice .configFault (handOut false (loadDefaults s.cl.station) inputs s)))

/-- CONFIG_READ_DONE (R182). -/
def execConfigReadDone (image : List Byte) (inputs : InputLines) (s : State) : Result :=
  actIf (loadingNow s) (endLoad (loadImage s.cl.station image) inputs) s

/-- CONFIG_NO_ACK (R180). -/
def execConfigNoAck (inputs : InputLines) (s : State) : Result := actIf (loadingNow s) (endLoad none inputs) s

/-- CONFIG_LOAD_TIMEOUT (R180). -/
def execConfigLoadTimeout (inputs : InputLines) (s : State) : Result :=
  expire s.cl.loadLeft (loadingNow s) (endLoad none inputs) s

end Sys2Proof.Machine
end

