-- ==== Sys2Proof/Machine/Line.lean ====
section
/-!
DEFINITION. The commands of the common line: receiving (R32 to R37), sending with its retries (R38 to R46), the line
break (R47, R48), and joining (R49 to R53). What the hand-on changes in the call is HandOn.lean's.
-/

namespace Sys2Proof.Machine

/-! ### LISTEN-ONLY (R53) -/

/-- What is reported of an entry that leaves the list unsent: the content held beside it where there is one (log 24). -/
def reportedContent (e : ControlEntry) : Option Request :=
  if e.withdrawn then e.beside else some (e.beside.getD e.content)

/-- The entries' contents are reported as exhausted in the list's order (R53). -/
def reportExhausted (rs : List Request) (s : State) : State := rs.foldl (fun x r => exhausted r x) s

/-- The TEXT in the place, not withdrawn, is reported as exhausted (R53). -/
def reportText (p : Option TextPlace) (s : State) : State :=
  match p with
  | some x => if x.withdrawn then s else textExhausted s
  | none => s

/-- The receive side once this station has stopped driving its telegram: it frames the rest as a receiver, for FRAMING
has its four ends and no other (R36, R39, R40). -/
def stopDriving : Receive → Receive
  | .framing true _ none => .framing false false none
  | r => r

/-- The LU in LISTEN-ONLY, nothing left to send (R53, log 14). -/
def luListenOnly (l : LineUnit) : LineUnit :=
  { l with
    joinState := .listenOnly
    slot := none
    receive := stopDriving l.receive
    ackRead := if l.slot = none then l.ackRead else none
    control := []
    text := none
    listenWindow := none
    probeWait := none
    restartClear := false }

/-- The LU enters LISTEN-ONLY (R53). -/
def enterListenOnly (s : State) : State :=
  let s1 := reportExhausted (s.lu.control.filterMap reportedContent) { s with lu := luListenOnly s.lu }
  notice .duplicateStation (reportText s.lu.text s1)

/-! ### Receiving (R32, R36, R37) -/

/-- The LU reads the line: not OFFLINE (R49). -/
def online (s : State) : Bool := loaded s && s.lu.joinState ≠ .offline

/-- The LU hunts for a Start on a CLEAR line (R36, R47). -/
def hunts (s : State) : Bool := online s && s.lu.condition = .clear && s.lu.receive = .hunting

/-- The resolved run of a telegram's text (R6, R33): TEXT and HEREIS carry characters. -/
def telegramRun (s : State) (k : Kind) (t : Telegram) : List Resolved :=
  if k = .text ∨ k = .hereis then lineResolve (unshift s) t.text else []

/-- The station takes telegrams: JOINED on a CLEAR line (R37, R57). -/
def takesTelegrams (s : State) : Bool := s.lu.joinState = .joined && s.lu.condition = .clear

/-- The REFUSE that answers this station's POLL (R58, R88). -/
def pollRefusal (t : Telegram) : Bool :=
  match telegramReason t with
  | some .noTape => true
  | some .readerBusy => true
  | _ => false

/-- The kinds other than CALL and TEXT are taken as the table of R58 gives, the destination being addressed here. -/
def takenByTable (s : State) (k : Kind) (t : Telegram) : Bool :=
  let c := s.cm.call
  let own : Bool := t.destination = ownAddr s
  let party := isParty s t.source
  match k with
  | .who => true
  | .hereis => true
  | .clear => true
  | .accept => own && c.state = .awaiting && party
  | .refuse =>
    own && party && (c.state = .awaiting || (c.state = .opened && isIndividual c && pollRefusal t))
  | .hold => own && c.state = .opened && party
  | .go => own && c.state = .opened && party
  | .brk => own && c.state = .opened && party
  | .poll => own && c.state = .opened && isIndividual c && party
  | .call => false
  | .text => false

/-- A CALL's outcome means that it is taken (R59). -/
def outcomeTakes : AnswerOutcome → Bool
  | .notTaken => false
  | _ => true

/-- A TEXT's result means that it is taken (R64, R66). -/
def resultTakes : TextResult → Bool
  | .taken _ _ => true
  | .duplicate => true
  | _ => false

/-- The probe of another station with this station's number (R52). -/
def probesUs (s : State) (t : Telegram) : Bool := t.destination = ownAddr s

/-- The decision on another station's telegram at its Turn: whether it is taken, what the hand-on will carry, and the
state after, with a TEXT delivered and a probe's notice printed in the same act (R37, R52, R57 to R59, R64 to R67). -/
def turnDecision (k : Kind) (t : Telegram) (s : State) : Bool × TurnResult × State :=
  if !takesTelegrams s then (false, .plain, s)
  else if isProbe k t then
    if probesUs s t then (true, .plain, notice (.duplicateProbed s.cl.station.toNat) s) else (false, .plain, s)
  else
    match windowFor s t.destination with
    | none => (false, .plain, s)
    | some w =>
      match k with
      | .call =>
        let o := answerDecision s t.source t.destination w
        (outcomeTakes o, .call o w s.cm.call.state, s)
      | .text =>
        let r := acceptText t (telegramRun s k t) s
        (resultTakes r.1, .text r.1, r.2)
      | _ => (takenByTable s k t, .plain, s)

/-- The Turn of another station's telegram. -/
def turnHeard (k : Kind) (t : Telegram) (s : State) : State :=
  let run := telegramRun s k t
  let d := turnDecision k t s
  { d.2.2 with lu.receive := .framing false false (some ⟨t, run, d.1, d.2.1⟩) }

/-- The Turn of this station's own telegram: it does not take its own (R36). -/
def turnOwn (k : Kind) (t : Telegram) (withdrawn : Bool) (s : State) : State :=
  { s with lu.receive := .framing true withdrawn (some ⟨t, telegramRun s k t, false, .plain⟩) }

/-- The receive side is framing a telegram whose Turn has not come: whose it is. -/
def framingUndecided (s : State) : Option (Bool × Bool) :=
  match s.lu.receive with
  | .framing own w none => some (own, w)
  | _ => none

/-- The telegram is the one in the transmit slot. -/
def isSlotTelegram (s : State) (t : Telegram) : Bool :=
  match s.lu.slot with
  | some x => x.telegram = t
  | none => false

/-! ### Starting a telegram (R38, R45, R51) -/

/-- The access gap of a precedence, in units (R38). -/
def gapUnits (precedence : BitVec 2) (lastOwn : Bool) : Nat := 8 + 4 * precedence.toNat + (if lastOwn then 8 else 0)

/-- What is left of a gap counted from a retry's becoming ready; nothing where there was no retry (R38). -/
def retryGapLeft (gap : Tick) : Readiness → Tick
  | .retryReady since => gap - since
  | _ => 0

/-- A candidate: where it comes from, its telegram, its readiness (R45). -/
structure Candidate where
  source    : SlotSource
  telegram  : Telegram
  readiness : Readiness
  deriving DecidableEq, Repr

/-- The oldest ready control entry of the highest precedence: a ready BREAK before any other (R45). -/
def readyControl (l : LineUnit) : Option ControlEntry :=
  match l.control.find? fun e => e.readiness.isReady && e.content.kind = .brk with
  | some e => some e
  | none => l.control.find? fun e => e.readiness.isReady

/-- The telegram of a control entry. -/
def entryTelegram (s : State) (e : ControlEntry) : Telegram :=
  makeTelegram e.content.kind s.cl.station 0 e.content.destination e.content.text

/-- The TEXT in the place, where it is ready and the CM permits it (R44, R45). -/
def textCandidate (s : State) : Option Candidate :=
  match s.lu.text with
  | some p =>
    if p.readiness.isReady ∧ permitsText s ∧ !s.lu.restartClear then
      some ⟨.text, makeTelegram .text s.cl.station p.sequence p.destination p.codes, p.readiness⟩
    else none
  | none => none

/-- The probe (R51). -/
def probeCandidate (s : State) : Option Candidate :=
  if s.lu.probeWait = none then some ⟨.probe, makeTelegram .who s.cl.station 0 (ownAddr s) [], .ready⟩ else none

/-- The LU's choice (R45, R46, R51). -/
def candidate (s : State) : Option Candidate :=
  match s.lu.joinState with
  | .probe => probeCandidate s
  | .joined =>
    match readyControl s.lu with
    | some e => some ⟨.control e.content.kind, entryTelegram s e, e.readiness⟩
    | none => textCandidate s
  | _ => none

/-- What is left of the candidate's gap: for a retry from the later of its becoming ready and the quiet timer's last start
(R38). -/
def gapLeft (s : State) (c : Candidate) : Tick :=
  let gap := gapUnits c.telegram.precedence s.lu.lastOwn * unitTime s
  max (s.lu.untilMark (gap - s.lu.quiet)) (retryGapLeft gap c.readiness)

/-- The candidate goes into the slot and starts, when its gap has passed; the LU frames it as it sends it, its Start a
unit of space (R36, R45, R47). -/
def startTelegram (c : Candidate) (s : State) : State :=
  let s1 := elapse (gapLeft s c) s
  { s1 with
    lu.slot := some ⟨c.source, c.telegram⟩
    lu.receive := .framing true false none
    lu.quiet := 0
    lu.spaceRun := 1
    lu.spaceLeft := 0
    lu.frameTime := 0 }

/-- The LU may start a telegram: CLEAR, hunting, and nothing in the slot (R45). -/
def maySlot (s : State) : Bool := hunts s && s.lu.slot = none

/-- TRANSMIT_START (R45). The CM forms a TEXT first where it may (R80). -/
def execTransmitStart (s : State) : Result :=
  let s1 := formText s
  match candidate s1 with
  | some c => actIf (maySlot s) (fun _ => startTelegram c s1) s
  | none => unmoved s

/-! ### The end of an attempt (R39 to R43, R51) -/

/-- The control entry of a kind. -/
def entryOf (k : Kind) (l : LineUnit) : Option ControlEntry := l.control.find? fun e => e.content.kind = k

/-- Change the control entry of a kind in its place. -/
def mapEntry (k : Kind) (f : ControlEntry → ControlEntry) (l : LineUnit) : LineUnit :=
  { l with control := l.control.map fun e => if e.content.kind = k then f e else e }

/-- Remove the control entry of a kind. -/
def dropEntry (k : Kind) (l : LineUnit) : LineUnit :=
  { l with control := l.control.filter fun e => e.content.kind ≠ k }

/-- A content becomes a new entry at the back of the list (R43). -/
def appendFresh (r : Option Request) (l : LineUnit) : LineUnit :=
  match r with
  | some x => { l with control := l.control ++ [ControlEntry.fresh x] }
  | none => l

/-- The attempt stops without an end of its own, by arbitration or a break: the telegram is ready again with no retry
used (R39, R47). A withdrawn entry is removed, whatever stopped the attempt; at an arbitration loss content held beside
takes the entry, the old content unreported (R43). That it does so at a line break too, for which R43 says nothing of
content beside, is the model's choice (log 42). -/
def entryReadyAgain (k : Kind) (l : LineUnit) : LineUnit :=
  match entryOf k l with
  | none => l
  | some e =>
    if e.withdrawn then appendFresh e.beside (dropEntry k l)
    else match e.beside with
      | some r => mapEntry k (fun _ => ControlEntry.fresh r) l
      | none => mapEntry k (fun x => { x with readiness := .ready }) l

/-- The TEXT is ready again; a withdrawn one is gone (R39, R44, R47). -/
def textReadyAgain (l : LineUnit) : LineUnit :=
  { l with
    text :=
      match l.text with
      | some p => if p.withdrawn then none else some { p with readiness := .ready }
      | none => none }

/-- The slot's telegram is ready again (R39, R47). -/
def readyAgain (source : SlotSource) (l : LineUnit) : LineUnit :=
  match source with
  | .control k => entryReadyAgain k l
  | .text => textReadyAgain l
  | .probe => l

/-- The LU goes to LISTEN (R54), a telegram of its own that has had its Turn still to be handed on at the end of the same
ACK slot (R37, log 12). -/
def listenAfterAttempt (s : State) : State :=
  match s.lu.receive with
  | .framing true w (some f) =>
    { enterListen s with lu.receive := .framing true w (some f), lu.ackRead := s.lu.ackRead }
  | _ => enterListen s

/-- The restart CLEAR has ended: the LU goes to LISTEN (R54). -/
def endRestartClear (source : SlotSource) (s : State) : State :=
  if s.lu.restartClear ∧ source = .control .clear then listenAfterAttempt s else s

/-- The slot's attempt, while its Turn has not come. -/
def sendingNow (s : State) : Option Slot :=
  match s.lu.receive with
  | .framing true _ none => s.lu.slot
  | _ => none

/-- The sender stops driving and frames as a receiver (R39). -/
def loseArbitration (x : Slot) (s : State) : State :=
  { s with lu := readyAgain x.source { s.lu with slot := none, receive := stopDriving s.lu.receive } }

/-- ARBITRATION_LOSS (R39). -/
def execArbitrationLoss (s : State) : Result :=
  match sendingNow s with
  | some x => acted (loseArbitration x s)
  | none => unmoved s

/-- The wait before a retry (R42). -/
def retryWait (s : State) : Readiness := .waiting (40 * unitTime s)

/-- A retry is used, and waits (R42). -/
def useRetry (wait : Readiness) (e : ControlEntry) : ControlEntry :=
  { e with retriesUsed := e.retriesUsed + 1, readiness := wait }

/-- An unanswered control attempt: it waits for its retry, or leaves as exhausted; a withdrawn entry is removed, and
content held beside takes the entry (R42, R43). -/
def entryUnanswered (k : Kind) (s : State) : State :=
  match entryOf k s.lu with
  | none => s
  | some e =>
    if e.withdrawn then { s with lu := appendFresh e.beside (dropEntry k s.lu) }
    else match e.beside with
      | some r => { s with lu := mapEntry k (fun _ => ControlEntry.fresh r) s.lu }
      | none =>
        if e.retriesUsed < e.content.allowance then
          { s with lu := mapEntry k (useRetry (retryWait s)) s.lu }
        else exhausted e.content { s with lu := dropEntry k s.lu }

/-- An unanswered TEXT attempt (R42, R44, R81). -/
def textUnanswered (s : State) : State :=
  match s.lu.text with
  | none => s
  | some p =>
    if p.withdrawn then { s with lu.text := none }
    else if p.retriesUsed < s.cl.config.retryLimit then
      { s with lu.text := some { p with retriesUsed := p.retriesUsed + 1, readiness := retryWait s } }
    else textExhausted { s with lu.text := none }

/-- An unanswered probe (R51). -/
def probeUnanswered (s : State) : State :=
  if s.lu.probeCount + 1 < 3 then { s with lu.probeCount := s.lu.probeCount + 1, lu.probeWait := some (sec 1) }
  else enterJoined { s with lu.probeCount := 3 }

/-- A taken control attempt: reported to its requester, which in CLEARING goes to IDLE (R41, R43, R92). -/
def entryTaken (k : Kind) (s : State) : State :=
  match entryOf k s.lu with
  | none => s
  | some e =>
    let s1 := { s with lu := appendFresh e.beside (dropEntry k s.lu) }
    if !e.withdrawn && e.content.requester = .cm && k = .clear && s.cm.call.state = .clearing then toIdle false none s1
    else s1

/-- A taken TEXT (R81). -/
def textTaken (s : State) : State :=
  match s.lu.text with
  | none => s
  | some p =>
    if p.withdrawn then { s with lu.text := none }
    else ackSend { s with lu.text := none, cm.call.sendSeq := s.cm.call.sendSeq + 1 }

/-- The collision count of the slot's telegram (R40). -/
def collisionsOf (source : SlotSource) (l : LineUnit) : Nat :=
  match source with
  | .control k => match entryOf k l with | some e => e.collisions | none => 0
  | .text => match l.text with | some p => p.collisions | none => 0
  | .probe => l.probeCollisions

/-- Set the collision count of the slot's telegram (R40). -/
def setCollisions (n : Nat) (source : SlotSource) (l : LineUnit) : LineUnit :=
  match source with
  | .control k => mapEntry k (fun e => { e with collisions := n }) l
  | .text => { l with text := l.text.map fun p => { p with collisions := n } }
  | .probe => { l with probeCollisions := n }

/-- A collision that does not bring LISTEN-ONLY: the attempt is unanswered (R40, R51). -/
def collisionUnanswered (source : SlotSource) (s : State) : State :=
  match source with
  | .control k => entryUnanswered k s
  | .text => textUnanswered s
  | .probe => { s with lu.probeWait := some (sec 1) }

/-- The sender stops driving on a mismatch and frames what follows as a receiver (R36); at a count of 2 the LU enters
LISTEN-ONLY (R40). -/
def collide (x : Slot) (s : State) : State :=
  let n := collisionsOf x.source s.lu + 1
  let s1 := { s with lu := setCollisions n x.source { s.lu with slot := none, receive := stopDriving s.lu.receive } }
  if 2 ≤ n then enterListenOnly s1 else endRestartClear x.source (collisionUnanswered x.source s1)

/-- The slot's requester has withdrawn its telegram (R43, R44). -/
def slotWithdrawn (s : State) : Bool :=
  match s.lu.slot with
  | some ⟨.control k, _⟩ => match entryOf k s.lu with | some e => e.withdrawn | none => false
  | some ⟨.text, _⟩ => match s.lu.text with | some p => p.withdrawn | none => false
  | _ => false

/-- The receive side once its own attempt has ended before the hand-on: it keeps whether the telegram was withdrawn (log 12). -/
def noteWithdrawn (withdrawn : Bool) : Receive → Receive
  | .framing true _ f => .framing true withdrawn f
  | r => r

/-- The outcome of an attempt that ran to the end of its ACK slot (R41, R42, R51, R81). -/
def attemptOutcome (source : SlotSource) (ack : Bool) (s : State) : State :=
  match source, ack with
  | .control k, true => entryTaken k s
  | .control k, false => entryUnanswered k s
  | .text, true => textTaken s
  | .text, false => textUnanswered s
  | .probe, true => enterListenOnly s
  | .probe, false => probeUnanswered s

/-- The attempt ends: the slot is empty, the collision count 0 (R40, R45). The ACK slot's reading is one for the two
events of its end (log 12). -/
def endAttempt (x : Slot) (ack handedOn : Bool) (s : State) : State :=
  let s1 :=
    { s with
      lu := setCollisions 0 x.source
        { s.lu with
          slot := none
          ackRead := if handedOn then none else some ack
          receive := noteWithdrawn (slotWithdrawn s) s.lu.receive } }
  endRestartClear x.source (attemptOutcome x.source ack s1)

/-- The slot's attempt has reached its ACK slot's end: its telegram stands framed, or has been handed on (R41). -/
def attemptOver (s : State) : Bool :=
  s.lu.ackRead.isSome ||
    match s.lu.receive with
    | .framing true _ (some _) => true
    | _ => false

/-- ATTEMPT_END (R41). -/
def execAttemptEnd (ackSpace : Bool) (s : State) : Result :=
  match s.lu.slot with
  | some x => actIf (attemptOver s) (endAttempt x (s.lu.ackRead.getD ackSpace) s.lu.ackRead.isSome) s
  | none => unmoved s

/-! ### Retry waits (R42) -/

/-- What is left of a wait. -/
def waitLeft : Readiness → Option Tick
  | .waiting left => some left
  | _ => none

/-- The wait of the entry of a kind, or of the TEXT in the place. -/
def retryTimer (which : Kind) (l : LineUnit) : Option Tick :=
  match which with
  | .text => l.text.bind fun p => waitLeft p.readiness
  | k => (entryOf k l).bind fun e => waitLeft e.readiness

/-- The telegram is ready again (R42). -/
def makeReady (which : Kind) (l : LineUnit) : LineUnit :=
  match which with
  | .text => { l with text := l.text.map fun p => { p with readiness := .retryReady 0 } }
  | k => mapEntry k (fun e => { e with readiness := .retryReady 0 }) l

/-- RETRY_WAIT_EXPIRY (R42). -/
def execRetryWaitExpiry (which : Kind) (s : State) : Result :=
  expire (retryTimer which s.lu) true (fun x => { x with lu := makeReady which x.lu }) s

/-! ### Line break (R47, R48) -/

/-- The slot's attempt is stopped, its telegram ready again (R47). -/
def stopAttempt (l : LineUnit) : LineUnit :=
  match l.slot with
  | some x => readyAgain x.source { l with slot := none }
  | none => l

/-- Every collision count is 0 (R47). -/
def clearCollisions (l : LineUnit) : LineUnit :=
  { l with
    control := l.control.map fun e => { e with collisions := 0 }
    text := l.text.map fun p => { p with collisions := 0 }
    probeCollisions := 0 }

/-- A break that stops the restart CLEAR's attempt ends it: the CLEAR leaves the list and the LU goes to LISTEN (R54). -/
def breakRestartClear (was : LineUnit) (s : State) : State :=
  if was.restartClear ∧ inSlot .clear was then enterListen { s with lu := dropEntry .clear s.lu } else s

/-- The line goes BROKEN (R47); the CM starts its break timer (R94). -/
def lineBroken (s : State) : State :=
  let l := clearCollisions (stopAttempt s.lu)
  let s1 :=
    { s with
      lu :=
        { l with
          condition := .broken
          receive := .hunting
          ackRead := none
          quiet := 0
          spaceRun := breakRun
          markRun := 0 }
      cm.breakTimer := some (sec 5) }
  notice .lineBroken (breakRestartClear s.lu s1)

/-- The line condition goes from CLEAR to BROKEN, whatever the join state, except OFFLINE (R47). -/
def breakLine (s : State) : Result := actIf (online s && s.lu.condition = .clear) lineBroken s

/-- LINE_BREAK (R47). -/
def execLineBreak (s : State) : Result := breakLine s

/-! ### The units of a telegram (R35, R37, R47) -/

/-- The run of space reaches the line break in these units. -/
def breaksLine (units : List Bool) (s : State) : Bool := breakRun ≤ spaceRunThrough units s.lu.spaceRun

/-- The run of space goes on through these units (R47). -/
def countUnits (units : List Bool) (s : State) : State :=
  { s with lu.spaceRun := spaceRunThrough units s.lu.spaceRun }

/-- What is left of the last unit read of the telegram framed, where it is space; `units` are those read since its Start
(log 17). -/
def spaceGoingOn (units : List Bool) (s : State) : Tick :=
  if units.getLast? = some false then min (unitTime s) ((units.length + 1) * unitTime s - s.lu.frameTime) else 0

/-- Units are read while a telegram is framed: the line breaks in them, or they are counted and the command acts (R36, R47). -/
def readUnits (units : List Bool) (f : State → State) (s : State) : Result :=
  if breaksLine units s then breakLine s else acted (f (countUnits units s))

/-- The telegram is discarded, and the LU hunts again (R35, R36). It leaves the last telegram as it was: that one malformed
here does not count as the last telegram of R38 is the model's choice (log 43). -/
def discardTelegram (s : State) : State := { s with lu.receive := .hunting }

/-- TELEGRAM_TURN (R37). A telegram with a malformed field is discarded (R35). -/
def execTelegramTurn (t : Telegram) (s : State) : Result :=
  match framingUndecided s, validKind t with
  | some (false, _), some k => readUnits (framedUnits t) (turnHeard k t) s
  | some (true, w), some k => if isSlotTelegram s t then readUnits (framedUnits t) (turnOwn k t w) s else unmoved s
  | some (false, _), none => readUnits (framedUnits t) discardTelegram s
  | some (true, _), none => unmoved s
  | none, _ => unmoved s

/-- MALFORMED_DISCARD (R35). -/
def execMalformedDiscard (t : Telegram) (s : State) : Result :=
  if framingUndecided s = some (false, false) ∧ validKind t = none then readUnits (framedUnits t) discardTelegram s
  else unmoved s

/-! ### COLLISION (R40, R47, R54) -/

/-- The units read of a telegram this station drives, from after its Start through the one that does not match: as many as
the time since the Start has brought, all but the last as sent (R40, log 17). -/
def unitsToCollision (t : Telegram) (s : State) : List Bool :=
  match s.lu.frameTime / unitTime s with
  | 0 => []
  | n + 1 => (framedUnits t).take n ++ ((framedUnits t)[n]?).toList.map (!·)

/-- The collision ends the framing too: that of the restart CLEAR, which sends the LU to LISTEN (R54). -/
def endsFraming (x : Slot) (s : State) : Bool :=
  s.lu.restartClear && x.source = .control .clear && collisionsOf x.source s.lu = 0

/-- COLLISION (R40): the units of a telegram that is framed no further are counted first (R47). -/
def execCollision (s : State) : Result :=
  match sendingNow s with
  | some x =>
    let read := unitsToCollision x.telegram s
    if endsFraming x s then readUnits read (fun s1 => collide x { s1 with lu.spaceLeft := spaceGoingOn read s }) s
    else acted (collide x s)
  | none => unmoved s

/-! ### A space read in HUNTING (R32, R36, R47) -/

/-- The run of space with the unit just read: one more where no mark came between (R47, log 17). -/
def spaceRunOn (l : LineUnit) : Nat := if l.quiet = 0 then l.spaceRun + 1 else 1

/-- A space unit read in HUNTING, once the space unit read before it has ended and `after` units of mark have passed: a Start
where the quiet timer has reached 8 u (R32, R36); the 48th of a run breaks the line (R47). -/
def readSpace (after : Nat) (s : State) : State :=
  let s1 := elapse (s.lu.spaceLeft + after * unitTime s) s
  let starts := 8 * unitTime s ≤ s1.lu.quiet
  let s2 :=
    { s1 with
      lu.receive := if starts then .framing false false none else .hunting
      lu.quiet := 0
      lu.spaceRun := spaceRunOn s1.lu
      lu.spaceLeft := if starts then 0 else unitTime s
      lu.frameTime := 0 }
  if breakRun ≤ s2.lu.spaceRun then lineBroken s2 else s2

/-- HUNTING_SPACE_READ (R36). -/
def execHuntingSpaceRead (afterUnits : Nat) (s : State) : Result := actIf (hunts s) (readSpace afterUnits) s

/-! ### The end of a break (R48) -/

/-- BROKEN ends when the line has been at mark for 2 s, by the count of R48 and R49 (log 40); LISTEN goes to PROBE, and the CM stops its timer (R94). -/
def lineRestored (s : State) : State :=
  let s1 := elapse (s.lu.untilMark (sec 2 - s.lu.markRun)) s
  let s2 :=
    { s1 with
      lu.condition := .clear
      lu.receive := .hunting
      lu.quiet := sec 2
      lu.spaceRun := 0
      lu.markRun := 0
      cm.breakTimer := none }
  notice .lineRestored (if s2.lu.joinState = .listen then enterProbe s2 else s2)

/-- The line is BROKEN, and read. -/
def isBroken (s : State) : Bool := online s && s.lu.condition = .broken

/-- LINE_RESTORED (R48). -/
def execLineRestored (s : State) : Result := actIf (isBroken s) lineRestored s

/-- A space unit read in BROKEN, once the one read before it has ended: the 2 s count starts again (R48), and the quiet timer
with it (R32); the run of space goes on (R47). -/
def readBrokenSpace (s : State) : State :=
  let s1 := elapse s.lu.spaceLeft s
  { s1 with lu.markRun := 0, lu.quiet := 0, lu.spaceRun := spaceRunOn s1.lu, lu.spaceLeft := unitTime s }

/-- BROKEN_SPACE_READ (R48). -/
def execBrokenSpaceRead (s : State) : Result := actIf (isBroken s) readBrokenSpace s

/-! ### Joining (R50, R51) -/

/-- LISTEN_QUIET_EXPIRY (R50): the quiet timer reaches 2 s in LISTEN. -/
def execListenQuietExpiry (s : State) : Result :=
  actIf (hunts s && s.lu.joinState = .listen) (fun x => enterProbe (elapse (x.lu.untilMark (sec 2 - x.lu.quiet)) x)) s

/-- LISTEN_WINDOW_EXPIRY (R50). -/
def execListenWindowExpiry (s : State) : Result :=
  expire s.lu.listenWindow (online s && s.lu.joinState = .listen && s.lu.condition = .clear)
    (fun x => notice .lineFault { x with lu.listenWindow := some (sec 30) }) s

/-- PROBE_WAIT_EXPIRY (R51). -/
def execProbeWaitExpiry (s : State) : Result :=
  expire s.lu.probeWait (online s && s.lu.joinState = .probe) (fun x => { x with lu.probeWait := none }) s

end Sys2Proof.Machine
end

