-- ==== Sys2Proof/Machine/HandOn.lean ====
section
/-!
DEFINITION. TELEGRAM_HAND_ON (R37): what the hand-on of a valid telegram changes in the LU (R32, R50 to R53), in the
line view (R68, R69), and in the call (R67, R73 to R77, R82 to R84, R86, R88 to R92, R111, R145, R163, R165).
-/

namespace Sys2Proof.Machine

/-- A telegram at its hand-on: its kind, its fields, its resolved run, whether its ACK slot held space, whether this
station sent it, whether this station took it, and what its Turn decided (R37). -/
structure Handed where
  kind      : Kind
  telegram  : Telegram
  run       : List Resolved
  ack       : Bool
  own       : Bool
  withdrawn : Bool
  taken     : Bool
  result    : TurnResult
  deriving DecidableEq, Repr

/-! ### The line view (R68, R69) -/

/-- The telegram goes from the view's destination, an individual one, to its caller. -/
def fromDestination (v : LineView) (t : Telegram) : Bool :=
  match v.caller, v.destination with
  | some c, some d => !isGroup d && addrOf t.source = d && t.destination = addrOf c
  | _, _ => false

/-- The telegram goes from the view's caller to its destination. -/
def fromCaller (v : LineView) (t : Telegram) : Bool := v.caller = some t.source && v.destination = some t.destination

/-- An activity of the call the view holds (R69). -/
def isActivity (v : LineView) (t : Telegram) : Bool :=
  match v.caller, v.destination with
  | some c, some d =>
    if isGroup d then t.source = c || t.destination = addrOf c
    else t.source = c || addrOf t.source = d
  | _, _ => false

/-- The view ENGAGED, its silence timer started (R68). -/
def LineView.engage (v : LineView) : LineView :=
  { v with state := .engaged, ringWait := none, silence := some (sec 120) }

/-- The view after a hand-on (R68, R69). A telegram that R68 says changes nothing and that is an activity by R69 starts
the silence timer again: the model's reading (log 37). -/
def viewAfter (v : LineView) (h : Handed) : LineView :=
  match v.state with
  | .free =>
    if h.kind = .call ∧ h.ack then
      if isGroup h.telegram.destination then
        ⟨.engaged, some h.telegram.source, some h.telegram.destination, none, some (sec 120)⟩
      else ⟨.ringing, some h.telegram.source, some h.telegram.destination, some (sec 40), none⟩
    else v
  | .ringing =>
    if h.kind = .accept ∧ fromDestination v h.telegram then v.engage
    else if h.kind = .refuse ∧ fromDestination v h.telegram then LineView.reset
    else if h.kind = .clear ∧ (fromCaller v h.telegram ∨ fromDestination v h.telegram) then LineView.reset
    else v
  | .engaged =>
    if h.kind = .clear ∧ (fromCaller v h.telegram ∨ fromDestination v h.telegram) then LineView.reset
    else if isActivity v h.telegram then { v with silence := some (sec 120) }
    else v

/-- The view was freed by this hand-on. -/
def freesView (was now : LineView) : Bool := was.state ≠ .free && now.state = .free

/-- The view was taken out of FREE by this hand-on (R73). -/
def takesView (was now : LineView) : Bool := was.state = .free && now.state ≠ .free

/-! ### CALL (R73, R74, R76, R111) -/

/-- A CLEAR with cause NORMAL whose outcome the CM ignores (R74, R75). -/
def sendLooseClear (d : Addr) (s : State) : State :=
  requestOrDrop (request s .clear d [causeCode .normal] .cmNoOutcome) s

/-- This station's own CALL at its hand-on (R74): withdrawn and taken, it is cleared; taken, the record goes on. A CLEAR key
between the two events of the attempt's end finds no entry to withdraw, and no CLEAR follows: the model's choice (log 12). -/
def ownCall (h : Handed) (s : State) : State :=
  if !h.ack then s
  else if h.withdrawn then sendLooseClear h.telegram.destination s
  else if s.cm.call.state = .calling then
    if isGroup h.telegram.destination then enterOpen s else ringView (setCallState .awaiting s)
  else s

/-- The attempt is overtaken by another call (R73). -/
def overtaken (s : State) : State := toIdle false (some .lineEngaged) { s with lu := withdraw .call s.lu }

/-- Dialing is undone: a CALL it queued is withdrawn, the dial buffer emptied, DIALING ABANDONED printed (R76, R111). -/
def undoDialing (s : State) : State :=
  notice .dialingAbandoned { s with lu := withdraw .call s.lu, ku.dial := [] }

/-- The record stands in dialing, or in what the end of dialing leads to. -/
def dials (c : CallState) : Bool := c = .dialing || c = .calling

/-- Dialing, or the CALL it queued, is to be undone (R76, R111). A record that was DIALING when the CALL was taken loses its
dialing for any outcome, wherever a key has moved it since: it stays, goes on to CALLING, or is back in IDLE. One that was
IDLE loses the dialing begun since. A record that was in a call at the Turn and dials at the hand-on is named by no rule:
its dialing is undone by glare, which takes the record, and kept by a REFUSE, the model's choice (log 32). -/
def dialingToUndo (o : AnswerOutcome) (atTurn : CallState) (s : State) : Bool :=
  let now := s.cm.call.state
  match atTurn with
  | .dialing => now = .idle || dials now
  | .idle => dials now
  | _ => o = .glare && now = .dialing

/-- Ringing begins (R165). -/
def beginRinging (s : State) : State :=
  { s with
    au.ring := .ringing
    au.ringTimer := some (sec 25)
    mt.cadence := some ⟨true, sec 1⟩ }

/-- The record goes to RINGING as CALLED (R70, R71, R76). -/
def enterRinging (t : Telegram) (w : Fin 8) (s : State) : State :=
  ringView (setCallState .ringing (setCalled .called t.source t.destination w s))

/-- The auto-answered flag (R163, R167). -/
def setAutoAnswered (b : Bool) (s : State) : State := { s with au.autoAnswered := b }

/-- REFUSE with a reason is queued to the caller; a record whose dialing was undone goes to IDLE, where it is not there
already (R76). -/
def refuseCall (t : Telegram) (r : Reason) (undone : Bool) (s : State) : State :=
  let s1 := requestOrDrop (request s .refuse (addrOf t.source) [reasonCode r] .cmNoOutcome) s
  if undone && s.cm.call.state ≠ .idle then toIdle false none s1 else s1

/-- The outcome of the answer decision, applied by the CM, with the AU's own part (R73, R76, R163, R165). -/
def applyOutcome (o : AnswerOutcome) (w : Fin 8) (t : Telegram) (undone : Bool) (s : State) : State :=
  match o with
  | .ring => beginRinging (enterRinging t w s)
  | .accept => answerAccept (setAutoAnswered true (enterRinging t w s))
  | .glare => answerAccept (setAutoAnswered false (enterRinging t w { s with lu := withdraw .call s.lu }))
  | .refuse r => refuseCall t r undone (setAutoAnswered false s)
  | .memberJoin =>
    enterOpen (setAutoAnswered false (setCalled .member t.source t.destination w s))
  | .notTaken => s

/-- The outcome puts the record in a call, and the record stands where a CALL taken finds it at its hand-on: IDLE,
DIALING or CALLING (R76). A REFUSE leaves the record, so it is sent from any state. -/
def appliesTo (o : AnswerOutcome) (c : CallState) : Bool :=
  match o, c with
  | .refuse _, _ => true
  | _, .idle => true
  | _, .dialing => true
  | _, .calling => true
  | _, _ => false

/-- A CALL taken here, applied at its hand-on (R76). -/
def takenCall (o : AnswerOutcome) (w : Fin 8) (atTurn : CallState) (t : Telegram) (s : State) : State :=
  if appliesTo o s.cm.call.state then
    if dialingToUndo o atTurn s then applyOutcome o w t true (undoDialing s) else applyOutcome o w t false s
  else s

/-- This CALL does not end the attempt it takes the view from: glare, or a CALL whose outcome undoes the dialing (R73, R76). -/
def sparesAttempt (h : Handed) (s : State) : Bool :=
  h.taken &&
    match h.result with
    | .call .glare _ _ => true
    | .call o _ atTurn => dialingToUndo o atTurn s
    | _ => false

/-- A CALL of another station's (R73, R76). -/
def heardCall (tookView : Bool) (h : Handed) (s : State) : State :=
  let s1 :=
    if tookView && s.cm.call.state = .calling && !sparesAttempt h s then overtaken s else s
  match h.taken, h.result with
  | true, .call o w atTurn => takenCall o w atTurn h.telegram s1
  | _, _ => s1

/-! ### ACCEPT, REFUSE, CLEAR (R70, R75, R77, R88, R91, R92) -/

/-- This station's own ACCEPT at its hand-on (R77). -/
def ownAccept (h : Handed) (s : State) : State :=
  if h.ack ∧ !h.withdrawn ∧ s.cm.call.state = .ringing ∧ s.cm.call.answer = .acceptSent then enterOpen s else s

/-- An ACCEPT taken here (R75, log 26). -/
def takenAccept (h : Handed) (s : State) : State :=
  if h.taken then
    match s.cm.call.state with
    | .awaiting => enterOpen s
    | .clearing => s
    | _ => sendLooseClear (addrOf h.telegram.source) s
  else s

/-- The source of a telegram as a notice prints it. -/
def sourceNumber (t : Telegram) : Nat := t.source.toNat

/-- A REFUSE from the party: it ends AWAITING, taken or not where it frees the view; in OPEN it answers a POLL (R70,
R75, R88). One taken at its Turn whose record has left AWAITING, or OPEN, since then changes nothing here and prints no
REFUSED: DESIGN CHOICE, unsafe (R57, log 38). -/
def heardRefuse (freed : Bool) (h : Handed) (s : State) : State :=
  match telegramReason h.telegram with
  | none => s
  | some r =>
    if s.cm.call.partyStation = some h.telegram.source then
      if s.cm.call.state = .awaiting ∧ (h.taken ∨ freed) then
        toIdle false (some (.refused (sourceNumber h.telegram) r)) s
      else if s.cm.call.state = .opened ∧ h.taken then notice (.refused (sourceNumber h.telegram) r) s
      else s
    else s

/-- A member's CLEAR at a group CALLER (R82, R91). -/
def memberLeft (n : Station) (s : State) : State :=
  notice (.memberLeft n.toNat)
    { s with cm.call.holdSet := s.cm.call.holdSet.filter fun x => x.station ≠ n }

/-- A CLEAR heard. In AWAITING, RINGING and OPEN the party's is taken or frees the view, which is the call's own then
(R70, R77, R91). In CLEARING it is one taken (R92): the view may be another call's by then. -/
def heardClear (freed : Bool) (h : Handed) (s : State) : State :=
  match telegramCause h.telegram with
  | none => s
  | some c =>
    let t := h.telegram
    let told := some (Notice.cleared (sourceNumber t) c)
    if isGroupCaller s.cm.call then
      if s.cm.call.state = .opened ∧ h.taken then memberLeft t.source s else s
    else if s.cm.call.partyStation = some t.source ∧ (h.taken ∨ freed) then
      match s.cm.call.state with
      | .opened => toIdle (c = .normal) told s
      | .ringing => toIdle false told { s with lu := withdraw .accept s.lu }
      | .awaiting => toIdle false told s
      | .clearing => if h.taken then toIdle false none { s with lu := withdraw .clear s.lu } else s
      | .idle => s
      | .dialing => s
      | .calling => s
    else s

/-! ### TEXT, HOLD, GO (R67, R82, R83) -/

/-- The CM's part in the result of acceptance of a TEXT (R67, R83). -/
def heardText (h : Handed) (s : State) : State :=
  match h.result with
  | .text (.taken _ _) => flowTest s
  | .text .noDestination => if s.cm.call.state ≠ .opened then s else if s.cm.call.heldByMe then queueHold s else setHeld s
  | .text .noSpace => if s.cm.call.state ≠ .opened then s else if s.cm.call.heldByMe then queueHold s else setHeld s
  | _ => s

/-- The hold set with a station's entry added or started again (R82). -/
def holdWith (n : Station) (hs : List Hold) : List Hold :=
  if hs.any fun x => x.station = n then hs.map fun x => if x.station = n then ⟨n, sec 30⟩ else x
  else hs ++ [⟨n, sec 30⟩]

/-- The TEXT in the place gets its retries back, its 40 u still running or passed (R82). -/
def giveRetries (p : TextPlace) : TextPlace := { p with retriesUsed := 0 }

/-- A HOLD taken (R82). One whose record has left OPEN since its Turn does nothing: DESIGN CHOICE, unsafe (R57, log 38). -/
def takenHold (h : Handed) (s : State) : State :=
  if h.taken ∧ s.cm.call.state = .opened then
    { s with
      cm.call.holdSet := holdWith h.telegram.source s.cm.call.holdSet
      lu.text := s.lu.text.map giveRetries }
  else s

/-- A GO taken (R82). Where the record has left OPEN since its Turn the hold set was emptied (R95), and the GO finds no
entry in it: DEDUCED, unsafe (R57, log 38). -/
def takenGo (h : Handed) (s : State) : State :=
  if h.taken ∧ s.cm.call.state = .opened then
    { s with cm.call.holdSet := s.cm.call.holdSet.filter fun x => x.station ≠ h.telegram.source }
  else s

/-! ### BREAK, POLL, WHO, HEREIS (R86, R88 to R90, R145) -/

/-- A BREAK taken (R86). One whose record has left OPEN since its Turn does nothing and prints no BREAK FROM: DESIGN
CHOICE, unsafe (R57, log 38). -/
def takenBreak (h : Handed) (s : State) : State :=
  if h.taken ∧ s.cm.call.state = .opened then notice (.breakFrom (sourceNumber h.telegram)) (stopSending s) else s

/-- The reason for which the TU refuses a POLL, if any (R145). -/
def pollReason (s : State) : Option Reason :=
  if s.tu.run.isSome then some .readerBusy
  else if s.tu.readerPresent && s.tu.tapeIn then none
  else some .noTape

/-- A POLL taken (R88, R145). One whose record has left OPEN since its Turn starts no run and queues no REFUSE: DESIGN
CHOICE, unsafe (R57, log 38). -/
def takenPoll (h : Handed) (s : State) : State :=
  if h.taken ∧ s.cm.call.state = .opened then
    match pollReason s with
    | none => startRun .send (pollCount h.telegram.text) s
    | some r => requestOrDrop (request s .refuse (addrOf h.telegram.source) [reasonCode r] .cm) s
  else s

/-- A WHO taken, other than a probe (R52, R89). -/
def takenWho (h : Handed) (s : State) : State :=
  if h.taken ∧ !isProbe h.kind h.telegram then
    requestOrDrop (request s .hereis (addrOf h.telegram.source) (answerbackCodes s) .cm) s
  else s

/-- The party's answerback is captured, and copied into the OPEN file record (R90, R170). -/
def capture (run : List Resolved) (s : State) : State :=
  let a := some (run.take 20)
  let s1 := { s with cm.call.answerback := a }
  match s.cm.call.fileLink with
  | some slot => updateRecord slot (fun r => { r with answerback := a }) s1
  | none => s1

/-- A HEREIS taken (R90). -/
def takenHereis (h : Handed) (s : State) : State :=
  if h.taken then
    let s1 := notice (.answerback (sourceNumber h.telegram) h.run) s
    if s.cm.call.state = .opened ∧ s.cm.call.partyStation = some h.telegram.source then capture h.run s1 else s1
  else s

/-! ### The hand-on -/

/-- This station's number stands as the source of another station's telegram, a probe excepted while JOINED (R51, R52). -/
def duplicateHeard (h : Handed) (s : State) : Bool :=
  h.telegram.source = s.cl.station &&
    match s.lu.joinState with
    | .probe => true
    | .joined => !isProbe h.kind h.telegram
    | _ => false

/-- The LU's part in another station's telegram: LISTEN ends with a valid one, and a duplicate sends the LU to LISTEN-ONLY
(R50 to R53). -/
def luHandOn (h : Handed) (s : State) : State :=
  if h.own then s
  else if s.lu.joinState = .listen then
    if h.telegram.source = s.cl.station then enterListenOnly s else enterProbe s
  else if duplicateHeard h s then enterListenOnly s
  else s

/-- The CM's part beyond the line view, by kind. -/
def cmHandOn (tookView freed : Bool) (h : Handed) (s : State) : State :=
  if h.own then
    match h.kind with
    | .call => ownCall h s
    | .accept => ownAccept h s
    | _ => s
  else
    match h.kind with
    | .call => heardCall tookView h s
    | .accept => takenAccept h s
    | .refuse => heardRefuse freed h s
    | .clear => heardClear freed h s
    | .text => heardText h s
    | .hold => takenHold h s
    | .go => takenGo h s
    | .brk => takenBreak h s
    | .who => takenWho h s
    | .hereis => takenHereis h s
    | .poll => takenPoll h s

/-- The states in which the line view is the call's own (R70). -/
def holdsView : CallState → Bool
  | .awaiting => true
  | .ringing => true
  | .opened => true
  | _ => false

/-- A CLEAR with cause NORMAL. -/
def isNormalClear (h : Handed) : Bool := h.kind = .clear && telegramCause h.telegram = some .normal

/-- A REFUSE or CLEAR that frees the view of this station's own call ends the record in the same act (R70). The party's
have done so already; one that bears this station's own number as its source ends it here, with no notice (log 34). -/
def endFreed (freed : Bool) (h : Handed) (s : State) : State :=
  if freed ∧ s.cm.view.state = .free ∧ holdsView s.cm.call.state then
    toIdle (isNormalClear h) none { s with lu := withdraw .accept s.lu }
  else s

/-- The hand-on of a valid telegram (R37): the LU's part first (log 25), then the line view's, then the call's. -/
def handOn (h : Handed) (s : State) : State :=
  let s1 := luHandOn h s
  let v := viewAfter s1.cm.view h
  let freed := freesView s1.cm.view v
  endFreed freed h (cmHandOn (takesView s1.cm.view v) freed h { s1 with cm.view := v })

/-- The LU after the end of the ACK slot: hunting with its buffer empty, the quiet timer 0 (R32, R36, R38). The ACK
slot's reading is one for the two events of an own attempt's end (log 12). The restart CLEAR, handed on when the LU has
gone to LISTEN, is no last telegram of its own (R54). The run of space goes on where no mark ended it (R47). -/
def luAfterSlot (own : Bool) (slot : SlotUnits) (h : Handed) (l : LineUnit) : LineUnit :=
  { l with
    receive := .hunting
    quiet := 0
    spaceRun := runAfterSlot slot h.taken l.spaceRun
    lastOwn := own && l.joinState ≠ .listen
    ackRead := if own && l.slot.isSome then some h.ack else none }

/-- What is handed on, for a valid telegram framed (R37). -/
def handedOf (own withdrawn : Bool) (slot : SlotUnits) (f : Framed) (s : State) : Option Handed :=
  (validKind f.telegram).map fun k =>
    { kind := k
      telegram := f.telegram
      run := f.run
      ack := if own then s.lu.ackRead.getD (heldSpace slot) else heldSpace slot || f.taken
      own
      withdrawn := withdrawn || (own && slotWithdrawn s)
      taken := f.taken
      result := f.result }

/-- The telegram framed, its Turn passed. -/
def framedNow (s : State) : Option (Bool × Bool × Framed) :=
  match s.lu.receive with
  | .framing own w (some f) => some (own, w, f)
  | _ => none

/-- TELEGRAM_HAND_ON (R37); the line may break in the Turn (R36, R47). -/
def execTelegramHandOn (slot : SlotUnits) (s : State) : Result :=
  match framedNow s with
  | some (own, w, f) =>
    match handedOf own w slot f s with
    | some h =>
      if breaksLine (turnUnits slot) s then breakLine s
      else acted (handOn h { s with lu := luAfterSlot own slot h s.lu })
    | none => unmoved s
  | none => unmoved s

end Sys2Proof.Machine
end

