-- ==== Sys2Proof/Machine/Restart.lean ====
section
/-!
DEFINITION. Restart (R54, R97, R116, R135, R151, R178, R185).
-/

namespace Sys2Proof.Machine

/-- Set the scan state of a matrix position (R99). -/
def setScan (p : BitVec 6) (k : KeyScan) (s : State) : State := { s with ku.scan := s.ku.scan.set p.toNat k }

/-- The level of a matrix position (R99). -/
def levelAt (s : State) (p : BitVec 6) : Option KeyLevel := (s.ku.scan[p.toNat]?).map KeyScan.level

/-- The LU stops its attempt, discards what it frames, and empties its list and place (R54). -/
def luEmpty (s : State) : State :=
  { s with
    lu.slot := none
    lu.receive := .hunting
    lu.ackRead := none
    lu.control := []
    lu.text := none
    lu.restartClear := false }

/-- The party the restart CLEAR goes to: that of an OPEN or AWAITING call (R97), where the LU sends it (R54). -/
def restartParty (s : State) : Option Addr :=
  if (s.cm.call.state = .opened ∨ s.cm.call.state = .awaiting) ∧ s.lu.joinState = .joined ∧ s.lu.condition = .clear
  then some s.cm.call.partyAddr else none

/-- The LU takes the restart CLEAR, if there is one, and otherwise goes to LISTEN (R54). -/
def luRestart (party : Option Addr) (s : State) : State :=
  match party with
  | some d =>
    { s with
      lu.control := [ControlEntry.fresh ⟨.clear, d, [causeCode .restart], .cmNoOutcome, 0⟩]
      lu.restartClear := true }
  | none => enterListen s

/-- The call ends and the line view goes FREE; SEND is flushed (R30, R97). -/
def cmRestart (s : State) : State :=
  let s1 := if s.cm.call.state = .opened then leaveOpen .idle false s else flushSend (setCallState .idle s)
  freeView s1

/-- The key FIFO, the edit stack and the dial buffer are emptied (R116). -/
def kuRestart (s : State) : State :=
  discardEdit { s with ku.fifo := [], ku.headWaiting := false, ku.retryDue := false, ku.dial := [] }

/-- Presence is sampled again (R119, R137, R143), and the reader run ended with its cycle's code dropped (R151). -/
def tapeRestart (lines : PresenceLines) (s : State) : State :=
  endRun
    { s with
      pu.present := isHigh lines.printer
      tu.punchPresent := isHigh lines.punch
      tu.readerPresent := isHigh lines.reader }

/-- The cursor is abandoned, wherever it stands, so that no file chain is lost (R30, R176, R178); a pending attendance is
applied and the AU makes its tests (R178). -/
def auRestart (s : State) : State := tellIdle (abandonCursor s)

/-- Restart, block by block (R54, R97, R116, R135, R151, R178, R185). That the CM's and the KU's notices read the printer
presence as it was, and the AU's replay header the one sampled again, is log 5's. -/
def restartAll (lines : PresenceLines) (s : State) : State :=
  let s1 := setScan restartPosition ⟨.down, 0⟩ (pressReport s)
  let s2 := tapeRestart lines (kuRestart (cmRestart (luEmpty s1)))
  nextPunchOp (nextPrintOp (luRestart (restartParty s) (auRestart s2)))

/-- The units of a telegram that the run of space counts, of those read since its Start, or since its Check where that has
come: the Turn's two then, and none of the ACK slot's (R33, R47). -/
def countedUnits (r : Receive) (units : List Bool) : List Bool :=
  match r with
  | .hunting => []
  | .framing _ _ none => units
  | .framing _ _ (some _) => units.take 2

/-- A mark has been read in the ACK slot, in which this station drives no space (R37, R47). -/
def markInSlot (r : Receive) (units : List Bool) : Bool :=
  match r with
  | .framing _ _ (some f) => !f.taken && ((units.drop 2).take 2).any id
  | _ => false

/-- The units read since the Start of the telegram framed (R33). -/
def unitsSinceStart (r : Receive) (units : List Bool) : List Bool :=
  match r with
  | .framing _ _ (some f) => framedUnits f.telegram ++ units
  | _ => units

/-- The units read of a telegram that restart discards are counted, as the run of space is kept (R47, R54); a line break in
them has come before the press. -/
def countDiscarded (units : List Bool) (s : State) : State :=
  let read := countedUnits s.lu.receive units
  let s1 := { s with lu.spaceLeft := spaceGoingOn (unitsSinceStart s.lu.receive units) s }
  if s.lu.receive = .hunting then s
  else if breaksLine read s then lineBroken s1
  else
    let s2 := countUnits read s1
    { s2 with lu.spaceRun := if markInSlot s.lu.receive units then 0 else s2.lu.spaceRun }

/-- RESTART (R185): the press is taken where the position is UP (R99). -/
def execRestart (lines : RestartLines) (s : State) : Result :=
  actIf (loaded s && levelAt s restartPosition = some .up)
    (fun x => restartAll lines.toPresenceLines (countDiscarded lines.units x)) s

end Sys2Proof.Machine
end

