-- ==== Sys2Proof/Machine/CallTimers.lean ====
section
/-!
DEFINITION. The commands of the call's timers: send timer (R79), silence (R93), ring-wait (R75, R77), break timer
(R94), hold entries (R82) and held-since (R85).
-/

namespace Sys2Proof.Machine

/-- What a running send timer has left (R79). -/
def sendTimerLeft : SendTimer → Option Tick
  | .running left => some left
  | _ => none

/-- SEND_TIMER_EXPIRY (R79). -/
def execSendTimerExpiry (s : State) : Result :=
  expire (sendTimerLeft s.cm.sendTimer) true (fun x => { x with cm.sendTimer := .expired }) s

/-- AWAITING or RINGING ends with the view's timer (R70, R75, R77). -/
def answerWaitEnds (s : State) : State :=
  match s.cm.call.state with
  | .awaiting => toIdle false (some (.noAnswer (partyNumber s))) s
  | .ringing =>
    toIdle false (if s.cm.call.answer = .acceptSent then some .callFailed else none)
      { s with lu := withdraw .accept s.lu }
  | _ => s

/-- Engaged silence: the view goes FREE, and an OPEN record IDLE with a CLEAR of cause SILENCE (R69, R93). A record
still waiting for its answer ends as at its ring-wait's end (R70, log 33). -/
def silence (s : State) : State :=
  if s.cm.call.state = .opened then
    let s2 := leaveOpen .idle false (freeView s)
    let s3 := requestOrDrop (request s2 .clear s.cm.call.partyAddr [causeCode .silence] .cmNoOutcome) s2
    tellIdle (finishCursor (notice (.cleared (partyNumber s) .silence) s3))
  else answerWaitEnds (freeView s)

/-- SILENCE_EXPIRY (R93). -/
def execSilenceExpiry (s : State) : Result := expire s.cm.view.silence true silence s

/-- RING_WAIT_EXPIRY (R75): the view goes FREE, and AWAITING or RINGING ends (R69, R70, R77). -/
def execRingWaitExpiry (s : State) : Result :=
  expire s.cm.view.ringWait true (fun x => answerWaitEnds (freeView x)) s

/-- The state is one that a break of 5 s abandons (R94). -/
def isAbandoned : CallState → Bool
  | .calling => true
  | .awaiting => true
  | .ringing => true
  | .opened => true
  | .clearing => true
  | .idle => false
  | .dialing => false

/-- The entries the CM requested for the call are withdrawn (R94). A CLEAR is this call's in CLEARING only; one whose
outcome the CM ignores belongs to a call already given up (R74, R75, R93). -/
def withdrawCall (s : State) : State :=
  let l := withdraw .brk (withdraw .go (withdraw .hold (withdraw .accept (withdraw .call s.lu))))
  { s with lu := if s.cm.call.state = .clearing then withdraw .clear l else l }

/-- The break timer expires: the view goes FREE and the call is abandoned (R94). -/
def abandonCall (s : State) : State :=
  let s1 := freeView { s with cm.breakTimer := none }
  if isAbandoned s.cm.call.state then toIdle false (some .callAbandoned) (withdrawCall s1) else s1

/-- BREAK_TIMER_EXPIRY (R94). -/
def execBreakTimerExpiry (s : State) : Result := expire s.cm.breakTimer true abandonCall s

/-- What is left of a station's hold entry (R82). -/
def holdLeft (n : Station) (s : State) : Option Tick := (s.cm.call.holdSet.find? fun x => x.station = n).map Hold.left

/-- A hold entry expires, with its notice (R82). -/
def holdExpires (n : Station) (s : State) : State :=
  notice (.holdExpired n.toNat)
    { s with cm.call.holdSet := s.cm.call.holdSet.filter fun x => x.station ≠ n }

/-- HOLD_ENTRY_EXPIRY (R82). -/
def execHoldEntryExpiry (n : Station) (s : State) : Result := expire (holdLeft n s) true (holdExpires n) s

/-- HELD_SINCE_EXPIRY (R85). -/
def execHeldSinceExpiry (s : State) : Result :=
  expire s.cm.call.heldSince (s.cm.call.state = .opened)
    (fun x => openToClearing false (some (.cleared (partyNumber x) .congestion)) .congestion x) s

end Sys2Proof.Machine
end

