-- ==== Sys2Proof/Machine/Keyboard.lean ====
section
/-!
DEFINITION. The commands of the keyboard: scanning (R98 to R100), the character keys (R101 to R110), and the function
keys (R87, R89, R103, R107, R112 to R115, R144, R149, R161, R174, R177).
-/

namespace Sys2Proof.Machine

/-! ### Scanning and the FIFO (R99, R100) -/

/-- The interpreter takes the entry at the head: it reads the call record's state as it stands (R101). -/
def readHead (s : State) : State := { s with ku.headRead := s.cm.call.state }

/-- A press enters the FIFO; where the FIFO stops being empty, the interpreter takes it as the head (R100, R101). -/
def enterFifo (k : Key) (s : State) : State :=
  { (if s.ku.fifo = [] then readHead s else s) with ku.fifo := s.ku.fifo ++ [k] }

/-- A press of a key enters the FIFO and is reported to the AU; with 8 entries held it is lost, with the bell (R100). -/
def takePress (k : Key) (s : State) : State :=
  if s.ku.fifo.length < 8 then pressReport (enterFifo k s) else bellPulse .keyboard s

/-- The press at a position: a position without a key gives none (R98, R99, R100). -/
def pressTaken (p : BitVec 6) (s : State) : State :=
  match keyAt p with
  | some k => takePress k s
  | none => s

/-- The samples of a position that is UP; the third closed one in a row takes the press (R99, R100). -/
def pressAt (p : BitVec 6) (k : KeyScan) (s : State) : State :=
  if k.level = .down then pressTaken p (setScan p k s) else setScan p k s

/-- The scan state of a position at a level, after its samples (R99): scanning begins when the load ends. -/
def sampled (l : KeyLevel) (key : KeySamples) (s : State) : Option KeyScan :=
  match s.ku.scan[key.position.toNat]? with
  | some k => if loaded s ∧ k.level = l then some (KeyScan.samples key.samples k) else none
  | none => none

/-- KEY_PRESS (R99, R100); RESTART's press is the command RESTART (log 22). -/
def execKeyPress (key : KeySamples) (s : State) : Result :=
  match sampled .up key s with
  | some k => actIf (¬(key.position = restartPosition ∧ k.level = .down)) (pressAt key.position k) s
  | none => unmoved s

/-- KEY_RELEASE (R99). -/
def execKeyRelease (key : KeySamples) (s : State) : Result :=
  match sampled .down key s with
  | some k => acted (setScan key.position k s)
  | none => unmoved s

/-! ### The head of the FIFO (R101) -/

/-- The head of the FIFO, once the load has ended. -/
def headKey (s : State) : Option Key := if loaded s then s.ku.fifo.head? else none

/-- The head entry leaves the FIFO, and the interpreter takes the next as the head (R101). -/
def dropHead (s : State) : State :=
  readHead { s with ku.fifo := s.ku.fifo.tail, ku.headWaiting := false, ku.retryDue := false }

/-- A key other than a character key at the head is dealt with in one act (R101). The command stands where the owner takes
its request, so the owner acts by its present state. The entry leaves the FIFO there too, though the key be read before:
DESIGN CHOICE, unsafe (R101, log 45). -/
def keyAct (k : Key) (f : State → State) (s : State) : Result :=
  actIf (headKey s = some k) (fun x => dropHead (f x)) s

/-! ### Dialing (R72, R110) -/

/-- The record goes from DIALING to IDLE with an empty dial buffer (R72, R110). -/
def cancelDialing (s : State) : State := toIdle false none { s with ku.dial := [] }

/-- The CALL request of the end of dialing (R72): with the view FREE the record goes to CALLING, else LINE ENGAGED and the bell. -/
def placeCall (d : Addr) (s : State) : State :=
  if s.cm.view.state = .free then
    let s1 := setCaller d (setCallState .calling s)
    sendRequest (request s1 .call d [] .cm) s1
  else refuseKey (toIdle false (some .lineEngaged) s)

/-- The number the dial buffer forms; none when it holds no digit (R110). -/
def dialed (digits : List Nat) : Option Nat :=
  match digits with
  | [] => none
  | [d] => some d
  | d :: e :: _ => some (10 * d + e)

/-- The end of dialing (R110). -/
def endDialing (s : State) : State :=
  let s1 := { s with ku.dial := [] }
  match dialed s.ku.dial with
  | none => refuseKey (toIdle false none s1)
  | some n =>
    if 63 < n ∨ BitVec.ofNat 6 n = ownAddr s then refuseKey (toIdle false none s1)
    else placeCall (BitVec.ofNat 6 n) s1

/-- A character key in DIALING (R110). CR's request to the CM is acted on as the key is read: DESIGN CHOICE, unsafe (R101,
R111, log 45). -/
def dialKey (k : Key) (s : State) : State :=
  if k = .cr then endDialing s
  else
    match keyDigit k with
    | some d => if s.ku.dial.length < 2 then { s with ku.dial := s.ku.dial ++ [d] } else refuseKey s
    | none => refuseKey s

/-! ### Character keys (R102, R104 to R108) -/

/-- One keyed character as a run (R104, R105). -/
def keyedCell (ch : Resolved) : List Cell := cellsOf .keyboard [ch]

/-- The echo's append, in an act of its own (R106). -/
def echoRun (echo : Bool) (run : List Cell) (s : State) : State :=
  if echo then (appendRun .print .mayUse run s).getD (refuseKey s) else s

/-- The limit tests made before a character key's runs are appended (R106). -/
def limitsPass (main : QueueName) (echo : Bool) (run : List Cell) (s : State) : Bool :=
  (s.cs.queue main).limitPasses run && (!echo || s.cs.print.limitPasses run)

/-- The key waits at the head (R101, R106). -/
def waitAtHead (s : State) : State := { s with ku.headWaiting := true, ku.retryDue := false }

/-- A SPACE key dealt with sets the case to LTRS, with unshift-on-space on (R102); and the entry leaves the FIFO. -/
def dealtWith (k : Key) (s : State) : State :=
  dropHead { s with ku.case := if k = .space ∧ unshift s then .ltrs else s.ku.case }

/-- The runs of a character key: the main run, and its echo (R104 to R106). The echo follows at once, so no run of another
block reaches PRINT between the two: DESIGN CHOICE, unsafe (R106, log 44). -/
def keyRuns (main : QueueName) (echo : Bool) (k : Key) (ch : Resolved) (s : State) : State :=
  if limitsPass main echo (keyedCell ch) s then
    match appendRun main .mayUse (keyedCell ch) s with
    | some s1 => dealtWith k (echoRun echo (keyedCell ch) s1)
    | none => dealtWith k (refuseKey s)
  else waitAtHead s

/-- The blocks a commit needs in all (R108). -/
def commitBlocks (s : State) (run : List Cell) : Nat :=
  s.cs.send.blocksNeeded run + (if s.pu.present then s.cs.print.blocksNeeded run else 0)

/-- The space check of a commit (R108). -/
def commitPasses (s : State) (run : List Cell) : Bool :=
  s.cs.send.limitPasses run && (!s.pu.present || s.cs.print.limitPasses run)
    && reservePasses .mayUse s.cs.freeCount (commitBlocks s run)

/-- CR commits the edit stack (R108). -/
def commitLine (s : State) : State :=
  let run := cellsOf .keyboard (s.ku.editStack ++ [.cr])
  if commitPasses s run then
    let st := s.cs.pushRun .send run
    signal false (commitBlocks s run != 0)
      { startSendTimer .send run s with
        cs := if s.pu.present then st.pushRun .print run else st
        ku.editStack := [] }
  else refuseKey s

/-- A character key with the edit option on, the call sending (R107, R108). -/
def editKey (k : Key) (ch : Resolved) (s : State) : State :=
  if k = .cr then dealtWith k (commitLine s)
  else if k = .lf then
    if s.ku.editStack = [] then keyRuns .send s.pu.present k ch s else dealtWith k (refuseKey s)
  else if s.ku.editStack.length < 72 then dealtWith k { s with ku.editStack := s.ku.editStack ++ [ch] }
  else dealtWith k (refuseKey s)

/-- A character key by the mode (R104, R105). -/
def modeKey (k : Key) (ch : Resolved) (s : State) : State :=
  match s.ku.mode with
  | .line =>
    if !maySend s.cm.call then dealtWith k (refuseKey s)
    else if s.cl.config.edit then editKey k ch s
    else keyRuns .send s.pu.present k ch s
  | .localMode => if s.pu.present then keyRuns .print false k ch s else dealtWith k (refuseKey s)
  | .tape =>
    if s.tu.punchPresent then keyRuns .punch (s.cl.config.tapeEcho && s.pu.present) k ch s
    else dealtWith k (refuseKey s)

/-- A character key at the head is interpreted (R101, R104, R110). -/
def interpretChar (k : Key) (ch : Resolved) (s : State) : State :=
  if s.cm.call.state = .dialing then dealtWith k (dialKey k s) else modeKey k ch s

/-- The character key at the head, with the character it gives in the present case (R102). -/
def charHead (s : State) : Option (Key × Resolved) :=
  match headKey s with
  | some k => (keyChar s.ku.case k).map fun ch => (k, ch)
  | none => none

/-- CHARACTER_KEY (R104): the head is taken, not having waited. -/
def execCharacterKey (s : State) : Result :=
  match charHead s with
  | some (k, ch) => actIf (!s.ku.headWaiting) (interpretChar k ch) s
  | none => unmoved s

/-- KEY_HEAD_RETRY (R101): the waiting head is taken again. -/
def execKeyHeadRetry (s : State) : Result :=
  match charHead s with
  | some (k, ch) => actIf (s.ku.headWaiting && s.ku.retryDue) (interpretChar k ch) s
  | none => unmoved s

/-! ### Case and mode keys (R102, R103) -/

/-- LTRS_KEY (R102). -/
def execLtrsKey (s : State) : Result := keyAct .ltrs (fun x => { x with ku.case := .ltrs }) s

/-- FIGS_KEY (R102). -/
def execFigsKey (s : State) : Result := keyAct .figs (fun x => { x with ku.case := .figs }) s

/-- A mode key (R103, log 31). -/
def setMode (m : KeyMode) (s : State) : State :=
  if s.ku.editStack = [] then { s with ku.mode := m } else refuseKey s

/-- LINE_KEY (R103). -/
def execLineKey (s : State) : Result := keyAct .line (setMode .line) s

/-- LOCAL_KEY (R103). -/
def execLocalKey (s : State) : Result := keyAct .localMode (setMode .localMode) s

/-- TAPE_KEY (R103). -/
def execTapeKey (s : State) : Result := keyAct .tape (setMode .tape) s

/-! ### BACKSPACE (R107) -/

/-- The condition in which the edit stack is in use (R107). -/
def editing (s : State) : Bool := s.ku.mode = .line && s.cl.config.edit && maySend s.cm.call

/-- BACKSPACE removes the top character, or rings (R107). -/
def backspaceKey (s : State) : State :=
  if editing s && s.ku.editStack ≠ [] then { s with ku.editStack := s.ku.editStack.dropLast } else refuseKey s

/-- BACKSPACE (R107). -/
def execBackspace (s : State) : Result := keyAct .backspace backspaceKey s

/-! ### CALL and CLEAR (R72, R74, R75, R92, R112, R165) -/

/-- Dialing begins (R72); the fields of the new call are set as far as they are known (R71, log 29). -/
def beginDialing (s : State) : State :=
  { setCallState .dialing s with
    ku.dial := []
    cm.call.role := some .caller
    cm.call.answerback := none
    cm.call.fileLink := none
    cm.call.readerLink := false }

/-- The ring state becomes ANSWERED: the ring timer stops and the cadence is withdrawn (R165, R166). -/
def ringAnswered (s : State) : State := { s with au.ring := .answered, au.ringTimer := none, mt.cadence := none }

/-- The CALL key as the answer (R165). -/
def answerByKey (s : State) : State :=
  if s.au.ring = .ringing then answerAccept (setAutoAnswered false (ringAnswered s)) else s

/-- The CLEAR key as the refusal (R165). -/
def refuseByKey (s : State) : State :=
  if s.au.ring = .ringing then answerRefuse .notAccepting (ringAnswered s) else s

/-- The CM takes a request to begin dialing: refused, with the bell, outside IDLE (R72, R101, R112). -/
def requestDialing (s : State) : State := if s.cm.call.state = .idle then beginDialing s else refuseKey s

/-- The AU takes a key read in RINGING: refused, with the bell, once the record is in another state (R101, R165). -/
def takenRinging (f : State → State) (s : State) : State := if s.cm.call.state = .ringing then f s else refuseKey s

/-- The CM takes a request of a key read in DIALING. The KU has emptied its dial buffer (R110); outside DIALING the CM does
nothing, and no bell sounds: DESIGN CHOICE, unsafe (R72, R111, log 45). -/
def takenDialing (f : State → State) (s : State) : State :=
  if s.cm.call.state = .dialing then f s else { s with ku.dial := [] }

/-- The CALL key, by the record's state as read; the owner acts by the state it finds (R101, R112, R165). -/
def callKeyAct (read : CallState) (s : State) : State :=
  match read with
  | .dialing => takenDialing endDialing s
  | .ringing => takenRinging answerByKey s
  | _ => requestDialing s

/-- CALL_KEY (R112). -/
def execCallKey (s : State) : Result := keyAct .call (fun x => callKeyAct x.ku.headRead x) s

/-- The record goes from AWAITING to CLEARING (R75, R92). -/
def awaitingToClearing (s : State) : State :=
  let s1 := setCallState .clearing s
  sendRequest (clearRequest .normal s1) s1

/-- The CM takes a CLEAR key (R74, R92). -/
def requestClear (s : State) : State :=
  match s.cm.call.state with
  | .dialing => cancelDialing s
  | .calling => toIdle false none { s with lu := withdraw .call s.lu }
  | .awaiting => awaitingToClearing s
  | .opened => openToClearing true none .normal s
  | .ringing => refuseByKey s
  | .idle => s
  | .clearing => s

/-- The CLEAR key, by the record's state as read; the owner acts by the state it finds (R92, R101, R112, R165). -/
def clearKeyAct (read : CallState) (s : State) : State :=
  match read with
  | .idle => s
  | .clearing => s
  | .dialing => takenDialing cancelDialing s
  | .ringing => takenRinging refuseByKey s
  | _ => requestClear s

/-- CLEAR_KEY (R112). -/
def execClearKey (s : State) : Result := keyAct .clear (fun x => clearKeyAct x.ku.headRead x) s

/-! ### WHO, HEREIS, BREAK, POLL (R87, R89, R113, R115) -/

/-- The WHO key (R89). -/
def whoKeyAct (s : State) : State :=
  match s.cm.call.state with
  | .opened => requestWho s.cm.call.partyAddr s
  | .idle => requestWho allCall s
  | _ => refuseKey s

/-- WHO_KEY (R89). -/
def execWhoKey (s : State) : Result := keyAct .who whoKeyAct s

/-- The answerback as a keyed run (R113). -/
def answerbackRun (s : State) : List Cell := cellsOf .keyboard s.cl.config.answerback

/-- The HEREIS key (R113). Its echo follows the SEND run at once, as a character key's does: DESIGN CHOICE, unsafe
(log 44). -/
def hereisKeyAct (s : State) : State :=
  if s.ku.mode = .line ∧ maySend s.cm.call then
    match appendRun .send .mayUse (answerbackRun s) s with
    | some s1 => echoRun s.pu.present (answerbackRun s) s1
    | none => refuseKey s
  else if s.pu.present then (appendRun .print .mayUse (answerbackRun s) s).getD (refuseKey s)
  else refuseKey s

/-- HEREIS_KEY (R113). -/
def execHereisKey (s : State) : Result := keyAct .hereis hereisKeyAct s

/-- The BREAK key (R87). -/
def breakKeyAct (s : State) : State :=
  if s.cm.call.state = .opened then
    if isGroupCaller s.cm.call then stopSending s
    else requestOrDrop (request s .brk s.cm.call.partyAddr [] .cm) s
  else refuseKey s

/-- BREAK_KEY (R87). -/
def execBreakKey (s : State) : Result := keyAct .brk breakKeyAct s

/-- The POLL key (R115). -/
def pollKeyAct (s : State) : State :=
  if s.cm.call.state = .opened ∧ isIndividual s.cm.call then
    requestOrDrop (request s .poll s.cm.call.partyAddr [] .cm) s
  else refuseKey s

/-- POLL_KEY (R115). -/
def execPollKey (s : State) : Result := keyAct .poll pollKeyAct s

/-! ### READ START and READ STOP (R114, R144, R149) -/

/-- Where a run of the keyboard mode would go, if it may (R144). -/
def runDestination (s : State) : Option QueueName :=
  match s.ku.mode with
  | .line => if maySend s.cm.call then some .send else none
  | .localMode => if s.pu.present then some .print else none
  | .tape => if s.tu.punchPresent then some .punch else none

/-- The READ START key (R144). -/
def readStartAct (s : State) : State :=
  if s.tu.run.isSome || !s.tu.readerPresent || !s.tu.tapeIn then refuseKey s
  else
    match runDestination s with
    | some n => startRun n 0 s
    | none => refuseKey s

/-- READ_START (R144). -/
def execReadStart (s : State) : Result := keyAct .readStart readStartAct s

/-- The READ STOP key (R144, R149). -/
def readStopAct (s : State) : State := if s.tu.run.isSome then endRunWith .runStopped s else refuseKey s

/-- READ_STOP (R149). -/
def execReadStop (s : State) : Result := keyAct .readStop readStopAct s

/-! ### FILE PRINT, FILE CLEAR, ATTEND (R161, R174, R177) -/

/-- The FILE PRINT key (R174); a replay that ends at once is followed by the AU's tests (R173). -/
def filePrintAct (s : State) : State :=
  if s.au.cursor.isSome || !printerAvailable s then refuseKey s
  else
    match oldestUnprinted s with
    | none => refuseKey s
    | some r =>
      let s1 := startReplay r s
      if s1.au.cursor = none then auTests s1 else s1

/-- FILE_PRINT (R174). -/
def execFilePrint (s : State) : Result := keyAct .filePrint filePrintAct s

/-- Records are deleted, oldest first (R171, R177). -/
def dropRecords (rs : List FileRecord) (s : State) : State := rs.foldl (fun x r => dropRecord r x) s

/-- The FILE CLEAR key (R177): one act, with one event if it released any block (R27). -/
def fileClearAct (s : State) : State :=
  fileChange (fileAvailable s)
    (signal (reclaimable s != 0) false (dropRecords (s.au.file.filter FileRecord.isPrinted) s))

/-- FILE_CLEAR (R177). -/
def execFileClear (s : State) : Result := keyAct .fileClear fileClearAct s

/-- The other attendance (R161). -/
def opposite : Attendance → Attendance
  | .attended => .unattended
  | .unattended => .attended

/-- The target of the ATTEND key's toggle (R161). -/
def toggleTarget (a : AnsweringUnit) : Attendance :=
  match a.pending with
  | some (t, _) => opposite t
  | none => opposite a.attendance

/-- The ATTEND key; ignored while an ATTEND SWITCH input is assigned (R161). -/
def attendKeyAct (s : State) : State := if switchAssigned s then s else attendRequest (toggleTarget s.au) .key s

/-- ATTEND_KEY (R161). -/
def execAttendKey (s : State) : Result := keyAct .attend attendKeyAct s

end Sys2Proof.Machine
end

