-- ==== Sys2Proof/Machine/Printer.lean ====
section
/-!
DEFINITION. The commands of the page printer: paper (R119, R132), taking a cell (R123), the completion of an
operation (R121), and the heat timer (R130).
-/

namespace Sys2Proof.Machine

/-- The paper state changes; leaving OUT, the printer goes on with its work in hand (R119, R120, R132). -/
def setPaper (p : Supply) (s : State) : State :=
  nextPrintOp (printerChange (printerAvailable s) { s with pu.paper := p })

/-- PAPER_STATE_CHANGE (R119). -/
def execPaperStateChange (first second : Level) (s : State) : Result :=
  actIf (loaded s) (setPaper (supplyOf first second)) s

/-- PU_TAKE_CELL (R123). -/
def execPuTakeCell (s : State) : Result :=
  match printerTakes s with
  | some (src, c) => actIf (loaded s) (takePrintCell src c) s
  | none => unmoved s

/-- What is left of the operation in progress. -/
def printOpLeft (s : State) : Option Tick := s.pu.op.map fun _ => s.pu.opLeft

/-- The operation in progress completes (R121). -/
def completePrintOp (s : State) : State :=
  match s.pu.op with
  | some op => finishPrintOp op s
  | none => s

/-- PRINT_OP_COMPLETE (R121). -/
def execPrintOpComplete (s : State) : Result := expire (printOpLeft s) (loaded s) completePrintOp s

/-- The heat count falls by 6, and the timer runs again (R130). -/
def coolDown (s : State) : State := { s with pu := { heatDown s.pu with heatTimer := some (ms 100) } }

/-- HEAT_TIMER_EXPIRY (R130). -/
def execHeatTimerExpiry (s : State) : Result := expire s.pu.heatTimer true coolDown s

end Sys2Proof.Machine
end

