-- ==== Sys2Proof/Machine/Tape.lean ====
section
/-!
DEFINITION. The commands of the tape punch (R136 to R142) and the reader (R143, R146 to R148).
-/

namespace Sys2Proof.Machine

/-- The tape state leaves OUT: the tape is new, its case UNKNOWN, and the work in hand is found again (R141). -/
def newTape (s : State) : State :=
  { s with tu.punchShift := none, tu.punchWork := s.tu.punchWork.map (retape (unshift s)) }

/-- The tape state changes (R137, R138, R141). -/
def setTape (t : Supply) (s : State) : State :=
  let s1 := { s with tu.tape := t }
  let s2 := if s.tu.tape = .out ∧ t ≠ .out then newTape s1 else s1
  nextPunchOp (punchChange (punchAvailable s) s2)

/-- TAPE_STATE_CHANGE (R137). -/
def execTapeStateChange (first second : Level) (s : State) : Result :=
  actIf (loaded s) (setTape (supplyOf first second)) s

/-- PUNCH_TAKE_CELL (R139). -/
def execPunchTakeCell (s : State) : Result :=
  match punchTakes s with
  | some c => actIf (loaded s) (takePunchCell c) s
  | none => unmoved s

/-- What is left of the PUNCH operation in progress. -/
def punchOpLeft (s : State) : Option Tick := s.tu.punchOp.map fun _ => s.tu.punchLeft

/-- PUNCH_OP_COMPLETE (R136). -/
def execPunchOpComplete (s : State) : Result := expire (punchOpLeft s) (loaded s) finishPunchOp s

/-- TAPE_IN_CHANGE (R143). -/
def execTapeInChange (level : Level) (s : State) : Result :=
  actIf (loaded s) (fun x => { x with tu.tapeIn := isHigh level }) s

/-- The run that would take its next step: RUNNING, no held character, no cycle in progress, the motor RUNNING (R146). -/
def steppingRun (s : State) : Option ReaderRun :=
  match s.tu.run with
  | some r =>
    if r.state = .running ∧ r.held = none ∧ s.tu.cycle = none ∧ s.mt.motor = .running then some r else none
  | none => none

/-- READER_CYCLE_START (R146). -/
def execReaderCycleStart (s : State) : Result :=
  match steppingRun s with
  | some r => actIf (loaded s) (readerStep r) s
  | none => unmoved s

/-- What is left of the reader cycle in progress. -/
def cycleLeft (s : State) : Option Tick := s.tu.cycle.map ReaderCycle.left

/-- A cycle completes with the code of its row, which is dropped where its run has ended (R147, R150). -/
def completeCycle (row : Code) (s : State) : State :=
  let s1 := { s with tu.cycle := none }
  match s.tu.cycle, s.tu.run with
  | some c, some r => if c.dropped then s1 else readerCode r row s1
  | _, _ => s1

/-- READER_CYCLE_COMPLETE (R147). -/
def execReaderCycleComplete (row : Code) (s : State) : Result :=
  expire (cycleLeft s) (loaded s) (completeCycle row) s

/-- The PAUSED run that has a block-released event to answer (R148, log 6). -/
def resumingRun (s : State) : Option ReaderRun :=
  match s.tu.run with
  | some r => if r.state = .paused ∧ s.tu.resumeDue then some r else none
  | none => none

/-- READER_RESUME (R148). -/
def execReaderResume (s : State) : Result :=
  match resumingRun s with
  | some r => actIf (loaded s) (fun x => readerGoOn r { x with tu.resumeDue := false }) s
  | none => unmoved s

end Sys2Proof.Machine
end

