-- ==== Sys2Proof/Machine/Terminal.lean ====
section
/-!
DEFINITION. The commands of the motor (R153 to R155, R157), the bell and the CALL lamp (R156, R158), the ATTEND
SWITCH (R159), the attend and ring timers (R162, R166), the pending replay header (R174) and the station clock (R168).
-/

namespace Sys2Proof.Machine

/-! ### The motor -/

/-- The run-up has expired: RUNNING, unless an assigned sense does not read running yet (R153). -/
def runUpEnds (s : State) : State :=
  let s1 := { s with mt.runUp := none }
  if senseAssigned s && !s.mt.senseRunning then s1 else enterRunning s1

/-- RUN_UP_EXPIRY (R153). -/
def execRunUpExpiry (s : State) : Result := expire s.mt.runUp (s.mt.motor = .starting) runUpEnds s

/-- SENSE_WINDOW_EXPIRY (R153). -/
def execSenseWindowExpiry (s : State) : Result := expire s.mt.senseWindow (s.mt.motor = .starting) enterFaulted s

/-- A sense level is taken (R153, R154, R157). -/
def senseTaken (level : Level) (s : State) : State :=
  let s1 := { s with mt.senseRunning := isHigh level }
  match s.mt.motor, level with
  | .starting, .high => if s.mt.runUp = none then enterRunning s1 else s1
  | .running, .low => enterFaulted s1
  | _, _ => s1

/-- MOTOR_SENSE_CHANGE (R157). -/
def execMotorSenseChange (level : Level) (s : State) : Result :=
  actIf (loaded s && senseAssigned s) (senseTaken level) s

/-- MOTOR_HOLD_EXPIRY (R154). -/
def execMotorHoldExpiry (s : State) : Result :=
  expire s.mt.hold (s.mt.motor = .running) (fun x => { x with mt.motor := .stopped, mt.hold := none }) s

/-- FAULT_WAIT_EXPIRY (R155). -/
def execFaultWaitExpiry (s : State) : Result := expire s.mt.faultWait (s.mt.motor = .faulted) leaveFaulted s

/-! ### The bell and the CALL lamp -/

/-- What is left of the pulse taken first (R156). -/
def firstPulseLeft (s : State) : Option Tick := s.mt.pulses.head?.map Pulse.left

/-- BELL_PULSE_EXPIRY (R156). -/
def execBellPulseExpiry (s : State) : Result :=
  expire (firstPulseLeft s) true (fun x => { x with mt.pulses := x.mt.pulses.tail }) s

/-- The other phase of the ringing cadence: on 1 s, off 2 s (R156). -/
def otherCadence (p : Phase) : Phase := if p.on then ⟨false, sec 2⟩ else ⟨true, sec 1⟩

/-- CADENCE_PHASE_EXPIRY (R156). -/
def execCadencePhaseExpiry (s : State) : Result :=
  expire (s.mt.cadence.map Phase.left) true (fun x => { x with mt.cadence := x.mt.cadence.map otherCadence }) s

/-- The other phase of the CALL lamp's flash: on 500 ms, off 500 ms (R158). -/
def otherFlash (p : Phase) : Phase := ⟨!p.on, ms 500⟩

/-- CALL_LAMP_FLASH_EXPIRY (R158). -/
def execCallLampFlashExpiry (s : State) : Result :=
  expire (s.mt.flash.map Phase.left) true (fun x => { x with mt.flash := x.mt.flash.map otherFlash }) s

/-! ### Attendance, ringing, replay, clock -/

/-- An ATTEND SWITCH level is taken, and its request handed to the AU (R159). -/
def switchTaken (level : Level) (s : State) : State :=
  attendRequest (attendanceOf (isHigh level)) .switch { s with mt.switchAttended := isHigh level }

/-- ATTEND_SWITCH_CHANGE (R159): a new level. -/
def execAttendSwitchChange (level : Level) (s : State) : Result :=
  actIf (loaded s && switchAssigned s && s.mt.switchAttended ≠ isHigh level) (switchTaken level) s

/-- ATTEND_TIMER_EXPIRY (R162). -/
def execAttendTimerExpiry (s : State) : Result :=
  expire s.au.attendTimer true (fun x => attendRequest .unattended .timeout { x with au.attendTimer := none }) s

/-- The AU's own answer to a ringing CALL (R166). -/
def answerByTimer (s : State) : State :=
  let s1 := ringAnswered s
  if (ownRoute s).file then
    match unattendedTest s with
    | none => answerAccept (setAutoAnswered true s1)
    | some r => answerRefuse r s1
  else answerRefuse .noAnswer s1

/-- RING_TIMER_EXPIRY (R166). -/
def execRingTimerExpiry (s : State) : Result :=
  expire s.au.ringTimer (s.cm.call.state = .ringing && s.au.ring = .ringing) answerByTimer s

/-- REPLAY_HEADER_RETRY (R174); a record with no cells ends with its header (R173). -/
def execReplayHeaderRetry (s : State) : Result :=
  actIf (s.au.headerRetryDue && headerIsPending s.au) (fun x => finishCursor (tryHeader x)) s

/-- One more minute: after 65535 the clock wraps to 0 (R168). -/
def minutePasses (s : State) : State := { s with au.clock := s.au.clock + 1, au.minuteLeft := some (minutes 1) }

/-- STATION_CLOCK_TICK (R168). -/
def execStationClockTick (s : State) : Result := expire s.au.minuteLeft true minutePasses s

end Sys2Proof.Machine
end

