-- ==== Sys2Proof/Machine/Dispatch.lean ====
section
/-!
DEFINITION. The dispatch: each command to its meaning, one arm for each row of spec/opcode_table.json.
-/

namespace Sys2Proof.Machine

/-- The effect of a command on everything but the queue. -/
def exec (i : Instr) (s : State) : Host.Outcome State Fault Refusal :=
  match i with
  | .resetAssert => Sys2Proof.Machine.execResetAssert s
  | .resetRelease straps lines => Sys2Proof.Machine.execResetRelease straps lines s
  | .configReadDone image inputs => Sys2Proof.Machine.execConfigReadDone image inputs s
  | .configNoAck inputs => Sys2Proof.Machine.execConfigNoAck inputs s
  | .configLoadTimeout inputs => Sys2Proof.Machine.execConfigLoadTimeout inputs s
  | .telegramTurn t => Sys2Proof.Machine.execTelegramTurn t s
  | .malformedDiscard t => Sys2Proof.Machine.execMalformedDiscard t s
  | .telegramHandOn slot => Sys2Proof.Machine.execTelegramHandOn slot s
  | .transmitStart => Sys2Proof.Machine.execTransmitStart s
  | .arbitrationLoss => Sys2Proof.Machine.execArbitrationLoss s
  | .collision => Sys2Proof.Machine.execCollision s
  | .attemptEnd ackSpace => Sys2Proof.Machine.execAttemptEnd ackSpace s
  | .retryWaitExpiry which => Sys2Proof.Machine.execRetryWaitExpiry which s
  | .lineBreak => Sys2Proof.Machine.execLineBreak s
  | .lineRestored => Sys2Proof.Machine.execLineRestored s
  | .listenQuietExpiry => Sys2Proof.Machine.execListenQuietExpiry s
  | .listenWindowExpiry => Sys2Proof.Machine.execListenWindowExpiry s
  | .probeWaitExpiry => Sys2Proof.Machine.execProbeWaitExpiry s
  | .sendTimerExpiry => Sys2Proof.Machine.execSendTimerExpiry s
  | .silenceExpiry => Sys2Proof.Machine.execSilenceExpiry s
  | .ringWaitExpiry => Sys2Proof.Machine.execRingWaitExpiry s
  | .breakTimerExpiry => Sys2Proof.Machine.execBreakTimerExpiry s
  | .holdEntryExpiry station => Sys2Proof.Machine.execHoldEntryExpiry station s
  | .heldSinceExpiry => Sys2Proof.Machine.execHeldSinceExpiry s
  | .keyPress key => Sys2Proof.Machine.execKeyPress key s
  | .keyHeadRetry => Sys2Proof.Machine.execKeyHeadRetry s
  | .characterKey => Sys2Proof.Machine.execCharacterKey s
  | .ltrsKey => Sys2Proof.Machine.execLtrsKey s
  | .figsKey => Sys2Proof.Machine.execFigsKey s
  | .lineKey => Sys2Proof.Machine.execLineKey s
  | .localKey => Sys2Proof.Machine.execLocalKey s
  | .tapeKey => Sys2Proof.Machine.execTapeKey s
  | .backspace => Sys2Proof.Machine.execBackspace s
  | .callKey => Sys2Proof.Machine.execCallKey s
  | .clearKey => Sys2Proof.Machine.execClearKey s
  | .whoKey => Sys2Proof.Machine.execWhoKey s
  | .hereisKey => Sys2Proof.Machine.execHereisKey s
  | .breakKey => Sys2Proof.Machine.execBreakKey s
  | .pollKey => Sys2Proof.Machine.execPollKey s
  | .readStart => Sys2Proof.Machine.execReadStart s
  | .readStop => Sys2Proof.Machine.execReadStop s
  | .filePrint => Sys2Proof.Machine.execFilePrint s
  | .fileClear => Sys2Proof.Machine.execFileClear s
  | .attendKey => Sys2Proof.Machine.execAttendKey s
  | .restart lines => Sys2Proof.Machine.execRestart lines s
  | .paperStateChange first second => Sys2Proof.Machine.execPaperStateChange first second s
  | .puTakeCell => Sys2Proof.Machine.execPuTakeCell s
  | .printOpComplete => Sys2Proof.Machine.execPrintOpComplete s
  | .heatTimerExpiry => Sys2Proof.Machine.execHeatTimerExpiry s
  | .tapeStateChange first second => Sys2Proof.Machine.execTapeStateChange first second s
  | .punchTakeCell => Sys2Proof.Machine.execPunchTakeCell s
  | .punchOpComplete => Sys2Proof.Machine.execPunchOpComplete s
  | .tapeInChange level => Sys2Proof.Machine.execTapeInChange level s
  | .readerCycleStart => Sys2Proof.Machine.execReaderCycleStart s
  | .readerCycleComplete row => Sys2Proof.Machine.execReaderCycleComplete row s
  | .readerResume => Sys2Proof.Machine.execReaderResume s
  | .runUpExpiry => Sys2Proof.Machine.execRunUpExpiry s
  | .senseWindowExpiry => Sys2Proof.Machine.execSenseWindowExpiry s
  | .motorSenseChange level => Sys2Proof.Machine.execMotorSenseChange level s
  | .motorHoldExpiry => Sys2Proof.Machine.execMotorHoldExpiry s
  | .faultWaitExpiry => Sys2Proof.Machine.execFaultWaitExpiry s
  | .bellPulseExpiry => Sys2Proof.Machine.execBellPulseExpiry s
  | .cadencePhaseExpiry => Sys2Proof.Machine.execCadencePhaseExpiry s
  | .callLampFlashExpiry => Sys2Proof.Machine.execCallLampFlashExpiry s
  | .attendSwitchChange level => Sys2Proof.Machine.execAttendSwitchChange level s
  | .attendTimerExpiry => Sys2Proof.Machine.execAttendTimerExpiry s
  | .ringTimerExpiry => Sys2Proof.Machine.execRingTimerExpiry s
  | .replayHeaderRetry => Sys2Proof.Machine.execReplayHeaderRetry s
  | .stationClockTick => Sys2Proof.Machine.execStationClockTick s
  | .huntingSpaceRead afterUnits => Sys2Proof.Machine.execHuntingSpaceRead afterUnits s
  | .brokenSpaceRead => Sys2Proof.Machine.execBrokenSpaceRead s
  | .keyRelease key => Sys2Proof.Machine.execKeyRelease key s

end Sys2Proof.Machine
end

