-- ==== Sys2Proof/Safety.lean ====
section
/-!
DEFINITION. What the statements speak of: the invariants that every step keeps, and the rules of acceptance, of the
answer decision and of the line view said as propositions, apart from the definitions the machine runs.
-/

namespace Sys2Proof.Machine

/-! ### Invariants -/

/-- A property that no step ends. -/
def StepKeeps (Inv : State → Prop) : Prop := ∀ s t, Inv s → step s = .next t → Inv t

/-- The store's two lists are in canonical form (keys strictly rising; Store.lean). -/
def storeCanonical (s : State) : Prop := Memory.wf s.cs.cells = true ∧ Memory.wf s.cs.links = true

/-- The bounds of the keyboard's state: 64 positions, 8 FIFO entries, 72 characters, 2 digits (R98, R100, R107, R110). -/
def keyboardBounds (s : State) : Prop :=
  s.ku.scan.length = 64 ∧ s.ku.fifo.length ≤ 8 ∧ s.ku.editStack.length ≤ 72 ∧ s.ku.dial.length ≤ 2

/-- The edit stack is empty whenever the mode is not LINE or the record is not OPEN (R107). -/
def editOnlyInLineCall (s : State) : Prop :=
  s.ku.editStack ≠ [] → s.ku.mode = .line ∧ s.cm.call.state = .opened

/-- The heat count is 0 to 1000, and the throttle is ON only above 400 and OFF only below 600 (R130, R131). -/
def heatInRange (s : State) : Prop :=
  s.pu.heat ≤ 1000 ∧ (s.pu.throttle = true → 400 < s.pu.heat) ∧ (s.pu.throttle = false → s.pu.heat < 600)

/-- Ringing stands only in RINGING: its timer and cadence only while the ring state is RINGING, the CALL lamp's
flash exactly while the record is RINGING (R156, R158, R165). -/
def ringFollowsRecord (s : State) : Prop :=
  (s.au.ring ≠ .none → s.cm.call.state = .ringing)
    ∧ (s.au.ringTimer ≠ none → s.au.ring = .ringing)
    ∧ (s.mt.cadence ≠ none → s.au.ring = .ringing)
    ∧ (s.mt.flash ≠ none ↔ s.cm.call.state = .ringing)

/-- Each of the motor's timers runs only in its state, the hold timer exactly while a RUNNING motor has no demand, and
a STOPPED motor has none (R152 to R155). -/
def motorFollowsDemand (s : State) : Prop :=
  (s.mt.runUp ≠ none → s.mt.motor = .starting)
    ∧ (s.mt.senseWindow ≠ none → s.mt.motor = .starting)
    ∧ (s.mt.faultWait ≠ none ↔ s.mt.motor = .faulted)
    ∧ (s.mt.hold ≠ none ↔ s.mt.motor = .running ∧ demandHeld s.mt = false)
    ∧ (s.mt.motor = .stopped → demandHeld s.mt = false)

/-- Held-by-me, its timer and the hold set stand only in OPEN (R82, R83, R84, R95). -/
def holdsOnlyInOpen (s : State) : Prop :=
  (s.cm.call.heldByMe = true ↔ s.cm.call.heldSince ≠ none)
    ∧ (s.cm.call.heldByMe = true → s.cm.call.state = .opened)
    ∧ (s.cm.call.holdSet ≠ [] → s.cm.call.state = .opened)

/-- A FREE view is empty and its timers stopped, a RINGING one runs its ring-wait and an ENGAGED one its silence timer
(R68); and the call holds the view: OPEN has it ENGAGED, AWAITING and RINGING not FREE (R70). -/
def callHoldsView (s : State) : Prop :=
  (s.cm.view.state = .free → s.cm.view = LineView.reset)
    ∧ (s.cm.view.state = .ringing → s.cm.view.ringWait ≠ none ∧ s.cm.view.silence = none)
    ∧ (s.cm.view.state = .engaged → s.cm.view.silence ≠ none ∧ s.cm.view.ringWait = none)
    ∧ (s.cm.call.state = .opened → s.cm.view.state = .engaged)
    ∧ (s.cm.call.state = .awaiting ∨ s.cm.call.state = .ringing → s.cm.view.state ≠ .free)

/-- The file's records stand in distinct slots with fields in range (R168), and a record is OPEN only while the call
is, which links it (R169). -/
def fileInOrder (s : State) : Prop :=
  (s.au.file.map FileRecord.slot).Nodup
    ∧ (∀ r ∈ s.au.file, 1 ≤ r.number ∧ r.number ≤ 999 ∧ r.gapCount ≤ 255)
    ∧ (1 ≤ s.au.nextNumber ∧ s.au.nextNumber ≤ 999)
    ∧ (∀ r ∈ s.au.file, r.state = .opened → s.cm.call.state = .opened ∧ s.cm.call.fileLink = some r.slot)

/-- The TEXT in the place, if there is one that the CM has not withdrawn. -/
def liveText (s : State) : Option TextPlace := s.lu.text.filter fun p => !p.withdrawn

/-- Cells of SEND are in flight, at most 48, exactly while a TEXT stands in the place, and only in OPEN (R24, R44). -/
def inFlightIsTheText (s : State) : Prop :=
  s.cs.send.inFlight ≤ 48
    ∧ (s.cs.send.inFlight ≠ 0 ↔ liveText s ≠ none)
    ∧ (liveText s ≠ none → s.cm.call.state = .opened)

/-- The blocks of a queue, in chain order. -/
def blocksOf (st : Store) (n : QueueName) : List Nat := st.chainBlocks (st.queue n).blockCount (st.queue n).head

/-- The blocks of a file chain, in chain order. -/
def blocksOfChain (st : Store) (ch : Chain) : List Nat := st.chainBlocks ch.blockCount ch.first

/-- Every block number, by where it stands: the free-block stack, the three queues, the file's chains. -/
def blocksHeld (s : State) : List Nat :=
  s.cs.free ++ blocksOf s.cs .send ++ blocksOf s.cs .print ++ blocksOf s.cs .punch
    ++ (s.au.file.map fun r => blocksOfChain s.cs r.chain).flatten

/-- A queue's record agrees with its chain: as many blocks as it counts, its head and tail the first and last of them, and
as many cells between its indexes as it counts (R15). -/
def queueInOrder (st : Store) (n : QueueName) : Prop :=
  let q := st.queue n
  (blocksOf st n).length = q.blockCount ∧ q.head = (blocksOf st n).head? ∧ q.tail = (blocksOf st n).getLast?
    ∧ q.headIndex ≤ 31 ∧ q.tailIndex ≤ 31 ∧ (q.blockCount = 0 ↔ q.cellCount = 0)
    ∧ (q.cellCount ≠ 0 → 32 * q.blockCount + q.tailIndex + 1 = q.cellCount + q.headIndex + 32)

/-- A file chain's record agrees with its blocks (R16). -/
def chainInOrder (st : Store) (ch : Chain) : Prop :=
  (blocksOfChain st ch).length = ch.blockCount ∧ ch.first = (blocksOfChain st ch).head?
    ∧ ch.last = (blocksOfChain st ch).getLast?

/-- Every one of the 128 blocks stands in exactly one place, and every chain is whole (R12 to R16, R25). -/
def blocksHaveOneHolder (s : State) : Prop :=
  (blocksHeld s).Perm (List.range 128)
    ∧ (∀ n, queueInOrder s.cs n)
    ∧ (s.au.file.map FileRecord.slot).Nodup ∧ ∀ r ∈ s.au.file, chainInOrder s.cs r.chain

/-- Before the load ends every block holds its device-reset values, but for what the release of RESET samples and starts:
the presence lines, the heat timer, the station clock (R130, R168, R179, R180). -/
def atResetUntilLoaded (s : State) : Prop :=
  loaded s = false →
    s.lu = State.reset.lu ∧ s.cm = State.reset.cm ∧ s.cs = State.reset.cs ∧ s.ku = State.reset.ku
      ∧ s.pu = { State.reset.pu with present := s.pu.present, heatTimer := s.pu.heatTimer }
      ∧ s.tu = { State.reset.tu with punchPresent := s.tu.punchPresent, readerPresent := s.tu.readerPresent }
      ∧ s.mt = State.reset.mt
      ∧ s.au = { State.reset.au with clock := s.au.clock, minuteLeft := s.au.minuteLeft }

/-- Each queue counts at most as many blocks as its limit (R15), which changes only where the load ends, with the queues
empty (R29, R184). -/
def queuesWithinLimits (s : State) : Prop :=
  (∀ n, (s.cs.queue n).blockCount ≤ (s.cs.queue n).limit) ∧ atResetUntilLoaded s

/-! ### The code -/

/-- A resolved character of the 55 of R2. -/
def Resolved.isOfCode : Resolved → Prop
  | .letter c => 3 ≤ c.toNat ∧ c.toNat ≤ 29 ∧ c.toNat ≠ 16
  | .figure c => 3 ≤ c.toNat ∧ c.toNat ≤ 29 ∧ c.toNat ≠ 16 ∧ c.toNat ≠ 26
  | _ => True

/-! ### Acceptance (R57, R58) -/

/-- The party of the call record for acceptance (R60). -/
def fromParty (s : State) (n : Station) : Prop :=
  if isGroupCaller s.cm.call then n ≠ s.cl.station else s.cm.call.partyStation = some n

/-- The table of R58, for a telegram addressed here. -/
def takesKind (s : State) (k : Kind) (t : Telegram) : Prop :=
  let own := t.destination = addrOf s.cl.station
  match k with
  | .who => True
  | .hereis => True
  | .clear => True
  | .accept => own ∧ s.cm.call.state = .awaiting ∧ fromParty s t.source
  | .refuse =>
    own ∧ fromParty s t.source
      ∧ (s.cm.call.state = .awaiting
        ∨ s.cm.call.state = .opened ∧ isIndividual s.cm.call = true
          ∧ (telegramReason t = some .noTape ∨ telegramReason t = some .readerBusy))
  | .hold => own ∧ s.cm.call.state = .opened ∧ fromParty s t.source
  | .go => own ∧ s.cm.call.state = .opened ∧ fromParty s t.source
  | .brk => own ∧ s.cm.call.state = .opened ∧ fromParty s t.source
  | .poll => own ∧ s.cm.call.state = .opened ∧ isIndividual s.cm.call = true ∧ fromParty s t.source
  | .call => False
  | .text => False

/-- A telegram of another station's is framed through Check, not yet decided. -/
def awaitsTurn (s : State) : Prop := ∃ w, s.lu.receive = .framing false w none

/-- The run of space stays below the line break through these units (R47). -/
def unbroken (units : List Bool) (s : State) : Prop := spaceRunThrough units s.lu.spaceRun < 48

/-- The LU after the Turn of another station's telegram: it stands framed, with its run, whether it is taken, and what
was decided; its units are counted in the run of space (R47). -/
def framedAs (t : Telegram) (run : List Resolved) (taken : Bool) (r : TurnResult) (s : State) : State :=
  { s with
    lu.receive := .framing false false (some ⟨t, run, taken, r⟩)
    lu.spaceRun := spaceRunThrough (framedUnits t) s.lu.spaceRun }

/-- A telegram of another station's, of kind `k`, stands framed and taken in a JOINED station on a CLEAR line, and does
not bear this station's number. -/
def holdsTaken (s : State) (k : Kind) (f : Framed) : Prop :=
  s.lu.receive = .framing false false (some f) ∧ validKind f.telegram = some k ∧ f.taken = true
    ∧ s.lu.joinState = .joined ∧ f.telegram.source ≠ s.cl.station

/-- The LU and the line view after the hand-on of a telegram framed in a JOINED station: hunting with the buffer empty and the
quiet timer at 0, the run of space gone on or ended (R47), the last telegram this station's own or not (R32, R36 to
R38), the view as the telegram leaves it (R68,
R69). The call's part of the hand-on acts on this. -/
def handedBase (own : Bool) (u : SlotUnits) (k : Kind) (f : Framed) (s : State) : State :=
  let ack := if own then s.lu.ackRead.getD (heldSpace u) else heldSpace u || f.taken
  { s with
    lu := { s.lu with
      receive := .hunting
      quiet := 0
      spaceRun := runAfterSlot u f.taken s.lu.spaceRun
      lastOwn := own
      ackRead := if own && s.lu.slot.isSome then some ack else none }
    cm.view := viewAfter s.cm.view ⟨k, f.telegram, f.run, ack, own, false, f.taken, f.result⟩ }

/-! ### The end of an attempt (R41, log 12) -/

/-- The attempt in the slot stands at its end, its ACK slot read as `ack` (R41), and `l` is the LU with the slot empty. The
two rows of that moment come in either order (log 12). ATTEMPT_END first: the telegram stands framed through its Turn,
the row's `sent` is the reading, and both it and whether the telegram was withdrawn are kept for the hand-on. The
hand-on first: the LU hunts, and the reading it kept is used, whatever the row says. -/
def attemptEnds (s : State) (sent ack withdrawn : Bool) (l : LineUnit) : Prop :=
  (∃ w f, s.lu.ackRead = none ∧ s.lu.receive = .framing true w (some f) ∧ sent = ack
      ∧ l = { s.lu with slot := none, ackRead := some ack, receive := .framing true withdrawn (some f) })
    ∨ (s.lu.ackRead = some ack ∧ s.lu.receive = .hunting ∧ l = { s.lu with slot := none, ackRead := none })

/-- The control list once the requester of a kind has withdrawn: its entry in the slot is marked, with nothing beside it, and
one outside the slot is gone (R43). -/
def listWithdrawn (k : Kind) (s : State) : List ControlEntry :=
  if s.lu.slot.map Slot.source = some (.control k) then
    s.lu.control.map fun e => if e.content.kind = k then { e with withdrawn := true, beside := none } else e
  else s.lu.control.filter fun e => e.content.kind ≠ k

/-! ### Notices in PRINT (R26, R109, R134) -/

/-- PRINT holds this run after what it held, where the printer is present and the run passes the space check, in a store with
one holder for each block. What follows it there is not said. -/
def prints (s t : State) (run : List Cell) : Prop :=
  s.pu.present = true → s.cs.spaceCheck .print .mayUse run = true → blocksHaveOneHolder s →
    s.cs.queueCells .print ++ run <+: t.cs.queueCells .print

/-- What leaving OPEN puts in PRINT before any notice of its cause: LINE DISCARDED where the edit stack holds a character,
END where PRINT's mark is present (R26, R95, R109). -/
def leavingRun (s : State) : List Cell :=
  (if s.ku.editStack = [] then [] else Notice.lineDiscarded.run)
    ++ match s.cs.print.openMark with
      | some n => [.boundary .finish n]
      | none => []

/-- The notice with which the record leaves its state stands in PRINT (R95, R134): in leaving OPEN after `leavingRun`, where
PUNCH's END (R26) takes no block from it. -/
def printsAtEnd (s t : State) (run : List Cell) : Prop :=
  if s.cm.call.state = .opened then
    (∀ n, s.cs.punch.openMark = some n → s.cs.punch.blocksNeeded [.boundary .finish n] = 0) →
      prints s t (leavingRun s ++ run)
  else prints s t run

/-! ### What a load hands out (R184) -/

/-- The configuration load has ended in `t` with these values and inputs (R157, R159, R162, R184). -/
def handedOut (ld : Loaded) (inputs : InputLines) (t : State) : Prop :=
  t.cl.config = ld.config ∧ t.cl.loadLeft = none
    ∧ t.cs.send.limit = ld.limits.send ∧ t.cs.print.limit = ld.limits.print ∧ t.cs.punch.limit = ld.limits.punch
    ∧ t.pu.paper = supplyOf inputs.paperFirst inputs.paperSecond
    ∧ t.tu.tape = supplyOf inputs.tapeFirst inputs.tapeSecond
    ∧ t.tu.tapeIn = isHigh inputs.tapeIn
    ∧ t.au.attendance =
        attendanceOf (match auxInput .attendSwitch ld.config with
          | some i => isHigh inputs.aux[i]
          | none => ld.config.defaultAttended)
    ∧ t.lu.joinState = .listen ∧ t.lu.quiet = 0 ∧ t.lu.listenWindow = some (sec 30)

end Sys2Proof.Machine
end

