-- ==== Sys2Proof/Certificates/Slice0/Obligations.lean ====
section
/-!
DEFINITION. The statements for the provers. A next state is written as an equation wherever the spec gives all of it:
`elapse left s` is the state when a timer's time has passed, and `settle` what follows every act (SettleActsOnDemandOnly,
TextIsFormed); all that the equation does not name is then unchanged. The moment of both is the model's: log 1 for
`elapse` (an expiry lets the time its timer has left pass), logs 7 and 11 for `settle`.
-/

section Statements

open Sys2Proof Sys2Proof.Machine

/-! ### The step -/

/-- The command at the front of the queue is run on the state with the queue's rest. -/
def Obligations.StepRunsTheFrontCommand : Prop :=
  ∀ (c : Instr) (s : State), step { s with pending := c :: s.pending } = exec c s

/-- Every command answers a next state, and leaves the queue alone (in a state in which its event cannot occur it
changes nothing, log 2); an empty queue lets one tick pass (the model's choice, log 1). -/
def Obligations.EveryCommandCompletes : Prop :=
  (∀ (c : Instr) (s : State), ∃ t, exec c s = .next t ∧ t.pending = s.pending)
    ∧ ∀ s : State, s.pending = [] → step s = .next (elapse 1 s)

/-- Time moves timers and counts of time only, each by the time that passes, and nothing at all while RESET is low
(R179): a timer that runs loses it, a retry's wait and a ready retry's count move with it (R38, R42), the quiet timer
counts what of it is at mark while the LU hunts (R32; in BROKEN too, log 40), the mark count while the line is BROKEN
(R48), the listen window while it is CLEAR (R50), and time at mark ends a run of space (R47): the line is at mark once
the space unit read last has ended. That unit's rest, the time since a framed telegram's Start (log 17), and the tick
(log 1) are the model's choices. -/
def Obligations.TimeMovesTimersOnly : Prop :=
  ∀ (d : Tick) (s : State),
    let down (t : Option Tick) : Option Tick := t.map fun left => left - d
    let phase (p : Option Phase) : Option Phase := p.map fun x => ⟨x.on, x.left - d⟩
    let wait : Readiness → Readiness
      | .ready => .ready
      | .retryReady since => .retryReady (since + d)
      | .waiting left => .waiting (left - d)
    let hunting := s.lu.joinState ≠ .offline ∧ s.lu.receive = .hunting
    (s.cl.resetLow = true → elapse d s = s)
      ∧ (s.cl.resetLow = false →
          elapse d s =
            { s with
              lu := { s.lu with
                quiet := if hunting then s.lu.quiet + (d - s.lu.spaceLeft) else s.lu.quiet
                markRun := if s.lu.condition = .broken then s.lu.markRun + (d - s.lu.spaceLeft) else s.lu.markRun
                spaceRun := if hunting ∧ s.lu.spaceLeft < d then 0 else s.lu.spaceRun
                spaceLeft := s.lu.spaceLeft - d
                frameTime := if s.lu.receive = .hunting then s.lu.frameTime else s.lu.frameTime + d
                listenWindow := if s.lu.condition = .clear then down s.lu.listenWindow else s.lu.listenWindow
                probeWait := down s.lu.probeWait
                control := s.lu.control.map fun e => { e with readiness := wait e.readiness }
                text := s.lu.text.map fun p => { p with readiness := wait p.readiness } }
              cm := { s.cm with
                view.ringWait := down s.cm.view.ringWait
                view.silence := down s.cm.view.silence
                call.holdSet := s.cm.call.holdSet.map fun h => ⟨h.station, h.left - d⟩
                call.heldSince := down s.cm.call.heldSince
                sendTimer := match s.cm.sendTimer with | .running left => .running (left - d) | x => x
                breakTimer := down s.cm.breakTimer }
              pu := { s.pu with opLeft := s.pu.opLeft - d, heatTimer := down s.pu.heatTimer }
              tu := { s.tu with
                punchLeft := s.tu.punchLeft - d
                cycle := s.tu.cycle.map fun c => { c with left := c.left - d } }
              mt := { s.mt with
                runUp := down s.mt.runUp
                senseWindow := down s.mt.senseWindow
                hold := down s.mt.hold
                faultWait := down s.mt.faultWait
                pulses := s.mt.pulses.map fun p => { p with left := p.left - d }
                cadence := phase s.mt.cadence
                flash := phase s.mt.flash }
              au := { s.au with
                attendTimer := down s.au.attendTimer
                ringTimer := down s.au.ringTimer
                minuteLeft := down s.au.minuteLeft }
              cl.loadLeft := down s.cl.loadLeft })

/-- What follows every act (at its end: logs 7 and 11): nothing before the load ends; then a TEXT may be formed
(TextIsFormed), the demands stand as they are, and the motor acts on their beginning or ending, in STARTING and FAULTED
not at all (R152 to R155); nothing else changes. -/
def Obligations.SettleActsOnDemandOnly : Prop :=
  ∀ s : State,
    (loaded s = false → settle s = s)
      ∧ (loaded s = true →
          let t := settle s
          let f := formText s
          t.lu = f.lu ∧ t.cm = f.cm ∧ t.cs = f.cs ∧ t.ku = s.ku ∧ t.pu = s.pu ∧ t.tu = s.tu ∧ t.au = s.au ∧ t.cl = s.cl
            ∧ t.pending = s.pending
            ∧ (t.mt.printerDemand = true ↔
                s.pu.present = true ∧ s.pu.paper ≠ .out
                  ∧ (s.pu.op ≠ none ∨ s.pu.work ≠ none ∨ choose s ≠ none))
            ∧ (t.mt.punchDemand = true ↔
                s.tu.punchPresent = true ∧ s.tu.tape ≠ .out
                  ∧ (s.tu.punchOp ≠ none ∨ s.tu.punchWork ≠ none ∨ s.cs.punch.cellCount ≠ 0))
            ∧ (t.mt.readerDemand = true ↔ (∃ r, s.tu.run = some r ∧ r.state = .running) ∨ s.tu.cycle ≠ none)
            ∧ t.mt.pulses = s.mt.pulses ∧ t.mt.cadence = s.mt.cadence ∧ t.mt.flash = s.mt.flash
            ∧ t.mt.faultWait = (if s.mt.motor = .stopped ∧ t.mt.motor = .starting then none else s.mt.faultWait)
            ∧ t.mt.senseRunning = s.mt.senseRunning ∧ t.mt.switchAttended = s.mt.switchAttended
            ∧ (s.mt.motor = .stopped → demandHeld s.mt = false → demandHeld t.mt = true →
                t.mt.motor = .starting ∧ t.mt.runUp = some (ms 400) ∧ t.mt.hold = none
                  ∧ t.mt.senseWindow = (if senseAssigned s then some (sec 2) else none))
            ∧ (s.mt.motor = .running → demandHeld s.mt = false → demandHeld t.mt = true →
                t.mt.motor = .running ∧ t.mt.hold = none ∧ t.mt.runUp = s.mt.runUp ∧ t.mt.senseWindow = s.mt.senseWindow)
            ∧ (s.mt.motor = .running → demandHeld s.mt = true → demandHeld t.mt = false →
                t.mt.motor = .running ∧ t.mt.hold = some (sec s.cl.config.motorHold) ∧ t.mt.runUp = s.mt.runUp
                  ∧ t.mt.senseWindow = s.mt.senseWindow)
            ∧ (demandHeld s.mt = demandHeld t.mt ∨ s.mt.motor = .starting ∨ s.mt.motor = .faulted
                  ∨ s.mt.motor = .stopped ∧ demandHeld s.mt = true →
                t.mt.motor = s.mt.motor ∧ t.mt.hold = s.mt.hold ∧ t.mt.runUp = s.mt.runUp
                  ∧ t.mt.senseWindow = s.mt.senseWindow))

/-- A TEXT is formed when the place and the slot are empty, the line CLEAR, no control entry ready, the CM permits it,
nothing is in flight, and the unsent cells are ready to go; it takes from the head of SEND while the encoded length
stays at or below 48 (R24, R44, R45, R79, R80). That it is formed at once and waits in the place is log 7's reading. -/
def Obligations.TextIsFormed : Prop :=
  ∀ s : State,
    let u := unsentChars s
    let can :=
      s.lu.text = none ∧ s.lu.slot = none ∧ s.lu.condition = .clear ∧ s.lu.restartClear = false
        ∧ (∀ e ∈ s.lu.control, e.readiness.isReady = false)
        ∧ s.lu.joinState = .joined ∧ s.cm.call.state = .opened
        ∧ (s.cm.call.role = some .caller ∨ s.cm.call.role = some .called)
        ∧ s.cm.call.holdSet = [] ∧ s.cs.send.inFlight = 0
        ∧ u ≠ [] ∧ (48 ≤ encodedLength (unshift s) u ∨ .cr ∈ u ∨ s.cm.sendTimer = .expired)
    (¬ can → formText s = s)
      ∧ (can → ∃ n, 1 ≤ n ∧ n ≤ u.length
          ∧ encodedLength (unshift s) (u.take n) ≤ 48
          ∧ (n < u.length → 48 < encodedLength (unshift s) (u.take (n + 1)))
          ∧ formText s =
              { s with
                cs.send.inFlight := n
                cm.sendTimer := if n = u.length then .stopped else s.cm.sendTimer
                lu.text := some ⟨s.cm.call.partyAddr, s.cm.call.sendSeq, lineSend (unshift s) (u.take n), 0, 0,
                  .ready, false⟩ })

/-! ### Invariants -/

/-- Every step keeps the store's lists in canonical form, and each queue's block count within its limit (R15); with it, that
every block holds its device-reset values until the load has ended, so that the limits come to empty queues (R29, R179). -/
def Obligations.StoreStaysCanonical : Prop := (StepKeeps storeCanonical) ∧ StepKeeps queuesWithinLimits

/-- Every step keeps the keyboard within its bounds, and the edit stack empty outside an OPEN call in LINE mode (R98,
R100, R107, R110). -/
def Obligations.KeyboardStaysInBounds : Prop :=
  (StepKeeps keyboardBounds)
    ∧ (StepKeeps editOnlyInLineCall)

/-- Every step keeps the heat count and the throttle in agreement. -/
def Obligations.HeatStaysInRange : Prop := StepKeeps heatInRange

/-- Every step keeps ringing, its timer, its cadence and the CALL lamp's flash with RINGING. -/
def Obligations.RingFollowsTheRecord : Prop := StepKeeps ringFollowsRecord

/-- Every step keeps the motor's timers with its state and its demand. -/
def Obligations.MotorFollowsDemand : Prop := StepKeeps motorFollowsDemand

/-- Every step keeps held-by-me and the hold set within OPEN, and the line view with the call that holds it. -/
def Obligations.CallHoldsTheView : Prop := (StepKeeps holdsOnlyInOpen) ∧ (StepKeeps callHoldsView)

/-- Every step keeps the message file in order, its OPEN record with the OPEN call. -/
def Obligations.FileStaysInOrder : Prop := StepKeeps fileInOrder

/-- Every step keeps the in-flight cells of SEND with the TEXT in the place. -/
def Obligations.InFlightIsTheText : Prop := StepKeeps inFlightIsTheText

/-- Every step keeps every block in exactly one place: the free stack, a queue or a file chain (R12 to R16, R25). -/
def Obligations.BlocksHaveOneHolder : Prop := StepKeeps blocksHaveOneHolder

/-- The machine right after device reset meets the twelve invariants. -/
def Obligations.ResetMeetsTheInvariants : Prop :=
  storeCanonical State.reset ∧ keyboardBounds State.reset ∧ editOnlyInLineCall State.reset ∧ heatInRange State.reset
    ∧ ringFollowsRecord State.reset ∧ motorFollowsDemand State.reset ∧ holdsOnlyInOpen State.reset
    ∧ callHoldsView State.reset ∧ fileInOrder State.reset ∧ inFlightIsTheText State.reset
    ∧ blocksHaveOneHolder State.reset ∧ queuesWithinLimits State.reset

/-- The station number and the configuration are read once, at device reset and its load: no other command changes
them, the load's outcome, or a queue's limit (R10, R15, R179, R185); nor the load's timer, which has stopped (R180). -/
def Obligations.ConfigurationIsReadOnce : Prop :=
  ∀ (c : Instr) (s t : State), loaded s = true → c ≠ .resetAssert → exec c s = .next t →
    t.cl.station = s.cl.station ∧ t.cl.config = s.cl.config ∧ t.cl.load = s.cl.load ∧ t.cl.fault = s.cl.fault
      ∧ t.cl.resetLow = s.cl.resetLow ∧ (s.cl.loadLeft = none → t.cl = s.cl)
      ∧ t.cs.send.limit = s.cs.send.limit ∧ t.cs.print.limit = s.cs.print.limit
      ∧ t.cs.punch.limit = s.cs.punch.limit

/-! ### Code, telegrams, windows -/

/-- What line send generates, line receive resolves to the same characters, in either setting of unshift-on-space; and
n characters cost n to 2n codes (R5, R8, R9). -/
def Obligations.LineCodeRoundTrip : Prop :=
  ∀ (u : Bool) (rs : List Resolved), (∀ r ∈ rs, Resolved.isOfCode r) →
    lineResolve u (lineSend u rs) = rs
      ∧ rs.length ≤ encodedLength u rs ∧ encodedLength u rs ≤ 2 * rs.length

/-- The check makes the telegram sum to 0 modulo 256; no other value does; and a sum that is not a multiple of 256 makes
the telegram malformed. Station 12's HOLD to station 5 has sum 24 and check 232. -/
def Obligations.CheckMakesTheSumZero : Prop :=
  (∀ t : Telegram,
    (checkSum t = t.precedence.toNat + t.source.toNat + t.kind.toNat + t.sequence.toNat + t.destination.toNat
      + t.length.toNat + (t.text.map BitVec.toNat).sum)
      ∧ (checkSum t + (checkFor t).toNat) % 256 = 0
      ∧ (∀ b : Byte, (checkSum t + b.toNat) % 256 = 0 → b = checkFor t)
      ∧ ((checkSum t + t.check.toNat) % 256 ≠ 0 → validKind t = none))
    ∧ (∀ (k : Kind) (n : Station) (q : Seq) (d : Addr) (text : List Code),
        (makeTelegram k n q d text).check = checkFor (makeTelegram k n q d text))
    ∧ checkSum (makeTelegram .hold 12 0 5 []) = 24 ∧ (makeTelegram .hold 12 0 5 []).check = 232

/-- Every telegram this station makes within its kind's layout is valid, and reads back as its kind, with every field
as given (R33 to R35). -/
def Obligations.SentTelegramsAreValid : Prop :=
  ∀ (k : Kind) (n : Station) (q : Seq) (d : Addr) (text : List Code),
    (k = .text ∨ q = 0) → (k = .who ∨ d ≠ addrOf n) → lengthAllowed k text.length = true → textAllowed k text = true →
    let t := makeTelegram k n q d text
    validKind t = some k ∧ t.precedence = (if k = .text then 2 else if k = .brk then 0 else 1)
      ∧ t.source = n ∧ t.sequence = q ∧ t.destination = d ∧ t.length.toNat = text.length ∧ t.text = text

/-- A destination matches an enabled window where it agrees with the base in every unit the mask selects; the own number
is W0's, a group or all-call address the lowest matching of W1 to W7's, and any other address is not addressed here. -/
def Obligations.WindowThatApplies : Prop :=
  (∀ (w : Window) (d : Addr),
    Window.matches w d = true ↔
      w.enabled = true ∧ ∀ i : Fin 6, w.mask[i] = true → d[i] = w.base[i])
    ∧ ∀ (s : State) (d : Addr),
        (d = addrOf s.cl.station → windowFor s d = some 0)
          ∧ (d ≠ addrOf s.cl.station → d.toNat < 32 → windowFor s d = none)
          ∧ (32 ≤ d.toNat →
              (∀ i : Fin 8, windowFor s d = some i ↔
                i ≠ 0 ∧ Window.matches s.cl.config.windows[i] d = true
                  ∧ ∀ j : Fin 8, j ≠ 0 → j < i → Window.matches s.cl.config.windows[j] d = false)
                ∧ (windowFor s d = none ↔
                  ∀ i : Fin 8, i ≠ 0 → Window.matches s.cl.config.windows[i] d = false))

/-- The effective destinations of a TEXT, in an ATTENDED station (R62) and in an UNATTENDED one (R63), among those that
are available (R61, R120, R138); the HOLD-level and the GO-level (R28); and what the CM's test of them does in an OPEN
call of one with a talking party: HOLD asked for and held-by-me set at the first, GO and held-by-me cleared at the
second (R83, R84). -/
def Obligations.EffectiveDestinations : Prop :=
  (∀ s : State, s.au.attendance = .attended →
      ((effective s).print = true ↔ s.cm.call.route.print = true ∧ printerAvailable s = true)
        ∧ ((effective s).file = true ↔
            s.cm.call.route.file = true ∧ fileAvailable s = true ∧ (effective s).print = false)
        ∧ ((effective s).punch = true ↔ s.cm.call.route.punch = true ∧ punchAvailable s = true))
    ∧ (∀ s : State, s.au.attendance = .unattended →
      ((effective s).file = true ↔ s.cm.call.route.file = true ∧ fileAvailable s = true)
        ∧ ((effective s).print = true ↔
            s.cm.call.route.print = true ∧ printerAvailable s = true ∧ s.cm.call.route.file = false)
        ∧ ((effective s).punch = true ↔ s.cm.call.route.punch = true ∧ punchAvailable s = true))
    ∧ (∀ s : State,
      (printerAvailable s = true ↔ s.pu.present = true ∧ s.pu.paper ≠ .out ∧ s.mt.motor ≠ .faulted)
        ∧ (punchAvailable s = true ↔ s.tu.punchPresent = true ∧ s.tu.tape ≠ .out ∧ s.mt.motor ≠ .faulted)
        ∧ (fileAvailable s = true ↔
            s.cm.call.fileLink ≠ none
              ∨ (∀ r ∈ s.au.file, r.state ≠ .opened)
                ∧ (s.au.file.length < 24 ∨ ∃ r ∈ s.au.file, r.state ≠ .opened ∧ r.printed = true)))
    ∧ ∀ s : State,
      let r := s.cm.call.route
      let hold :=
        s.cs.free.length ≤ 12 ∨ r.print = true ∧ s.cs.print.limit ≤ s.cs.print.blockCount + 2
          ∨ r.punch = true ∧ s.cs.punch.limit ≤ s.cs.punch.blockCount + 2
      let go :=
        20 ≤ s.cs.free.length ∧ (r.print = true → s.cs.print.blockCount + 4 ≤ s.cs.print.limit)
          ∧ (r.punch = true → s.cs.punch.blockCount + 4 ≤ s.cs.punch.limit)
          ∧ (r.print = true ∧ printerAvailable s = true ∨ r.punch = true ∧ punchAvailable s = true
            ∨ r.file = true ∧ fileAvailable s = true)
      let party := match s.cm.call.partyStation with | some n => addrOf n | none => s.cm.call.partyAddr
      let asked (k : Kind) : LineUnit :=
        if s.lu.joinState = .joined ∧ s.lu.restartClear = false then
          enterRequest ⟨k, party, [], .cm, s.cl.config.retryLimit⟩ s.lu
        else s.lu
      (holdLevel s = true ↔ hold) ∧ (goLevel s = true ↔ go)
        ∧ (s.cm.call.state ≠ .opened ∨ isGroupCaller s.cm.call = true → flowTest s = s)
        ∧ (s.cm.call.state = .opened → isGroupCaller s.cm.call = false →
            flowTest s =
              if hold ∧ s.cm.call.heldByMe = false then
                { s with lu := asked .hold, cm.call.heldByMe := true, cm.call.heldSince := some (sec 120) }
              else if ¬ hold ∧ go ∧ s.cm.call.heldByMe = true then
                { s with lu := asked .go, cm.call.heldByMe := false, cm.call.heldSince := none }
              else s)

/-- A run appended: it passes where the queue's limit and the reserve of its class allow it (R15, R18, R19), goes in
whole after the newest cell (R17), takes its blocks from the top of the free stack, and gives a block-taken event (the
flow test) exactly where it took one (R27); a run to a SEND with no unsent cell starts the send timer at 400 ms, any
other leaves it (R79). A notice is LF, its text, CR, LF with origin NOTICE, appended to PRINT with class MAY USE where
the printer is PRESENT, dropped where that is refused, discarded where the printer is ABSENT (R20, R134). What the
store holds, in a store whose blocks have one holder each (BlocksHaveOneHolder): an append adds the run to its queue's
cells; a removal takes the oldest cell, and the block it empties, at position 31 or with the queue's last cell, goes on
top of the free stack at once (R23); a flush of a queue takes all and stacks the blocks in the order it reaches them,
and so does the deletion of a record's chain (R25); no other queue or chain changes. -/
def Obligations.AppendPassesTheSpaceCheck : Prop :=
  (∀ (n : QueueName) (c : ReserveClass) (run : List Cell) (s : State),
    let q := s.cs.queue n
    let room := match q.tail with | some _ => 31 - q.tailIndex | none => 0
    let needed := if run.length ≤ room then 0 else (run.length - room + 31) / 32
    let passes :=
      q.blockCount + needed ≤ q.limit
        ∧ (needed = 0 ∨ needed + (match c with | .respect => 5 | .mayUse => 0) ≤ s.cs.free.length)
    (¬ passes → appendRun n c run s = none)
      ∧ (passes →
          let t : State :=
            { s with
              cs := s.cs.pushRun n run
              cm.sendTimer :=
                if n = .send ∧ run ≠ [] ∧ s.cs.send.cellCount ≤ s.cs.send.inFlight then .running (ms 400)
                else s.cm.sendTimer }
          appendRun n c run s = some (if needed = 0 then t else flowTest t)
            ∧ (t.cs.queue n).cellCount = q.cellCount + run.length
            ∧ (t.cs.queue n).blockCount = q.blockCount + needed
            ∧ t.cs.free = s.cs.free.drop needed
            ∧ (blocksHaveOneHolder s →
                t.cs.queueCells n = s.cs.queueCells n ++ run
                  ∧ (∀ m, m ≠ n → t.cs.queueCells m = s.cs.queueCells m)
                  ∧ ∀ r ∈ s.au.file, ∀ i, t.cs.chainCell r.chain i = s.cs.chainCell r.chain i)))
    ∧ (∀ (n : Notice) (s : State),
      n.run = (Resolved.lf :: (n.text ++ [.cr, .lf])).map (fun r => Cell.character r .notice)
        ∧ (s.pu.present = false → notice n s = s)
        ∧ (s.pu.present = true → notice n s = (appendRun .print .mayUse n.run s).getD s))
    ∧ ∀ (n : QueueName) (s : State), blocksHaveOneHolder s →
      let q := s.cs.queue n
      let popped := s.cs.popCell n
      let flushed := s.cs.flushQueue n
      (∀ c, s.cs.headCell n = some c →
          let emptied := q.headIndex = 31 ∨ q.cellCount = 1
          s.cs.queueCells n = c :: popped.queueCells n
            ∧ (popped.queue n).cellCount = q.cellCount - 1
            ∧ (popped.queue n).blockCount = (if emptied then q.blockCount - 1 else q.blockCount)
            ∧ popped.free = (if emptied then q.head.toList ++ s.cs.free else s.cs.free))
        ∧ flushed.queueCells n = [] ∧ (flushed.queue n).cellCount = 0 ∧ (flushed.queue n).blockCount = 0
        ∧ (flushed.queue n).inFlight = 0 ∧ flushed.free = (blocksOf s.cs n).reverse ++ s.cs.free
        ∧ (∀ m, m ≠ n →
            popped.queueCells m = s.cs.queueCells m ∧ flushed.queueCells m = s.cs.queueCells m)
        ∧ (∀ r ∈ s.au.file, ∀ i,
            popped.chainCell r.chain i = s.cs.chainCell r.chain i
              ∧ flushed.chainCell r.chain i = s.cs.chainCell r.chain i)
        ∧ ∀ r ∈ s.au.file,
            let gone := s.cs.flushChain r.chain
            gone.free = (blocksOfChain s.cs r.chain).reverse ++ s.cs.free
              ∧ (∀ m, gone.queueCells m = s.cs.queueCells m)
              ∧ ∀ x ∈ s.au.file, x.slot ≠ r.slot → ∀ i, gone.chainCell x.chain i = s.cs.chainCell x.chain i

/-! ### Device reset and the load -/

/-- Device reset (R179). RESET taken low: the machine is State.reset, its queue kept, every block at its device-reset
values, the spec's (where it gives none, log 4's); those it gives are listed (R13, R29, R49, R68, R71, R97, R117, R135,
R151, R152, R156, R165, R168, R172, R178). RESET released: the straps and the presence lines are sampled, the load
begins, and with it the heat timer, the station clock and the load timeout (R130, R168, R180). -/
def Obligations.DeviceReset : Prop :=
  (∀ s : State, exec .resetAssert s = .next { State.reset with pending := s.pending })
    ∧ (∀ s : State, ∃ t, exec .resetAssert s = .next t ∧ t.pending = s.pending
      ∧ t.cl.resetLow = true
      ∧ t.lu.joinState = .offline ∧ t.lu.condition = .clear ∧ t.lu.receive = .hunting ∧ t.lu.slot = none
      ∧ t.lu.control = [] ∧ t.lu.text = none ∧ t.lu.probeCount = 0 ∧ t.lu.probeCollisions = 0
      ∧ t.lu.quiet = 0 ∧ t.lu.lastOwn = false ∧ t.lu.spaceRun = 0 ∧ t.lu.markRun = 0
      ∧ t.cm.view = LineView.reset ∧ t.cm.call.state = .idle ∧ t.cm.call.role = none ∧ t.cm.call.holdSet = []
      ∧ t.cm.call.heldByMe = false ∧ t.cm.sendTimer = .stopped ∧ t.cm.breakTimer = none
      ∧ t.cs.cells = [] ∧ t.cs.links = [] ∧ t.cs.free = List.range 128
      ∧ (∀ n, (t.cs.queue n).cellCount = 0 ∧ (t.cs.queue n).blockCount = 0 ∧ (t.cs.queue n).openMark = none
          ∧ (t.cs.queue n).head = none ∧ (t.cs.queue n).tail = none ∧ (t.cs.queue n).inFlight = 0)
      ∧ t.ku.scan = List.replicate 64 ⟨.up, 0⟩ ∧ t.ku.fifo = [] ∧ t.ku.case = .ltrs ∧ t.ku.mode = .localMode
      ∧ t.ku.editStack = [] ∧ t.ku.dial = []
      ∧ t.pu.column = none ∧ t.pu.shift = none ∧ t.pu.lastOrigin = none ∧ t.pu.source = .queue ∧ t.pu.op = none
      ∧ t.pu.lastOp = none ∧ t.pu.work = none ∧ t.pu.heat = 0 ∧ t.pu.throttle = false
      ∧ t.tu.punchShift = none ∧ t.tu.punchOp = none ∧ t.tu.punchWork = none ∧ t.tu.run = none ∧ t.tu.cycle = none
      ∧ t.mt.motor = .stopped ∧ t.mt.runUp = none ∧ t.mt.senseWindow = none ∧ t.mt.hold = none ∧ t.mt.faultWait = none
      ∧ bellOutput t = false ∧ motorPin t = false ∧ (∀ i, auxTerminal t i = some false)
      ∧ t.au.pending = none ∧ t.au.ring = .none ∧ t.au.ringTimer = none ∧ t.au.autoAnswered = false ∧ t.au.clock = 0
      ∧ t.au.nextNumber = 1 ∧ t.au.file = [] ∧ t.au.cursor = none)
    ∧ (∀ (straps : Station) (lines : PresenceLines) (s : State), s.cl.resetLow = true →
      exec (.resetRelease straps lines) s =
        .next
          { s with
            cl := { s.cl with
              resetLow := false, load := .loading, fault := false, loadLeft := some (ms 100), station := straps }
            pu.present := isHigh lines.printer
            pu.heatTimer := some (ms 100)
            tu.punchPresent := isHigh lines.punch
            tu.readerPresent := isHigh lines.reader
            au.minuteLeft := some (minutes 1) })

/-- The load ends, by a complete read, by no acknowledge, or by its timeout: a valid image's values are handed out with
the status DONE; otherwise the whole default set, with FAILED and the fault flag; the LU goes to LISTEN (R180 to R184).
-/
def Obligations.LoadEnds : Prop :=
  ∀ (image : List Byte) (inputs : InputLines) (s : State),
    s.cl.resetLow = false → s.cl.load = .loading → s.cm.call.state = .idle →
    (∀ ld, loadImage s.cl.station image = some ld →
      ∃ t, exec (.configReadDone image inputs) s = .next t ∧ t.cl.load = .done ∧ t.cl.fault = false
        ∧ t.cl.station = s.cl.station ∧ handedOut ld inputs t)
      ∧ (∀ c : Instr,
          (c = .configReadDone image inputs ∧ loadImage s.cl.station image = none
            ∨ c = .configNoAck inputs
            ∨ c = .configLoadTimeout inputs ∧ s.cl.loadLeft ≠ none) →
          ∃ t, exec c s = .next t ∧ t.cl.load = .failed ∧ t.cl.fault = true ∧ faultLamp t = true
            ∧ t.cl.station = s.cl.station ∧ handedOut (loadDefaults s.cl.station) inputs t)

/-- An image is valid exactly where the tests of R182 hold: 61 bytes, signature, sum, and every range of the layout
table of R180, AUX bytes (R157), answerback bytes (R181) and window flags included; and the values a valid one gives
(R180, R181). -/
def Obligations.ImageIsValidWhole : Prop :=
  ∀ (n : Station) (image : List Byte),
    let b := byteAt image
    let bit (i k : Nat) : Bool := (image.getD i 0).getLsbD k
    let char (i : Nat) : Option Resolved := answerbackChar (image.getD (18 + i) 0)
    let answers (k : Nat) := 1 ≤ k ∧ k ≤ 20 ∧ (∀ i, i < k → char i ≠ none) ∧ (k = 20 ∨ image.getD (18 + k) 0 = 0)
    (loadImage n image ≠ none ↔
        image.length = 61 ∧ b 0 = 0xA5 ∧ b 1 = 0x3C ∧ (image.map BitVec.toNat).sum % 256 = 0
          ∧ b 2 ≤ 3 ∧ 40 ≤ b 4 ∧ b 4 ≤ 80 ∧ 2 ≤ b 5 ∧ b 5 ≤ 120 ∧ b 6 ≤ 60 ∧ b 7 ≤ 1 ∧ 1 ≤ b 8 ∧ b 8 ≤ 7
          ∧ 4 ≤ b 9 ∧ b 9 ≤ 32 ∧ 8 ≤ b 10 ∧ b 10 ≤ 96 ∧ 8 ≤ b 11 ∧ b 11 ≤ 96
          ∧ (∀ i : Fin 6, b (12 + i) ≤ 11)
          ∧ (∃ k, answers k)
          ∧ b 38 < 16
          ∧ ∀ i : Fin 8, i ≠ 0 → b (36 + 3 * i) ≤ 63 ∧ b (37 + 3 * i) ≤ 63 ∧ b (38 + 3 * i) % 128 < 16)
      ∧ (∀ ld, loadImage n image = some ld →
          let c := ld.config
          c.rate.unit = 40 / 2 ^ b 2
            ∧ c.edit = bit 3 7 ∧ c.unshiftOnSpace = bit 3 6 ∧ c.wrap = bit 3 5 ∧ c.originSeparation = bit 3 4
            ∧ c.keepPrinted = bit 3 3 ∧ c.autoReplay = bit 3 2 ∧ c.tapeEcho = bit 3 1 ∧ c.autoWho = bit 3 0
            ∧ c.width = b 4 ∧ c.motorHold = b 5 ∧ c.attendTimeout = b 6
            ∧ (c.defaultAttended = true ↔ b 7 = 1) ∧ c.retryLimit = b 8
            ∧ ld.limits = ⟨b 9, b 10, b 11⟩
            ∧ (∀ i : Fin 6,
                [AuxFn.unused, .bell, .callLamp, .engagedLamp, .fileLamp, .faultLamp, .attendedLamp, .tapeLowLamp,
                  .paperLowLamp, .motorSense, .attendSwitch, .runLamp][b (12 + i)]? = some c.aux[i])
            ∧ (∀ k, answers k → c.answerback.map some = (List.range k).map char)
            ∧ 1 ≤ c.answerback.length ∧ c.answerback.length ≤ 20 ∧ (∀ r ∈ c.answerback, Resolved.isOfCode r)
            ∧ c.windows[0] = ⟨true, addrOf n, 63, ⟨bit 38 0, bit 38 1, bit 38 2⟩, bit 38 3⟩
            ∧ ∀ i : Fin 8, i ≠ 0 →
                c.windows[i] =
                  ⟨bit (38 + 3 * i) 7, BitVec.ofNat 6 (b (36 + 3 * i)), BitVec.ofNat 6 (b (37 + 3 * i)),
                    ⟨bit (38 + 3 * i) 0, bit (38 + 3 * i) 1, bit (38 + 3 * i) 2⟩, bit (38 + 3 * i) 3⟩)
      ∧ (∀ c : Code, 3 ≤ c.toNat → c.toNat ≤ 29 → c.toNat ≠ 16 →
          answerbackChar (BitVec.ofNat 8 (0x20 + c.toNat)) = some (.letter c)
            ∧ answerbackChar (BitVec.ofNat 8 (0x40 + c.toNat)) = some (if c.toNat = 26 then .bell else .figure c))
      ∧ answerbackChar 0x01 = some .cr ∧ answerbackChar 0x02 = some .lf ∧ answerbackChar 0x10 = some .space
      ∧ ∀ x : Byte, answerbackChar x ≠ none →
          x = 0x01 ∨ x = 0x02 ∨ x = 0x10
            ∨ ∃ c : Code, 3 ≤ c.toNat ∧ c.toNat ≤ 29 ∧ c.toNat ≠ 16 ∧ (x.toNat = 0x20 + c.toNat ∨ x.toNat = 0x40 + c.toNat)

/-! ### Joining the line and receiving -/

/-- The three waits of joining: 2 s of quiet ends LISTEN, the listen window prints LINE FAULT and starts again, the
wait before the next probe ends (R50, R51). A space read in HUNTING sets the quiet timer to 0, and is a Start where the
timer had reached 8 u (R32, R36); the 48th of a run of space brings the break (R47). A malformed telegram is discarded,
and nothing is handed on (R35, R36); its units are counted, one after another, and those it ends with go on as a run
(R47). Which events the run is counted by is log 17's, and that the space unit read last is of one unit time, in which
the line is not yet at mark. -/
def Obligations.JoiningAndHunting : Prop :=
  (∀ s : State, loaded s = true →
      (s.lu.joinState = .listen → s.lu.condition = .clear → s.lu.receive = .hunting →
        exec .listenQuietExpiry s =
          .next (settle
            { elapse (if sec 2 ≤ s.lu.quiet then 0 else s.lu.spaceLeft + (sec 2 - s.lu.quiet)) s with
              lu.joinState := .probe
              lu.probeCount := 0
              lu.probeCollisions := 0
              lu.probeWait := none
              lu.listenWindow := none }))
        ∧ (∀ left, s.lu.joinState = .listen → s.lu.condition = .clear → s.lu.listenWindow = some left →
            exec .listenWindowExpiry s =
              .next (settle (notice .lineFault { elapse left s with lu.listenWindow := some (sec 30) })))
        ∧ (∀ left, s.lu.joinState = .probe → s.lu.probeWait = some left →
            exec .probeWaitExpiry s = .next (settle { elapse left s with lu.probeWait := none })))
    ∧ (∀ (n : Nat) (s : State), loaded s = true → s.lu.joinState ≠ .offline → s.lu.condition = .clear →
      s.lu.receive = .hunting →
      let follows := s.lu.quiet = 0 ∧ n = 0
      (¬ (follows ∧ 47 ≤ s.lu.spaceRun) →
          ∃ t, exec (.huntingSpaceRead n) s = .next t ∧ t.lu.quiet = 0 ∧ t.lu.joinState = s.lu.joinState
            ∧ t.lu.condition = .clear ∧ t.lu.spaceRun = (if follows then s.lu.spaceRun + 1 else 1)
            ∧ (8 * unitTime s ≤ s.lu.quiet + n * unitTime s →
                t.lu.receive = .framing false false none ∧ t.lu.spaceLeft = 0 ∧ t.lu.frameTime = 0)
            ∧ (s.lu.quiet + n * unitTime s < 8 * unitTime s → t.lu.receive = .hunting ∧ t.lu.spaceLeft = unitTime s)
            ∧ t.ku = s.ku ∧ t.au.file = s.au.file ∧ t.cm.call.state = s.cm.call.state)
        ∧ (follows → 47 ≤ s.lu.spaceRun →
            ∃ t, exec (.huntingSpaceRead n) s = .next t ∧ t.lu.condition = .broken ∧ t.lu.receive = .hunting
              ∧ t.lu.quiet = 0 ∧ t.cm.breakTimer = some (sec 5) ∧ t.cm.call.state = s.cm.call.state
              ∧ t.ku.fifo = s.ku.fifo))
    ∧ (∀ (t : Telegram) (s : State), s.lu.receive = .framing false false none → validKind t = none →
      unbroken (framedUnits t) s →
      exec (.malformedDiscard t) s =
        .next (settle { s with lu.receive := .hunting, lu.spaceRun := spaceRunThrough (framedUnits t) s.lu.spaceRun }))

/-- The Turn of a telegram other than CALL and TEXT, a probe apart: it is taken exactly where the station is JOINED,
the line CLEAR, the destination addressed here, and the table of R58 holds; nothing else changes at the Turn (R57,
R58). A probe for this station's number is answered by ACK space, with a notice; one for another number is not taken
(R52). The units of the telegram go on the run of space without its 48th (else the line breaks: LineBreakAndRestore;
R47, log 17). -/
def Obligations.TurnTakesByKind : Prop :=
  (∀ (s : State) (t : Telegram) (k : Kind), awaitsTurn s → unbroken (framedUnits t) s → validKind t = some k →
      k ≠ .call → k ≠ .text → isProbe k t = false →
      ∃ taken : Bool,
        (taken = true ↔
          s.lu.joinState = .joined ∧ s.lu.condition = .clear ∧ windowFor s t.destination ≠ none ∧ takesKind s k t)
        ∧ exec (.telegramTurn t) s = .next (settle (framedAs t (telegramRun s k t) taken .plain s)))
    ∧ (∀ (s : State) (t : Telegram), awaitsTurn s → unbroken (framedUnits t) s → validKind t = some .who →
      t.destination = addrOf t.source →
      s.lu.joinState = .joined → s.lu.condition = .clear →
      (t.source = s.cl.station →
        exec (.telegramTurn t) s =
          .next (settle (framedAs t [] true .plain (notice (.duplicateProbed s.cl.station.toNat) s))))
        ∧ (t.source ≠ s.cl.station → exec (.telegramTurn t) s = .next (settle (framedAs t [] false .plain s))))

/-- The Turn of a CALL: taken or not by the AU's decision, which the hand-on carries (R59). The hand-on of this
station's own CALL (R74): not taken, nothing but the view; taken, an individual call waits for its answer, a group call
is open; taken but withdrawn, it is cleared. The hand-on of a CALL taken here, by its outcome (R76, R165): it rings; it
is answered ACCEPT, or REFUSE, as decided; it is joined. Dialing is undone first, for any outcome, with the notice
DIALING ABANDONED, the CALL it queued withdrawn and the dial buffer emptied (R76, R111): that of a record DIALING at the
Turn, wherever keys have moved it since (still DIALING, CALLING, or IDLE again), and that begun since on a record IDLE
at the Turn; no other is, by a REFUSE (log 32 for a record in a call at the Turn: R76 names none). Glare accepts the
other's CALL, from CALLING or where keys have moved the record (R76; logs 27 and 32); and a CALL that takes the view,
not taken or refused, ends an attempt in CALLING (R73). The units of the telegram go on the run of space without its
48th (else the line breaks: LineBreakAndRestore; R47, log 17). -/
def Obligations.TurnOfACall : Prop :=
  (∀ (s : State) (t : Telegram) (w : Fin 8), awaitsTurn s → unbroken (framedUnits t) s → validKind t = some .call →
      s.lu.joinState = .joined → s.lu.condition = .clear → windowFor s t.destination = some w →
      let o := answerDecision s t.source t.destination w
      ∃ taken : Bool, (taken = true ↔ o ≠ .notTaken)
        ∧ (t.destination = addrOf s.cl.station → taken = true)
        ∧ (32 ≤ t.destination.toNat → (o = .memberJoin ↔ taken = true))
        ∧ exec (.telegramTurn t) s = .next (settle (framedAs t [] taken (.call o w s.cm.call.state) s)))
    ∧ (∀ (s : State) (f : Framed) (w : Bool) (slot : SlotUnits), s.lu.receive = .framing true w (some f) →
      validKind f.telegram = some .call → s.lu.ackRead = none → s.lu.joinState = .joined →
      unbroken (turnUnits slot) s →
      let b := handedBase true slot .call f s
      let gone := w = true ∨ slotWithdrawn s = true
      (heldSpace slot = false → exec (.telegramHandOn slot) s = .next (settle b))
        ∧ (heldSpace slot = true → gone → s.lu.restartClear = false →
            exec (.telegramHandOn slot) s =
              .next (settle
                { b with
                  lu := enterRequest ⟨.clear, f.telegram.destination, [0], .cmNoOutcome, s.cl.config.retryLimit⟩
                    b.lu }))
        ∧ (heldSpace slot = true → ¬ gone → s.cm.call.state = .calling → s.cm.call.role = some .caller →
            (f.telegram.destination.toNat < 32 →
              ∃ t, exec (.telegramHandOn slot) s = .next t ∧ t.cm.call = { s.cm.call with state := .awaiting }
                ∧ t.cm.view = ⟨.ringing, some s.cl.station, some s.cm.call.callAddr, some (sec 40), none⟩
                ∧ t.lu.control = s.lu.control ∧ t.cs = s.cs)
              ∧ (32 ≤ f.telegram.destination.toNat →
                ∃ t, exec (.telegramHandOn slot) s = .next t ∧ t.cm.call.state = .opened
                  ∧ t.cm.view = ⟨.engaged, some s.cl.station, some s.cm.call.callAddr, none, some (sec 120)⟩
                  ∧ t.cm.call.sendSeq = 1 ∧ t.cm.call.recvSeq = 0 ∧ t.cm.call.holdSet = []
                  ∧ t.ku.fifo = s.ku.fifo)))
    ∧ (∀ (s : State) (t : Telegram) (run : List Resolved) (o : AnswerOutcome) (w : Fin 8) (was : CallState)
      (slot : SlotUnits), s.lu.receive = .framing false false (some ⟨t, run, decide (o ≠ .notTaken), .call o w was⟩) →
      validKind t = some .call → s.lu.joinState = .joined → s.lu.restartClear = false → t.source ≠ s.cl.station →
      unbroken (turnUnits slot) s →
      let now := s.cm.call.state
      let b := handedBase false slot .call ⟨t, run, decide (o ≠ .notTaken), .call o w was⟩ s
      let undone := was = .dialing ∧ (now = .idle ∨ now = .dialing ∨ now = .calling)
        ∨ was = .idle ∧ (now = .dialing ∨ now = .calling)
      let without : State := notice .dialingAbandoned { b with lu := withdraw .call b.lu, ku.dial := [] }
      let asked (k : Kind) (text : List Code) (who : Requester) (l : LineUnit) : LineUnit :=
        enterRequest ⟨k, addrOf t.source, text, who, s.cl.config.retryLimit⟩ l
      let refused (r : Reason) (v : State) : State :=
        { v with lu := asked .refuse [reasonCode r] .cmNoOutcome v.lu, au.autoAnswered := false }
      let callOf (st : CallState) (role : Role) (a : Answer) : CallRecord :=
        { s.cm.call with
          state := st, role := some role, callAddr := t.destination, partyAddr := addrOf t.source
          partyStation := some t.source, route := s.cl.config.windows[w].route, window := w, answer := a
          answerback := none, fileLink := none, readerLink := false }
      let ringing : LineView := ⟨.ringing, some t.source, some t.destination, some (sec 40), none⟩
      let answers (v : State) : Prop :=
        (o = .ring →
          exec (.telegramHandOn slot) s =
            .next (settle
              { v with
                cm := { v.cm with view := ringing, call := callOf .ringing .called .none }
                ku.retryDue := s.ku.retryDue || s.ku.headWaiting
                au.ring := .ringing
                au.ringTimer := some (sec 25)
                mt.cadence := some ⟨true, sec 1⟩
                mt.flash := some ⟨true, ms 500⟩ }))
          ∧ (o = .accept →
            exec (.telegramHandOn slot) s =
              .next (settle
                { v with
                  lu := asked .accept [] .cm v.lu
                  cm := { v.cm with view := ringing, call := callOf .ringing .called .acceptSent }
                  ku.retryDue := s.ku.retryDue || s.ku.headWaiting
                  au.autoAnswered := true
                  mt.flash := some ⟨true, ms 500⟩ }))
          ∧ (o = .memberJoin →
            exec (.telegramHandOn slot) s =
              .next (settle
                { v with
                  cm := { v.cm with
                    view := ⟨.engaged, some t.source, some t.destination, none, some (sec 120)⟩
                    call := { callOf .opened .member .none with
                      sendSeq := 1, recvSeq := 0, holdSet := [], heldByMe := false, heldSince := none } }
                  ku.retryDue := s.ku.retryDue || s.ku.headWaiting
                  au.ring := .none
                  au.ringTimer := none
                  au.autoAnswered := false
                  mt.cadence := none
                  mt.flash := none }))
      (now = .idle → (was ≠ .dialing → answers b) ∧ (o = .notTaken → exec (.telegramHandOn slot) s = .next (settle b)))
        ∧ (undone → answers without)
        ∧ (∀ r, o = .refuse r →
          (undone → now = .idle → exec (.telegramHandOn slot) s = .next (settle (refused r without)))
            ∧ (undone → now ≠ .idle →
              ∃ u, exec (.telegramHandOn slot) s = .next u ∧ u.cm.call = { s.cm.call with state := .idle }
                ∧ u.ku.dial = [] ∧ u.cm.view = b.cm.view ∧ u.lu.control = (refused r without).lu.control
                ∧ u.au.autoAnswered = false)
            ∧ (¬ undone → (now = .calling → s.cm.view.state ≠ .free) →
              exec (.telegramHandOn slot) s = .next (settle (refused r b))))
        ∧ (now = .calling ∨ now = .dialing ∨ now = .idle → o = .glare →
          ∃ u, exec (.telegramHandOn slot) s = .next u ∧ u.cm.call = callOf .ringing .called .acceptSent
            ∧ u.cm.view = ringing ∧ u.au.autoAnswered = false ∧ (now = .dialing → u.ku.dial = [])
            ∧ u.lu.control = (asked .accept [] .cm (withdraw .call b.lu)).control)
        ∧ (now = .calling → s.cm.view.state = .free →
          (o = .notTaken → heldSpace slot = true →
            ∃ u, exec (.telegramHandOn slot) s = .next u ∧ u.cm.call.state = .idle ∧ u.cm.view = b.cm.view
              ∧ u.lu.control = (withdraw .call s.lu).control)
            ∧ ∀ r, o = .refuse r → ¬ undone →
              ∃ u, exec (.telegramHandOn slot) s = .next u ∧ u.cm.call.state = .idle ∧ u.cm.view = b.cm.view
                ∧ u.lu.control = (asked .refuse [reasonCode r] .cmNoOutcome (withdraw .call b.lu)).control))

/-- The answer decision (R163, R164), for a CALL to this station's own number in the first five clauses, and to a group
address in the rest. -/
def Obligations.AnswerDecisionTable : Prop :=
  ∀ (s : State) (n : Station) (d : Addr) (w : Fin 8),
    let c := s.cm.call
    let free := c.state = .idle ∨ c.state = .dialing
    let glare := c.state = .calling ∧ c.partyStation = some n
    let win := s.cl.config.windows[w]
    (d = addrOf s.cl.station →
      (glare → answerDecision s n d w = .glare)
        ∧ (¬ free → ¬ glare → answerDecision s n d w = .refuse .busy)
        ∧ (free → win.acceptCalls = false → answerDecision s n d w = .refuse .notAccepting)
        ∧ (free → win.acceptCalls = true → s.au.attendance = .attended → answerDecision s n d w = .ring)
        ∧ (free → win.acceptCalls = true → s.au.attendance = .unattended →
            (s.cl.config.windows[0].route.file = true →
              (answerDecision s n d w = .accept ↔
                (s.au.file.length < 24 ∨ ∃ r ∈ s.au.file, r.state ≠ .opened ∧ r.printed = true)
                  ∧ 12 < s.cs.free.length + reclaimable s)
                ∧ (answerDecision s n d w = .accept ∨ answerDecision s n d w = .refuse .fileFull))
              ∧ (s.cl.config.windows[0].route.file = false →
                (answerDecision s n d w = .accept ↔
                  s.cl.config.windows[0].route.print = true ∧ printerAvailable s = true)
                ∧ (answerDecision s n d w = .accept ∨ answerDecision s n d w = .refuse .notAccepting))))
      ∧ (d ≠ addrOf s.cl.station →
        answerDecision s n d w =
          if free ∧ win.acceptCalls = true
              ∧ ¬ (s.au.attendance = .unattended ∧ win.route.file = true ∧ fileAvailable s = false)
          then .memberJoin else .notTaken)

/-- The Turn of a TEXT addressed here, in a JOINED station on a CLEAR line (R64 to R66): not for this station, not
taken; a duplicate, taken and nothing changed; no effective destination or no space, not taken and nothing changed;
else taken, its sequence the last accepted, its runs delivered (whole, where no printed record must give its blocks, or
every block has its one holder: BlocksHaveOneHolder): to PRINT and PUNCH, each holding what it held and then its run,
where every block has its one holder, and whose marks a START sets (R26); SEND holds what it held; and to the call's
file record or a new one, with its gaps (R65, R169), closed printed records going oldest first and no more than it
takes (R22). Its runs: in PRINT and PUNCH a START where the mark is absent and the run holds a cell, in PRINT and the
file the gap notice for a gap, in every effective destination the text. Its space check: each limit, and the reserve
once on the sum, the blocks of closed printed records counted for a file run (R21, R22). Its hand-on (R67): taken, the
flow levels are tested; a duplicate, nothing; no destination or no space, HOLD is asked for, and held-by-me set (R83).
The units of the telegram go on the run of space without its 48th (else the line breaks: LineBreakAndRestore; R47, log
17). -/
def Obligations.TurnOfAText : Prop :=
  (∀ (s : State) (t : Telegram), awaitsTurn s → unbroken (framedUnits t) s → validKind t = some .text →
      s.lu.joinState = .joined → s.lu.condition = .clear → windowFor s t.destination ≠ none →
      let run := lineResolve (unshift s) t.text
      let forUs :=
        s.cm.call.state = .opened ∧ s.cm.call.partyStation = some t.source ∧ isGroupCaller s.cm.call = false
          ∧ (t.destination = addrOf s.cl.station
            ∨ s.cm.call.role = some .member ∧ t.destination = s.cm.call.callAddr)
      let lost := (t.sequence - s.cm.call.recvSeq - 1).toNat
      let e := effective s
      let r := textRuns s e t.source lost run
      (¬ forUs → exec (.telegramTurn t) s = .next (settle (framedAs t run false (.text .notForUs) s)))
        ∧ (forUs → t.sequence = s.cm.call.recvSeq →
            exec (.telegramTurn t) s = .next (settle (framedAs t run true (.text .duplicate) s)))
        ∧ (forUs → t.sequence ≠ s.cm.call.recvSeq → lost ≤ 6
            ∧ (e = Route.none → exec (.telegramTurn t) s = .next (settle (framedAs t run false (.text .noDestination) s)))
            ∧ (e ≠ Route.none → deliveryPasses s e r = false →
                exec (.telegramTurn t) s = .next (settle (framedAs t run false (.text .noSpace) s)))
            ∧ (e ≠ Route.none → deliveryPasses s e r = true →
                ∃ u, exec (.telegramTurn t) s = .next u
                  ∧ u.lu.receive =
                      .framing false false (some ⟨t, run, true, .text (.taken e (deliveryBlocks s r != 0))⟩)
                  ∧ u.cm.call.recvSeq = t.sequence ∧ u.cm.call.state = .opened ∧ u.cm.call.sendSeq = s.cm.call.sendSeq
                  ∧ (e.file = false ∨ deliveryBlocks s r + 5 ≤ s.cs.free.length ∨ blocksHaveOneHolder s →
                      u.cs.print.cellCount = s.cs.print.cellCount + r.print.length
                        ∧ u.cs.punch.cellCount = s.cs.punch.cellCount + r.punch.length)
                  ∧ (blocksHaveOneHolder s →
                      u.cs.queueCells .print = s.cs.queueCells .print ++ r.print
                        ∧ u.cs.queueCells .punch = s.cs.queueCells .punch ++ r.punch
                        ∧ u.cs.queueCells .send = s.cs.queueCells .send)
                  ∧ (∀ q run, (q = .print ∧ run = r.print) ∨ (q = .punch ∧ run = r.punch) →
                      (u.cs.queue q).openMark =
                        if run ≠ [] ∧ (s.cs.queue q).openMark = none then some t.source else (s.cs.queue q).openMark)
                  ∧ (e.file = true → blocksHaveOneHolder s → fileInOrder s →
                      (∀ x, s.cm.call.fileLink = some x.slot → x ∈ s.au.file → x.state = .opened →
                        u.cm.call.fileLink = some x.slot
                          ∧ ∃ y ∈ u.au.file, y.slot = x.slot ∧ y.chain.count = x.chain.count + r.file.length
                            ∧ y.gapCount = min 255 (x.gapCount + lost)
                            ∧ (∀ i, i < x.chain.count → u.cs.chainCell y.chain i = s.cs.chainCell x.chain i)
                            ∧ ∀ i, i < r.file.length → u.cs.chainCell y.chain (x.chain.count + i) = r.file[i]?)
                        ∧ (s.cm.call.fileLink = none →
                          ∃ y ∈ u.au.file, u.cm.call.fileLink = some y.slot ∧ y.chain.count = r.file.length
                            ∧ y.gapCount = lost ∧ y.number = s.au.nextNumber ∧ y.source = t.source
                            ∧ y.destination = s.cm.call.callAddr ∧ y.state = .opened ∧ y.printed = false
                            ∧ y.openedAt = s.au.clock
                            ∧ ∀ i, i < r.file.length → u.cs.chainCell y.chain i = r.file[i]?)
                        ∧ ∃ gone, gone <+: s.au.file.filter (fun x => decide (x.state ≠ .opened) && x.printed)
                            ∧ u.au.file.map FileRecord.number =
                                (s.au.file.filter fun x => decide (x ∉ gone)).map FileRecord.number
                                  ++ (if s.cm.call.fileLink = none then [s.au.nextNumber] else [])
                            ∧ ∀ before x, gone = before ++ [x] →
                                deliveryBlocks s r ≠ 0
                                    ∧ s.cs.free.length + (before.map fun z => z.chain.blockCount).sum
                                        < deliveryBlocks s r + 5
                                  ∨ before = [] ∧ s.cm.call.fileLink = none ∧ s.au.file.length = 24)
                  ∧ u.cs.send.cellCount = s.cs.send.cellCount
                  ∧ (e.file = true → s.cm.call.fileLink = none → fileAvailable s = true →
                      u.cm.call.fileLink ≠ none ∧ u.au.nextNumber = numberAfter s.au.nextNumber)
                  ∧ u.ku.editStack = s.ku.editStack ∧ u.ku.fifo = s.ku.fifo)))
    ∧ (∀ (s : State) (e : Route) (n : Station) (lost : Nat) (text : List Resolved),
      let body := text.map fun c => Cell.character c .line
      let gap := if lost = 0 then [] else (Notice.textLost lost).run
      let start (q : Queue) (run : List Cell) : List Cell :=
        if run ≠ [] ∧ q.openMark = none then .boundary .start n :: run else run
      (textRuns s e n lost text).print = (if e.print = true then start s.cs.print (gap ++ body) else [])
        ∧ (textRuns s e n lost text).punch = (if e.punch = true then start s.cs.punch body else [])
        ∧ (textRuns s e n lost text).file = (if e.file = true then gap ++ body else [])
        ∧ (1 ≤ lost → lost ≤ 6 → gap.length = 14))
    ∧ (∀ (s : State) (e : Route) (r : TextRuns),
      let held := (s.au.file.filter fun x => decide (x.state ≠ .opened) && x.printed).map fun x => x.chain.blockCount
      let needed :=
        s.cs.print.blocksNeeded r.print + s.cs.punch.blocksNeeded r.punch + (targetChain s).blocksNeeded r.file
      deliveryBlocks s r = needed
        ∧ (deliveryPasses s e r = true ↔
          s.cs.print.blockCount + s.cs.print.blocksNeeded r.print ≤ s.cs.print.limit
            ∧ s.cs.punch.blockCount + s.cs.punch.blocksNeeded r.punch ≤ s.cs.punch.limit
            ∧ (needed = 0 ∨ needed + 5 ≤ s.cs.free.length + (if e.file = true then held.sum else 0))))
    ∧ ∀ (s : State) (f : Framed) (x : TextResult) (w : Bool) (slot : SlotUnits), s.lu.receive = .framing false w (some f) →
      validKind f.telegram = some .text → f.result = .text x → s.lu.joinState = .joined → s.lu.restartClear = false →
      f.telegram.source ≠ s.cl.station → unbroken (turnUnits slot) s →
      let b := handedBase false slot .text f s
      let party := match s.cm.call.partyStation with | some n => addrOf n | none => s.cm.call.partyAddr
      let held := { b with lu := enterRequest ⟨.hold, party, [], .cm, s.cl.config.retryLimit⟩ b.lu }
      (∀ e bt, x = .taken e bt → exec (.telegramHandOn slot) s = .next (settle (flowTest b)))
        ∧ (x = .duplicate ∨ x = .notForUs ∨ s.cm.call.state ≠ .opened ∧ (x = .noDestination ∨ x = .noSpace) →
            exec (.telegramHandOn slot) s = .next (settle b))
        ∧ (x = .noDestination ∨ x = .noSpace → s.cm.call.state = .opened →
            (s.cm.call.heldByMe = true → exec (.telegramHandOn slot) s = .next (settle held))
              ∧ (s.cm.call.heldByMe = false →
                exec (.telegramHandOn slot) s =
                  .next (settle { held with cm.call.heldByMe := true, cm.call.heldSince := some (sec 120) })))

/-! ### The hand-on -/

/-- The line view at a hand-on (R68, R69), for telegrams that are not this station's own call (R70 sets the view of
that): only a CALL with space in its ACK slot takes a FREE view; ACCEPT from the destination to the caller engages a
RINGING one; REFUSE and CLEAR between the two free it; an activity of the call starts the silence timer again (a REFUSE
and a third station's CALL too: log 37); nothing else changes it. TELEGRAM_HAND_ON leaves that view where the record is
IDLE and no CALL is taken. The units of the telegram go on the run of space without its 48th (else the line breaks:
LineBreakAndRestore; R47, log 17). -/
def Obligations.LineViewTable : Prop :=
  (∀ (v : LineView) (h : Handed),
    let t := h.telegram
    (v.state = .free →
      viewAfter v h =
        if h.kind = .call ∧ h.ack = true then
          if t.destination.toNat < 32 then ⟨.ringing, some t.source, some t.destination, some (sec 40), none⟩
          else ⟨.engaged, some t.source, some t.destination, none, some (sec 120)⟩
        else v)
      ∧ ∀ (c : Station) (d : Addr), v.caller = some c → v.destination = some d →
          let back := d.toNat < 32 ∧ addrOf t.source = d ∧ t.destination = addrOf c
          let forth := t.source = c ∧ t.destination = d
          (v.state = .ringing →
            viewAfter v h =
              if h.kind = .accept ∧ back then { v with state := .engaged, ringWait := none, silence := some (sec 120) }
              else if h.kind = .refuse ∧ back ∨ h.kind = .clear ∧ (forth ∨ back) then LineView.reset
              else v)
            ∧ (v.state = .engaged →
                viewAfter v h =
                  if h.kind = .clear ∧ (forth ∨ back) then LineView.reset
                  else if t.source = c ∨ (if d.toNat < 32 then addrOf t.source = d else t.destination = addrOf c) then
                    { v with silence := some (sec 120) }
                  else v))
    ∧ ∀ (s : State) (own w : Bool) (slot : SlotUnits) (f : Framed) (k : Kind), s.lu.receive = .framing own w (some f) →
      unbroken (turnUnits slot) s → validKind f.telegram = some k → s.cm.call.state = .idle → (k = .call → f.taken = false) →
      let heard := if own = true then s.lu.ackRead.getD (heldSpace slot) else heldSpace slot || f.taken
      ∃ t, exec (.telegramHandOn slot) s = .next t ∧ t.cm.call.state = .idle
        ∧ t.cm.view = viewAfter s.cm.view ⟨k, f.telegram, f.run, heard, own, w, f.taken, f.result⟩

/-- The end of the ACK slot of a telegram framed through its Turn (R32, R36, R37, R38): the LU hunts with its buffer
empty and its quiet timer at 0, and the last telegram is this station's own or not (in LISTEN never: R54). The join
state (R50 to R53): in LISTEN a valid telegram sends the LU to PROBE, and one with this station's number as its source
to LISTEN-ONLY; so does such a telegram in PROBE, and in JOINED unless it is a probe. LISTEN-ONLY stays. The units of
the telegram go on the run of space without its 48th (else the line breaks: LineBreakAndRestore; R47, log 17). -/
def Obligations.HandOnEndsTheTelegram : Prop :=
  (∀ (s : State) (own w : Bool) (slot : SlotUnits) (f : Framed), s.lu.receive = .framing own w (some f) →
      unbroken (turnUnits slot) s → validKind f.telegram ≠ none →
      ∃ t, exec (.telegramHandOn slot) s = .next t ∧ t.lu.receive = .hunting ∧ t.lu.quiet = 0
        ∧ t.lu.lastOwn = (own && decide (s.lu.joinState ≠ .listen))
        ∧ t.ku.fifo = s.ku.fifo ∧ t.pu.op = s.pu.op ∧ t.cl = s.cl ∧ t.pending = s.pending)
    ∧ (∀ (s : State) (w : Bool) (slot : SlotUnits) (f : Framed) (k : Kind), s.lu.receive = .framing false w (some f) →
      unbroken (turnUnits slot) s → validKind f.telegram = some k →
      let same := f.telegram.source = s.cl.station
      ∃ t, exec (.telegramHandOn slot) s = .next t
        ∧ t.lu.joinState =
            match s.lu.joinState with
            | .listen => if same then .listenOnly else .probe
            | .probe => if same then .listenOnly else .probe
            | .joined => if same ∧ isProbe k f.telegram = false then .listenOnly else .joined
            | j => j)

/-- ACCEPT taken in AWAITING opens the call (R75, R78). So does the hand-on of this station's own ACCEPT, not
withdrawn, with space in its ACK slot, in RINGING with the answer ACCEPT SENT: the call is OPEN as CALLED (R77, R78),
ringing ends (R165), CALL OPEN is printed (R78), a key that waits is due to be tried again (R101, log 6), and a WHO to
the party is asked for where the CALL was answered by the AU and auto-WHO is on (R167). The units of the telegram go on
the run of space without its 48th (else the line breaks: LineBreakAndRestore; R47, log 17). -/
def Obligations.AcceptOpensTheCall : Prop :=
  (∀ (s : State) (f : Framed) (slot : SlotUnits), holdsTaken s .accept f → unbroken (turnUnits slot) s → s.cm.call.state = .awaiting →
    s.cm.call.role = some .caller → s.lu.condition = .clear →
    ∃ t, exec (.telegramHandOn slot) s = .next t
      ∧ t.cm.call.state = .opened ∧ t.cm.call.sendSeq = 1 ∧ t.cm.call.recvSeq = 0 ∧ t.cm.call.holdSet = []
      ∧ t.cm.view = ⟨.engaged, some s.cl.station, some s.cm.call.callAddr, none, some (sec 120)⟩
      ∧ t.cm.call.route = s.cm.call.route ∧ t.cm.call.partyAddr = s.cm.call.partyAddr
      ∧ t.ku = { s.ku with retryDue := t.ku.retryDue } ∧ t.tu = { s.tu with resumeDue := t.tu.resumeDue })
    ∧ ∀ (s : State) (f : Framed) (slot : SlotUnits), s.lu.receive = .framing true false (some f) →
      unbroken (turnUnits slot) s → validKind f.telegram = some .accept → slotWithdrawn s = false →
      s.lu.joinState = .joined → s.lu.restartClear = false → s.cm.call.role = some .called →
      s.lu.ackRead.getD (heldSpace slot) = true → s.cm.call.state = .ringing → s.cm.call.answer = .acceptSent →
      let view : LineView := ⟨.engaged, s.cm.call.partyStation, some s.cm.call.callAddr, none, some (sec 120)⟩
      let b := handedBase true slot .accept f s
      let opening : State :=
        { b with
          cm := { b.cm with
            view := view
            call := { s.cm.call with
              state := .opened, sendSeq := 1, recvSeq := 0, holdSet := [], heldByMe := false, heldSince := none } }
          ku.retryDue := s.ku.retryDue || s.ku.headWaiting
          au.ring := .none
          au.ringTimer := none
          mt.cadence := none
          mt.flash := none }
      let told := notice (.callOpen s.cm.call.partyAddr.toNat) opening
      exec (.telegramHandOn slot) s =
        .next (settle (
          if s.au.autoAnswered = true ∧ s.cl.config.autoWho = true then
            { told with
              lu := enterRequest ⟨.who, s.cm.call.partyAddr, [], .cm, s.cl.config.retryLimit⟩ told.lu }
          else told))

/-- A REFUSE with a reason, or a CLEAR with a cause, taken from the called station in AWAITING ends the attempt (R75,
R91); a CLEAR taken from the party ends an OPEN call (R91, R95). The end of an OPEN call closes its file record, in a
file in order (FileStaysInOrder), as FILED for a CLEAR of cause NORMAL and as CUT for any other, with the minute of its
completion (R170); it appends an END to PRINT and to PUNCH where that queue's mark is present, and takes the mark away
(R26): said here for a queue within its limit (StoreStaysCanonical) whose newest block has room for the END, and for
PRINT with the edit stack empty, where nothing is appended before it. In CLEARING a CLEAR taken from the party ends the
call, this station's own CLEAR withdrawn; one not taken, one of another's, and any at a group CALLER change nothing of
record and list (R91, R92). The units of the telegram go on the run of space without its 48th (else the line breaks:
LineBreakAndRestore; R47, log 17). -/
def Obligations.RefuseAndClearEndTheCall : Prop :=
  (∀ (s : State) (f : Framed) (k : Kind) (slot : SlotUnits), holdsTaken s k f → unbroken (turnUnits slot) s →
    s.cm.call.partyStation = some f.telegram.source →
    (k = .refuse ∧ s.cm.call.state = .awaiting
      ∨ k = .clear ∧ (s.cm.call.state = .awaiting ∨ s.cm.call.state = .opened)) →
    ∃ t, exec (.telegramHandOn slot) s = .next t ∧ t.cm.call.state = .idle
      ∧ (s.cm.call.state = .opened →
          t.cm.call.heldByMe = false ∧ t.cm.call.holdSet = [] ∧ t.cs.send.cellCount = 0
            ∧ t.cs.send.inFlight = 0 ∧ t.cm.sendTimer = .stopped ∧ t.ku.editStack = [] ∧ t.cm.call.fileLink = none
            ∧ t.cs.print.openMark = none ∧ t.cs.punch.openMark = none
            ∧ (fileInOrder s → ∀ x ∈ s.au.file, s.cm.call.fileLink = some x.slot →
                (∀ y ∈ t.au.file, y.slot = x.slot →
                    y.state = (if k = .clear ∧ telegramCause f.telegram = some .normal then .filed else .cut)
                      ∧ y.completedAt = some s.au.clock ∧ y.number = x.number ∧ y.chain = x.chain)
                  ∧ (s.cl.config.keepPrinted = true → ∃ y ∈ t.au.file, y.slot = x.slot))
            ∧ (blocksHaveOneHolder s →
                (s.cs.punch.openMark = none → t.cs.queueCells .punch = s.cs.queueCells .punch)
                  ∧ (∀ n, s.cs.punch.openMark = some n → s.cs.punch.blocksNeeded [.boundary .finish n] = 0 →
                      s.cs.punch.blockCount ≤ s.cs.punch.limit →
                      t.cs.queueCells .punch = s.cs.queueCells .punch ++ [.boundary .finish n])
                  ∧ (∀ n, s.cs.print.openMark = some n → s.cs.print.blocksNeeded [.boundary .finish n] = 0 →
                      s.ku.editStack = [] → s.cs.print.blockCount ≤ s.cs.print.limit →
                      s.cs.queueCells .print ++ [.boundary .finish n] <+: t.cs.queueCells .print))))
    ∧ ∀ (s : State) (f : Framed) (slot : SlotUnits), s.lu.receive = .framing false false (some f) →
      validKind f.telegram = some .clear → s.lu.joinState = .joined → f.telegram.source ≠ s.cl.station →
      unbroken (turnUnits slot) s → s.cm.call.state = .clearing →
      let ends := f.taken = true ∧ isGroupCaller s.cm.call = false ∧ s.cm.call.partyStation = some f.telegram.source
      (ends →
          ∃ t, exec (.telegramHandOn slot) s = .next t ∧ t.cm.call.state = .idle
            ∧ t.lu.control = listWithdrawn .clear s ∧ t.lu.slot = s.lu.slot)
        ∧ (¬ ends → exec (.telegramHandOn slot) s = .next (settle (handedBase false slot .clear f s)))

/-- HOLD, GO and BREAK taken from the party of an OPEN call (R82, R86): the hold set gains the sender with 30 s, and a
TEXT in the place gets its retries back, or it loses the sender; BREAK flushes SEND, stops the send timer, steps the
send sequence where a TEXT is in flight, stops a reader run to SEND, withdraws the TEXT in the place (empty at once,
unless its attempt is going on: R44), and prints BREAK FROM where there is a printer and room. The call stays OPEN, its
hold set as it was. A WHO taken, no probe, asks for a HEREIS to its source (R89); a HEREIS is printed, and in an OPEN
call with its source captured (R90); a POLL in an OPEN call starts a run to SEND, or is answered by REFUSE READER BUSY
or NO TAPE (R88, R145); one whose call is no longer OPEN does nothing (log 38). The units of the telegram go on the run
of space without its 48th (else the line breaks: LineBreakAndRestore; R47, log 17). -/
def Obligations.HoldGoAndBreak : Prop :=
  (∀ (s : State) (f : Framed) (k : Kind) (slot : SlotUnits), holdsTaken s k f → unbroken (turnUnits slot) s →
    s.cm.call.state = .opened →
    s.cm.view.state = .engaged →
    let n := f.telegram.source
    (k = .hold →
      ∃ t, exec (.telegramHandOn slot) s = .next t ∧ t.cm.call.state = .opened
        ∧ (∃ x ∈ t.cm.call.holdSet, x.station = n ∧ x.left = sec 30)
        ∧ (∀ x, x.station ≠ n → (x ∈ t.cm.call.holdSet ↔ x ∈ s.cm.call.holdSet))
        ∧ t.lu.text = s.lu.text.map (fun p => { p with retriesUsed := 0 })
        ∧ t.lu.control = s.lu.control ∧ t.cs = s.cs ∧ t.ku = s.ku ∧ t.tu = s.tu)
      ∧ (k = .go →
          ∃ t, exec (.telegramHandOn slot) s = .next t ∧ t.cm.call.state = .opened
            ∧ t.cm.call.holdSet = s.cm.call.holdSet.filter (fun x => x.station ≠ n)
            ∧ t.lu.control = s.lu.control ∧ t.ku = s.ku ∧ t.tu = s.tu)
      ∧ (k = .brk →
          ∃ t, exec (.telegramHandOn slot) s = .next t ∧ t.cm.call.state = .opened
            ∧ t.cs.send.cellCount = 0 ∧ t.cs.send.inFlight = 0 ∧ t.cm.sendTimer = .stopped
            ∧ t.cm.call.sendSeq = (if s.cs.send.inFlight = 0 then s.cm.call.sendSeq else s.cm.call.sendSeq + 1)
            ∧ t.cm.call.holdSet = s.cm.call.holdSet
            ∧ t.ku.fifo = s.ku.fifo ∧ t.ku.editStack = s.ku.editStack
            ∧ (∀ r, s.cm.call.readerLink = true → s.tu.run = some r → r.destination = .send →
                t.tu.run = none ∧ t.cm.call.readerLink = false
                  ∧ t.tu.cycle = s.tu.cycle.map fun c => { c with dropped := true })
            ∧ (s.cm.call.readerLink = false → t.tu.run = s.tu.run)
            ∧ t.lu.text =
                (if s.lu.slot.map Slot.source = some .text then s.lu.text.map fun p => { p with withdrawn := true }
                else none)
            ∧ (let told := (Notice.breakFrom n.toNat).run
              blocksHaveOneHolder s →
                (s.pu.present = false → t.cs.queueCells .print = s.cs.queueCells .print)
                  ∧ (s.pu.present = true → s.cs.spaceCheck .print .mayUse told = true →
                      t.cs.queueCells .print = s.cs.queueCells .print ++ told))))
    ∧ ∀ (s : State) (f : Framed) (k : Kind) (slot : SlotUnits), holdsTaken s k f → unbroken (turnUnits slot) s →
      s.lu.restartClear = false →
      let n := f.telegram.source
      let b := handedBase false slot k f s
      let asked (r : Kind) (text : List Code) : State :=
        { b with lu := enterRequest ⟨r, addrOf n, text, .cm, s.cl.config.retryLimit⟩ b.lu }
      (k = .who →
        exec (.telegramHandOn slot) s =
          .next (settle (if f.telegram.destination = addrOf n then b
            else asked .hereis (lineSend (unshift s) s.cl.config.answerback))))
        ∧ (k = .hereis →
            let told := notice (.answerback n.toNat f.run) b
            let a := some (f.run.take 20)
            exec (.telegramHandOn slot) s =
              .next (settle (
                if s.cm.call.state = .opened ∧ s.cm.call.partyStation = some n then
                  match s.cm.call.fileLink with
                  | none => { told with cm.call.answerback := a }
                  | some slot =>
                    { told with
                      cm.call.answerback := a
                      au.file := told.au.file.map fun r => if r.slot = slot then { r with answerback := a } else r }
                else told)))
        ∧ (k = .poll →
            (s.cm.call.state ≠ .opened → exec (.telegramHandOn slot) s = .next (settle b))
              ∧ (s.cm.call.state = .opened →
                (s.tu.run = none → s.tu.readerPresent = true → s.tu.tapeIn = true →
                    exec (.telegramHandOn slot) s =
                      .next (settle
                        { b with
                          tu.run := some ⟨.send, pollCount f.telegram.text, 0, 0, .ltrs, none, .running⟩
                          tu.resumeDue := false
                          cm.call.readerLink := true }))
                  ∧ (s.tu.run ≠ none → exec (.telegramHandOn slot) s = .next (settle (asked .refuse [6])))
                  ∧ (s.tu.run = none → s.tu.readerPresent = false ∨ s.tu.tapeIn = false →
                    exec (.telegramHandOn slot) s = .next (settle (asked .refuse [5])))))

/-! ### Sending -/

/-- TRANSMIT_START (R38, R45): with a control entry ready, the oldest ready BREAK or else the oldest ready entry goes
into the slot when the quiet timer has reached its gap; with none ready, the TEXT of the place, ready and permitted by
the CM, after 16 u; in PROBE, with no wait, the probe after 12 u (R51); each 8 u later where the last telegram was this
station's own; for a retry, the later of the quiet timer's reaching its gap and the gap's passing since it became
ready. The quiet timer goes on when the space unit read last has ended (log 17). This station drives it, and frames it
as it does (R36): at its Turn its own telegram is taken by nobody here, and its units are counted (R47, log 17). The
control list (R43): a request joins its end, takes the place of an entry of its kind, or is held beside that entry in
the slot, in place of content held there before (log 41); HOLD and GO to one destination cancel, before all else (log
36); a withdrawn entry goes at once, or after its attempt. -/
def Obligations.TransmitStartsControl : Prop :=
  (∀ (s : State) (e : ControlEntry), loaded s = true → s.lu.joinState = .joined → s.lu.condition = .clear →
    s.lu.receive = .hunting → s.lu.slot = none →
    ((e.content.kind = .brk ∧ s.lu.control.find? (fun x => x.readiness.isReady && x.content.kind = .brk) = some e)
      ∨ ((∀ x ∈ s.lu.control, x.content.kind = .brk → x.readiness.isReady = false)
        ∧ s.lu.control.find? (fun x => x.readiness.isReady) = some e)) →
    let t := makeTelegram e.content.kind s.cl.station 0 e.content.destination e.content.text
    let units := 8 + (if e.content.kind = .brk then 0 else if e.content.kind = .text then 8 else 4)
      + (if s.lu.lastOwn = true then 8 else 0)
    let gap := units * unitTime s
    let quietLeft := if gap ≤ s.lu.quiet then 0 else s.lu.spaceLeft + (gap - s.lu.quiet)
    let retryLeft := match e.readiness with | .retryReady since => gap - since | _ => 0
    exec .transmitStart s =
      .next (settle
        { elapse (max quietLeft retryLeft) s with
          lu.slot := some ⟨.control e.content.kind, t⟩
          lu.receive := .framing true false none
          lu.quiet := 0
          lu.spaceRun := 1
          lu.spaceLeft := 0
          lu.frameTime := 0 }))
    ∧ (∀ (s : State) (p : TextPlace), loaded s = true → s.lu.joinState = .joined → s.lu.condition = .clear →
      s.lu.receive = .hunting → s.lu.slot = none → s.lu.restartClear = false →
      (∀ e ∈ s.lu.control, e.readiness.isReady = false) → s.lu.text = some p → p.readiness.isReady = true →
      s.cm.call.state = .opened → (s.cm.call.role = some .caller ∨ s.cm.call.role = some .called) →
      s.cm.call.holdSet = [] →
      let gap := (16 + (if s.lu.lastOwn = true then 8 else 0)) * unitTime s
      let quietLeft := if gap ≤ s.lu.quiet then 0 else s.lu.spaceLeft + (gap - s.lu.quiet)
      let retryLeft := match p.readiness with | .retryReady since => gap - since | _ => 0
      exec .transmitStart s =
        .next (settle
          { elapse (max quietLeft retryLeft) s with
            lu.slot := some ⟨.text, makeTelegram .text s.cl.station p.sequence p.destination p.codes⟩
            lu.receive := .framing true false none
            lu.quiet := 0
            lu.spaceRun := 1
            lu.spaceLeft := 0
            lu.frameTime := 0 }))
    ∧ (∀ s : State, loaded s = true → s.lu.joinState = .probe → s.lu.condition = .clear → s.lu.receive = .hunting →
      s.lu.slot = none → s.lu.probeWait = none →
      let gap := (12 + (if s.lu.lastOwn = true then 8 else 0)) * unitTime s
      exec .transmitStart s =
        .next (settle
          { elapse (if gap ≤ s.lu.quiet then 0 else s.lu.spaceLeft + (gap - s.lu.quiet)) s with
            lu.slot := some ⟨.probe, makeTelegram .who s.cl.station 0 (addrOf s.cl.station) []⟩
            lu.receive := .framing true false none
            lu.quiet := 0
            lu.spaceRun := 1
            lu.spaceLeft := 0
            lu.frameTime := 0 }))
    ∧ (∀ (s : State) (x : Slot) (k : Kind) (w : Bool), s.lu.receive = .framing true w none → s.lu.slot = some x →
      validKind x.telegram = some k → unbroken (framedUnits x.telegram) s →
      exec (.telegramTurn x.telegram) s =
        .next (settle
          { s with
            lu.receive := .framing true w (some ⟨x.telegram, telegramRun s k x.telegram, false, .plain⟩)
            lu.spaceRun := spaceRunThrough (framedUnits x.telegram) s.lu.spaceRun }))
    ∧ ∀ (r : Request) (l : LineUnit),
      let busy (k : Kind) : Bool := l.slot.map Slot.source = some (.control k)
      let opposite (e : ControlEntry) : Bool :=
        (r.kind = .hold ∧ e.content.kind = .go ∨ r.kind = .go ∧ e.content.kind = .hold)
          ∧ e.content.destination = r.destination ∧ busy e.content.kind = false
      let fresh : ControlEntry := ⟨r, 0, 0, .ready, false, none⟩
      ((∃ e ∈ l.control, opposite e = true) →
          enterRequest r l = { l with control := l.control.filter fun e => !opposite e })
        ∧ ((∀ e ∈ l.control, opposite e = false) →
          ((∀ e ∈ l.control, e.content.kind ≠ r.kind) → enterRequest r l = { l with control := l.control ++ [fresh] })
            ∧ ((∃ e ∈ l.control, e.content.kind = r.kind) →
              enterRequest r l =
                { l with
                  control := l.control.map fun e =>
                    if e.content.kind = r.kind then
                      if busy r.kind = true then { e with beside := some r } else fresh
                    else e }))
        ∧ ∀ k,
          withdraw k l =
            { l with
              control :=
                if busy k = true then
                  l.control.map fun e => if e.content.kind = k then { e with withdrawn := true, beside := none } else e
                else l.control.filter fun e => e.content.kind ≠ k }

/-- The slot's attempt lost or stopped before its Turn (R39, R40, R42; the line's comparison is the sender's, log 20):
in each the LU frames on as a receiver (R36); arbitration loss uses nothing; a first collision uses a retry and waits
40 u; a second brings LISTEN-ONLY. Said of a TEXT; of a control entry, where an entry withdrawn in its attempt is
dropped and content held beside it takes its place, or the list's end, with everything fresh (R43, log 12); and of a
probe, whose first collision waits 1 s and does not grow the probe count (R51). The first collision of the restart
CLEAR ends its framing as well: the LU goes to LISTEN (R54), the units read of the telegram counted first, the line's
break where they hold the 48th space of a run (R47); how many they are is computed from the time since the Start, the
last of them the one that did not match (log 17). -/
def Obligations.ArbitrationAndCollision : Prop :=
  (∀ (s : State) (tel : Telegram) (p : TextPlace) (w : Bool), loaded s = true →
    s.lu.receive = .framing true w none → s.lu.slot = some ⟨.text, tel⟩ → s.lu.text = some p → p.withdrawn = false →
    s.lu.restartClear = false →
    exec .arbitrationLoss s =
      .next (settle
        { s with
          lu.slot := none
          lu.receive := .framing false false none
          lu.text := some { p with readiness := .ready } })
      ∧ (p.collisions = 0 → p.retriesUsed < s.cl.config.retryLimit →
          exec .collision s =
            .next (settle
              { s with
                lu.slot := none
                lu.receive := .framing false false none
                lu.text := some
                  { p with
                    collisions := 1
                    retriesUsed := p.retriesUsed + 1
                    readiness := .waiting (40 * unitTime s) } }))
      ∧ (p.collisions = 1 → ∃ t, exec .collision s = .next t ∧ t.lu.joinState = .listenOnly ∧ t.lu.slot = none
          ∧ t.lu.control = [] ∧ t.lu.text = none ∧ t.lu.receive = .framing false false none ∧ t.cm.call.state ≠ .opened))
    ∧ (∀ (s : State) (tel : Telegram) (k : Kind) (e : ControlEntry) (w : Bool),
      s.lu.receive = .framing true w none → s.lu.slot = some ⟨.control k, tel⟩ →
      s.lu.control.find? (fun x => x.content.kind = k) = some e → s.lu.restartClear = false →
      let others := s.lu.control.filter fun x => x.content.kind ≠ k
      let fresh (r : Request) : ControlEntry := ⟨r, 0, 0, .ready, false, none⟩
      let change (f : ControlEntry → ControlEntry) : List ControlEntry :=
        s.lu.control.map fun x => if x.content.kind = k then f x else x
      let stopped (control : List ControlEntry) : State :=
        { s with lu := { s.lu with slot := none, receive := .framing false false none, control := control } }
      (e.withdrawn = true →
          exec .arbitrationLoss s = .next (settle (stopped (others ++ (e.beside.map fresh).toList)))
            ∧ (e.collisions = 0 →
              exec .collision s = .next (settle (stopped (others ++ (e.beside.map fresh).toList)))))
        ∧ (∀ r, e.withdrawn = false → e.beside = some r →
            exec .arbitrationLoss s = .next (settle (stopped (change fun _ => fresh r)))
              ∧ (e.collisions = 0 → exec .collision s = .next (settle (stopped (change fun _ => fresh r)))))
        ∧ (e.withdrawn = false → e.beside = none →
            exec .arbitrationLoss s = .next (settle (stopped (change fun x => { x with readiness := .ready })))
              ∧ (e.collisions = 0 → e.retriesUsed < e.content.allowance →
                exec .collision s =
                  .next (settle (stopped (change fun x =>
                    { x with
                      collisions := 1
                      retriesUsed := x.retriesUsed + 1
                      readiness := .waiting (40 * unitTime s) })))))
        ∧ (e.collisions = 1 → ∃ t, exec .collision s = .next t ∧ t.lu.joinState = .listenOnly ∧ t.lu.slot = none
            ∧ t.lu.control = [] ∧ t.lu.text = none ∧ t.lu.receive = .framing false false none))
    ∧ (∀ (s : State) (tel : Telegram) (e : ControlEntry) (w : Bool),
      s.lu.receive = .framing true w none → s.lu.slot = some ⟨.control .clear, tel⟩ →
      s.lu.control.find? (fun x => x.content.kind = .clear) = some e → s.lu.restartClear = true → e.collisions = 0 →
      loaded s = true → s.lu.joinState = .joined → s.lu.condition = .clear →
      let place := s.lu.frameTime / unitTime s
      let own := framedUnits tel
      let read := if place = 0 then [] else own.take (place - 1) ++ ((own[place - 1]?).map fun u => !u).toList
      (unbroken read s →
          ∃ t, exec .collision s = .next t ∧ t.lu.joinState = .listen ∧ t.lu.receive = .hunting ∧ t.lu.slot = none
            ∧ t.lu.quiet = 0 ∧ t.lu.listenWindow = some (sec 30) ∧ t.lu.restartClear = false
            ∧ t.lu.condition = .clear ∧ t.lu.spaceRun = spaceRunThrough read s.lu.spaceRun
            ∧ t.lu.spaceLeft =
                (if read.getLast? = some false then (read.length + 1) * unitTime s - s.lu.frameTime else 0))
        ∧ (¬ unbroken read s → exec .collision s = exec .lineBreak s))
    ∧ ∀ (s : State) (tel : Telegram) (w : Bool), s.lu.receive = .framing true w none → s.lu.slot = some ⟨.probe, tel⟩ →
      let stopped : LineUnit := { s.lu with slot := none, receive := .framing false false none }
      exec .arbitrationLoss s = .next (settle { s with lu := stopped })
        ∧ (s.lu.probeCollisions = 0 →
            exec .collision s =
              .next (settle { s with lu := { stopped with probeCollisions := 1, probeWait := some (sec 1) } }))
        ∧ (s.lu.probeCollisions = 1 → ∃ t, exec .collision s = .next t ∧ t.lu.joinState = .listenOnly ∧ t.lu.slot = none
            ∧ t.lu.control = [] ∧ t.lu.probeWait = none ∧ t.lu.receive = .framing false false none)

/-- The end of an attempt, its hand-on still to come or already past: with the hand-on first, the reading that it kept
stands whatever the row says, and the LU hunts on (`attemptEnds`, log 12). Of a TEXT (R41, R42, R44, R81): taken,
the place is empty, its cells leave SEND (its oldest, as many as are in flight: R24) and the send sequence steps;
unanswered below the retry limit, it waits 40 u; at the limit it is exhausted, SEND is flushed and the call is
cleared with CLEAR RETRY FAILED and its notice (in PRINT: `printsAtEnd`, log 5); withdrawn, the place is empty and
nothing else follows. Of a control entry other than the restart CLEAR (R41 to R43): taken, it leaves the list, and
the CM's CLEAR takes the record from CLEARING to IDLE (R92); unanswered, it waits 40 u while it has a retry;
withdrawn, it leaves; content held beside it takes its place, or the end of the list where it was taken; exhausted,
it leaves, and its kind says what follows: a CALL in CALLING, IDLE and NO ANSWER (R74); an ACCEPT in RINGING, IDLE
and CALL FAILED (R77); a CLEAR in CLEARING, IDLE (R92); a WHO, NO ANSWER (R89); any other, or one the CM did not ask
for, nothing (R77, R84, R96). Of the restart CLEAR (R54), a single attempt whose outcome the CM ignores: taken or
unanswered, it leaves the list, and the LU goes to LISTEN with its probe counter and its series collision count 0,
the last telegram not its own, a new listen window and the quiet timer 0; it hunts, its buffer empty, at once where
the hand-on is past, and from the hand-on where that is still to come (R37, log 12); the run of space is kept. Of a
probe (R51, R52): taken, LISTEN-ONLY; unanswered, the probe count grows and 1 s is waited; the third time, JOINED,
with the announcement HEREIS to 63 without a retry in the list. A retry's wait ends, of a control entry or of the
TEXT: it is ready again (R42). -/
def Obligations.AttemptOfATextEnds : Prop :=
  (∀ (s : State) (tel : Telegram) (p : TextPlace) (sent ack : Bool) (l : LineUnit), loaded s = true →
      attemptEnds s sent ack false l → s.lu.slot = some ⟨.text, tel⟩ → s.lu.text = some p → p.withdrawn = false →
      (ack = true →
          exec (.attemptEnd sent) s =
              .next (settle
                (ackSend { s with lu := { l with text := none }, cm.call.sendSeq := s.cm.call.sendSeq + 1 }))
            ∧ (blocksHaveOneHolder s →
              ∃ t, exec (.attemptEnd sent) s = .next t ∧ t.lu.slot = none
                ∧ t.cs.send.cellCount = s.cs.send.cellCount - s.cs.send.inFlight
                ∧ t.cm.call.sendSeq = s.cm.call.sendSeq + 1
                ∧ t.cm.call.state = s.cm.call.state ∧ t.ku.editStack = s.ku.editStack))
        ∧ (ack = false → p.retriesUsed < s.cl.config.retryLimit →
            exec (.attemptEnd sent) s =
              .next (settle
                { s with
                  lu := { l with
                    text := some
                      { p with
                        collisions := 0
                        retriesUsed := p.retriesUsed + 1
                        readiness := .waiting (40 * unitTime s) } } }))
        ∧ (ack = false → s.cl.config.retryLimit ≤ p.retriesUsed → s.cm.call.state = .opened →
            s.lu.joinState = .joined → s.lu.restartClear = false →
            ∃ t, exec (.attemptEnd sent) s = .next t ∧ t.lu.slot = none ∧ t.lu.text = none
              ∧ t.cm.call.state = .clearing ∧ t.cs.send.cellCount = 0 ∧ t.cm.call.sendSeq = s.cm.call.sendSeq
              ∧ printsAtEnd s t (Notice.cleared s.cm.call.partyAddr.toNat .retryFailed).run
              ∧ ∃ e ∈ t.lu.control, e.content.kind = .clear ∧ e.content.destination = s.cm.call.partyAddr
                ∧ e.content.text = [1]))
    ∧ (∀ s : State, blocksHaveOneHolder s →
      (ackSend s).cs.send.cellCount = s.cs.send.cellCount - s.cs.send.inFlight ∧ (ackSend s).cs.send.inFlight = 0
        ∧ ((s.cs.queueCells .send).length = s.cs.send.cellCount →
            (ackSend s).cs.queueCells .send = (s.cs.queueCells .send).drop s.cs.send.inFlight))
    ∧ (∀ (s : State) (tel : Telegram) (e : ControlEntry) (k : Kind) (sent ack : Bool) (l : LineUnit), loaded s = true →
      attemptEnds s sent ack false l → s.lu.slot = some ⟨.control k, tel⟩ →
      s.lu.control.find? (fun x => x.content.kind = k) = some e → e.withdrawn = false → e.beside = none →
      (s.lu.restartClear = true → k ≠ .clear) →
      let ended (control : List ControlEntry) : State := { s with lu := { l with control := control } }
      (ack = true → k ≠ .clear ∨ e.content.requester ≠ .cm ∨ s.cm.call.state ≠ .clearing →
          exec (.attemptEnd sent) s =
            .next (settle (ended (s.lu.control.filter fun x => x.content.kind ≠ k))))
        ∧ (ack = true → k = .clear → e.content.requester = .cm → s.cm.call.state = .clearing →
            ∃ t, exec (.attemptEnd sent) s = .next t ∧ t.cm.call.state = .idle ∧ t.lu.slot = none
              ∧ t.lu.control = s.lu.control.filter fun x => x.content.kind ≠ k)
        ∧ (ack = false → e.retriesUsed < e.content.allowance →
            exec (.attemptEnd sent) s =
              .next (settle (ended (s.lu.control.map fun x =>
                if x.content.kind = k then
                  { x with
                    collisions := 0, retriesUsed := x.retriesUsed + 1, readiness := .waiting (40 * unitTime s) }
                else x)))))
    ∧ (∀ (s : State) (tel : Telegram) (p : TextPlace) (sent ack : Bool) (l : LineUnit),
      attemptEnds s sent ack true l → s.lu.slot = some ⟨.text, tel⟩ → s.lu.text = some p → p.withdrawn = true →
      exec (.attemptEnd sent) s = .next (settle { s with lu := { l with text := none } }))
    ∧ (∀ (s : State) (tel : Telegram) (e : ControlEntry) (k : Kind) (sent ack : Bool) (l : LineUnit),
      attemptEnds s sent ack e.withdrawn l → s.lu.slot = some ⟨.control k, tel⟩ →
      s.lu.control.find? (fun x => x.content.kind = k) = some e → (s.lu.restartClear = true → k ≠ .clear) →
      let others := s.lu.control.filter fun x => x.content.kind ≠ k
      let fresh (r : Request) : ControlEntry := ⟨r, 0, 0, .ready, false, none⟩
      let ended (control : List ControlEntry) : State := { s with lu := { l with control := control } }
      (e.withdrawn = true →
          exec (.attemptEnd sent) s = .next (settle (ended (others ++ (e.beside.map fresh).toList))))
        ∧ (∀ r, e.withdrawn = false → e.beside = some r →
            (ack = true → k ≠ .clear ∨ e.content.requester ≠ .cm ∨ s.cm.call.state ≠ .clearing →
              exec (.attemptEnd sent) s = .next (settle (ended (others ++ [fresh r]))))
              ∧ (ack = false →
                exec (.attemptEnd sent) s =
                  .next (settle (ended (s.lu.control.map fun x => if x.content.kind = k then fresh r else x)))))
        ∧ (ack = false → e.withdrawn = false → e.beside = none → e.content.allowance ≤ e.retriesUsed →
            let d := e.content.destination
            let idles (run : List Cell) : Prop :=
              ∃ t, exec (.attemptEnd sent) s = .next t ∧ t.cm.call.state = .idle ∧ t.cm.view = s.cm.view
                ∧ t.lu.control = others ∧ t.lu.slot = none ∧ prints s t run
            (k = .call → e.content.requester = .cm → s.cm.call.state = .calling → idles (Notice.noAnswer d.toNat).run)
              ∧ (k = .accept → e.content.requester = .cm → s.cm.call.state = .ringing → idles Notice.callFailed.run)
              ∧ (k = .clear → e.content.requester = .cm → s.cm.call.state = .clearing → idles [])
              ∧ (k = .who → e.content.requester = .cm →
                exec (.attemptEnd sent) s = .next (settle (notice (.noAnswer d.toNat) (ended others))))
              ∧ (e.content.requester ≠ .cm
                  ∨ k = .refuse ∨ k = .hold ∨ k = .go ∨ k = .brk ∨ k = .hereis ∨ k = .poll
                  ∨ k = .call ∧ s.cm.call.state ≠ .calling
                  ∨ k = .accept ∧ s.cm.call.state ≠ .ringing ∨ k = .clear ∧ s.cm.call.state ≠ .clearing →
                exec (.attemptEnd sent) s = .next (settle (ended others)))))
    ∧ (∀ (s : State) (tel : Telegram) (e : ControlEntry) (sent ack : Bool) (l : LineUnit),
      attemptEnds s sent ack e.withdrawn l → s.lu.slot = some ⟨.control .clear, tel⟩ →
      s.lu.control.find? (fun x => x.content.kind = .clear) = some e → s.lu.restartClear = true →
      e.content.requester ≠ .cm → e.content.allowance ≤ e.retriesUsed → e.beside = none →
      exec (.attemptEnd sent) s =
        .next (settle
          { s with
            lu := { l with
              control := s.lu.control.filter fun x => x.content.kind ≠ .clear
              joinState := .listen
              probeCount := 0
              probeCollisions := 0
              probeWait := none
              quiet := 0
              listenWindow := some (sec 30)
              lastOwn := false
              restartClear := false } }))
    ∧ (∀ (s : State) (tel : Telegram) (sent ack : Bool) (l : LineUnit),
      attemptEnds s sent ack false l → s.lu.slot = some ⟨.probe, tel⟩ →
      let ended : LineUnit := { l with probeCollisions := 0 }
      (ack = true →
          ∃ t, exec (.attemptEnd sent) s = .next t ∧ t.lu.joinState = .listenOnly ∧ t.lu.slot = none
            ∧ t.lu.control = [] ∧ t.lu.text = none ∧ t.lu.probeWait = none ∧ faultLamp t = true)
        ∧ (ack = false → s.lu.probeCount < 2 →
            exec (.attemptEnd sent) s =
              .next (settle
                { s with lu := { ended with probeCount := s.lu.probeCount + 1, probeWait := some (sec 1) } }))
        ∧ (ack = false → s.lu.probeCount = 2 → s.lu.control = [] →
            exec (.attemptEnd sent) s =
              .next (settle
                { s with
                  lu := { ended with
                    probeCount := 3
                    joinState := .joined
                    probeWait := none
                    control :=
                      [⟨⟨.hereis, 63, lineSend (unshift s) s.cl.config.answerback, .lu, 0⟩,
                        0, 0, .ready, false, none⟩] } })))
    ∧ (∀ (s : State) (left : Tick),
      (∀ p : TextPlace, s.lu.text = some p → p.readiness = .waiting left →
        exec (.retryWaitExpiry .text) s =
          .next (settle { elapse left s with lu.text := some { p with readiness := .retryReady 0 } }))
        ∧ ∀ (e : ControlEntry) (k : Kind), s.lu.control.find? (fun x => x.content.kind = k) = some e → k ≠ .text →
            e.readiness = .waiting left →
            exec (.retryWaitExpiry k) s =
              .next (settle
                { elapse left s with
                  lu.control := (elapse left s).lu.control.map fun x =>
                    if x.content.kind = k then { x with readiness := .retryReady 0 } else x }))

/-- The line goes BROKEN (R47, R94): what is framed is discarded, an attempt stopped and its telegram ready again with no
retry used, every collision count 0, the break timer started. A control entry so stopped keeps its place; one withdrawn
is gone, as a withdrawn TEXT is (R43, R44), content asked for since becoming a new entry (log 12); and content held
beside it takes the entry, the old content unreported, as at an arbitration loss (the model's choice: log 42). BROKEN
ends after 2 s of mark (R48), and a space in them starts the count again, its own unit time first (log 17). The units of
a telegram are counted in the order of its layout, which the statement writes out (R33), those of its Turn and of its
ACK slot after them (R37): where 48 of them in succession are space, the Turn, the discard or the hand-on is the line's
break; else the count goes on with the space they end with, and stays below 48. Which rows move the count, and that the
units after the ACK slot begin another, is log 17's. -/
def Obligations.LineBreakAndRestore : Prop :=
  (∀ s : State, loaded s = true → s.lu.joinState ≠ .offline →
    (s.lu.condition = .clear →
      ∃ t, exec .lineBreak s = .next t ∧ t.lu.condition = .broken ∧ t.lu.receive = .hunting ∧ t.lu.slot = none
        ∧ t.lu.quiet = 0
        ∧ (∀ e ∈ t.lu.control, e.collisions = 0) ∧ (∀ p ∈ t.lu.text, p.collisions = 0) ∧ t.lu.probeCollisions = 0
        ∧ t.cm.breakTimer = some (sec 5) ∧ t.cm.call.state = s.cm.call.state ∧ faultLamp t = true
        ∧ (∀ p tel, s.lu.slot = some ⟨.text, tel⟩ → s.lu.text = some p → p.withdrawn = false →
            t.lu.text = some { p with collisions := 0, readiness := .ready })
        ∧ t.ku.fifo = s.ku.fifo)
      ∧ (s.lu.condition = .clear → s.lu.restartClear = false →
        let ends (control : List ControlEntry) (text : Option TextPlace) : Prop :=
          exec .lineBreak s =
            .next (settle (notice .lineBroken
              { s with
                lu := { s.lu with
                  condition := .broken
                  receive := .hunting
                  slot := none
                  ackRead := none
                  quiet := 0
                  spaceRun := 48
                  markRun := 0
                  control := control.map fun e => { e with collisions := 0 }
                  text := text.map fun p => { p with collisions := 0 }
                  probeCollisions := 0 }
                cm.breakTimer := some (sec 5) }))
        let anew (r : Request) : ControlEntry := ⟨r, 0, 0, .ready, false, none⟩
        (s.lu.slot = none ∨ (∃ tel, s.lu.slot = some ⟨.probe, tel⟩) → ends s.lu.control s.lu.text)
          ∧ (∀ tel p, s.lu.slot = some ⟨.text, tel⟩ → s.lu.text = some p →
              ends s.lu.control (if p.withdrawn = true then none else some { p with readiness := .ready }))
          ∧ ∀ k tel e, s.lu.slot = some ⟨.control k, tel⟩ → s.lu.control.find? (fun x => x.content.kind = k) = some e →
            (e.withdrawn = true →
                ends (s.lu.control.filter (fun x => x.content.kind ≠ k) ++ (e.beside.map anew).toList) s.lu.text)
              ∧ (e.withdrawn = false → e.beside = none →
                ends (s.lu.control.map fun x => if x.content.kind = k then { x with readiness := .ready } else x)
                  s.lu.text)
              ∧ ∀ r, e.withdrawn = false → e.beside = some r →
                ends (s.lu.control.map fun x => if x.content.kind = k then anew r else x) s.lu.text)
      ∧ (s.lu.condition = .broken →
          (∃ t, exec .lineRestored s = .next t ∧ t.lu.condition = .clear ∧ t.lu.receive = .hunting
            ∧ t.lu.quiet = sec 2 ∧ t.cm.breakTimer = none
            ∧ t.lu.joinState = (if s.lu.joinState = .listen then .probe else s.lu.joinState)
            ∧ t.cm.call.state = s.cm.call.state ∧ t.ku.fifo = s.ku.fifo)
          ∧ ∃ t, exec .brokenSpaceRead s = .next t ∧ t.lu.markRun = 0 ∧ t.lu.quiet = 0 ∧ t.lu.condition = .broken
            ∧ t.lu.spaceLeft = unitTime s ∧ t.lu.control = (elapse s.lu.spaceLeft s).lu.control
            ∧ t.cm.breakTimer = (elapse s.lu.spaceLeft s).cm.breakTimer ∧ t.cs.cells = s.cs.cells))
    ∧ (∀ (s : State) (t : Telegram) (slot : SlotUnits),
      (s.lu.receive = .framing false false none → ¬ unbroken (framedUnits t) s →
          exec (.telegramTurn t) s = exec .lineBreak s
            ∧ (validKind t = none → exec (.malformedDiscard t) s = exec .lineBreak s))
        ∧ (∀ own w f, s.lu.receive = .framing own w (some f) → validKind f.telegram ≠ none →
            ¬ unbroken (turnUnits slot) s → exec (.telegramHandOn slot) s = exec .lineBreak s)
        ∧ (s.lu.receive = .framing false false none → unbroken (framedUnits t) s → s.lu.joinState = .joined →
            loaded s = true → validKind t ≠ none → s.lu.condition = .clear →
            ∃ u, exec (.telegramTurn t) s = .next u ∧ u.lu.condition = .clear
              ∧ u.lu.spaceRun = spaceRunThrough (framedUnits t) s.lu.spaceRun ∧ u.lu.spaceRun < 48)
        ∧ (∀ own w f, s.lu.receive = .framing own w (some f) → validKind f.telegram ≠ none →
            unbroken (turnUnits slot) s →
            ∃ u, exec (.telegramHandOn slot) s = .next u ∧ u.lu.spaceRun < 48
              ∧ u.lu.spaceRun =
                  if f.taken = true ∨ slot.ack = 0 then spaceRunThrough (turnUnits slot) s.lu.spaceRun else 0))
    ∧ (∀ (n : Nat) (mark : Bool) (rest : List Bool),
      spaceRunThrough [] n = n
        ∧ (n < 48 → spaceRunThrough (mark :: rest) n = spaceRunThrough rest (if mark = true then 0 else n + 1))
        ∧ (48 ≤ n → spaceRunThrough (mark :: rest) n = n))
    ∧ ∀ (t : Telegram) (slot : SlotUnits),
      let bits (n v : Nat) : List Bool := (List.range n).map fun i => v.testBit (n - 1 - i)
      let all :=
        bits 2 t.precedence.toNat ++ bits 5 t.source.toNat ++ bits 4 t.kind.toNat ++ bits 3 t.sequence.toNat
          ++ bits 6 t.destination.toNat ++ bits 6 t.length.toNat ++ (t.text.map fun c => bits 5 c.toNat).flatten
          ++ bits 8 t.check.toNat
      framedUnits t <+: all ∧ (validKind t ≠ none → framedUnits t = all) ∧ turnUnits slot = bits 2 slot.turn.toNat
        ∧ (heldSpace slot = true ↔ slot.ack ≠ 3)

/-! ### The call's timers -/

/-- The ends of the call's timers. The silence timer in OPEN (R93): the view FREE, the record IDLE, a CLEAR of cause
SILENCE to the party address whose outcome the CM ignores, CLEARED nn SILENCE. The ring-wait timer in AWAITING and
RINGING (R75, R77), and there the silence timer too (log 33): the view FREE, the record IDLE, NO ANSWER nn in the
first; in the second an ACCEPT withdrawn, and CALL FAILED where the answer was ACCEPT SENT. Either timer at a station
whose record is IDLE, DIALING, CALLING or CLEARING: the view alone goes FREE (R69). The break timer (R94), in a call,
with CALL ABANDONED, and in IDLE and DIALING, where the view alone goes FREE; held-since (R85), which clears the call
with a CLEAR of cause CONGESTION to the party and CLEARED nn CONGESTION, its file record, in a file in order
(FileStaysInOrder), closed as CUT with the minute (R95, R170); a hold entry, the others of the set running on, with its
notice (R82); and the send timer (R79). Where a record's notice stands in PRINT, and when: `printsAtEnd` (R134; its order
in leaving OPEN: log 5). -/
def Obligations.CallTimersExpire : Prop :=
  ∀ (s : State) (left : Tick),
    let party := s.cm.call.partyAddr
    let queued (t : State) (r : Request) : Prop := ∃ e ∈ t.lu.control, e.content = r ∨ e.beside = some r
    let answerEnds (row : Instr) : Prop :=
      (s.cm.call.state = .awaiting →
          ∃ t, exec row s = .next t ∧ t.cm.view = LineView.reset ∧ t.cm.call.state = .idle
            ∧ t.cs.send = s.cs.send ∧ t.tu.run = s.tu.run ∧ t.lu.control = (elapse left s).lu.control
            ∧ prints s t (Notice.noAnswer party.toNat).run)
        ∧ (s.cm.call.state = .ringing →
          ∃ t, exec row s = .next t ∧ t.cm.view = LineView.reset ∧ t.cm.call.state = .idle
            ∧ t.cs.send = s.cs.send ∧ t.tu.run = s.tu.run ∧ t.lu.control = listWithdrawn .accept (elapse left s)
            ∧ prints s t (if s.cm.call.answer = .acceptSent then Notice.callFailed.run else []))
        ∧ (s.cm.call.state ≠ .awaiting → s.cm.call.state ≠ .ringing → s.cm.call.state ≠ .opened →
          exec row s = .next (settle { elapse left s with cm.view := LineView.reset }))
    (s.cm.sendTimer = .running left →
      exec .sendTimerExpiry s = .next (settle { elapse left s with cm.sendTimer := .expired }))
      ∧ (s.cm.view.silence = some left → s.cm.call.state = .opened →
          ∃ t, exec .silenceExpiry s = .next t ∧ t.cm.view = LineView.reset ∧ t.cm.call.state = .idle
            ∧ t.cs.send.cellCount = 0 ∧ t.cm.call.holdSet = []
            ∧ printsAtEnd s t (Notice.cleared party.toNat .silence).run
            ∧ (s.lu.joinState = .joined → s.lu.restartClear = false →
                queued t ⟨.clear, party, [2], .cmNoOutcome, s.cl.config.retryLimit⟩))
      ∧ (s.cm.view.silence = some left → answerEnds .silenceExpiry)
      ∧ (s.cm.view.ringWait = some left → answerEnds .ringWaitExpiry)
      ∧ (s.cm.breakTimer = some left → s.cm.call.state ≠ .idle → s.cm.call.state ≠ .dialing →
          ∃ t, exec .breakTimerExpiry s = .next t ∧ t.cm.view = LineView.reset ∧ t.cm.call.state = .idle
            ∧ t.cm.breakTimer = none ∧ printsAtEnd s t Notice.callAbandoned.run)
      ∧ (s.cm.breakTimer = some left → s.cm.call.state = .idle ∨ s.cm.call.state = .dialing →
          exec .breakTimerExpiry s =
            .next (settle { elapse left s with cm.view := LineView.reset, cm.breakTimer := none }))
      ∧ (∀ n : Station, s.cm.call.holdSet.find? (fun h => h.station = n) = some ⟨n, left⟩ →
          exec (.holdEntryExpiry n) s =
            .next (settle (notice (.holdExpired n.toNat)
              { elapse left s with
                cm.call.holdSet := (elapse left s).cm.call.holdSet.filter fun h => h.station ≠ n })))
      ∧ (s.cm.call.heldSince = some left → s.cm.call.state = .opened → s.lu.joinState = .joined →
          s.lu.restartClear = false →
          ∃ t, exec .heldSinceExpiry s = .next t ∧ t.cm.call.state = .clearing ∧ t.cm.call.heldByMe = false
            ∧ t.cm.call.heldSince = none ∧ t.cs.send.cellCount = 0
            ∧ queued t ⟨.clear, party, [3], .cm, s.cl.config.retryLimit⟩
            ∧ printsAtEnd s t (Notice.cleared party.toNat .congestion).run
            ∧ (fileInOrder s → ∀ x ∈ s.au.file, s.cm.call.fileLink = some x.slot →
                ∀ y ∈ t.au.file, y.slot = x.slot → y.state = .cut ∧ y.completedAt = some (elapse left s).au.clock))

/-! ### The keyboard -/

/-- The case and mode keys at the head of the FIFO (R101, R102, R103): each sets its own; a mode key with the edit stack
not empty is refused with the bell. BACKSPACE removes the top of the edit stack where the stack is in use and holds a
character, and rings the bell otherwise (R107, R110). That the LINE key rings too with the stack not empty is log 31's
reading. -/
def Obligations.CaseModeAndBackspaceKeys : Prop :=
  (∀ (s : State) (rest : List Key), loaded s = true →
      let dealt : KeyboardUnit := { s.ku with fifo := rest, headRead := s.cm.call.state, headWaiting := false, retryDue := false }
      let bell : MotorTerminal := { s.mt with pulses := s.mt.pulses ++ [⟨.keyboard, ms 100⟩] }
      (s.ku.fifo = .ltrs :: rest → exec .ltrsKey s = .next (settle { s with ku := { dealt with case := .ltrs } }))
        ∧ (s.ku.fifo = .figs :: rest → exec .figsKey s = .next (settle { s with ku := { dealt with case := .figs } }))
        ∧ (s.ku.editStack = [] →
            (s.ku.fifo = .line :: rest → exec .lineKey s = .next (settle { s with ku := { dealt with mode := .line } }))
              ∧ (s.ku.fifo = .localMode :: rest →
                  exec .localKey s = .next (settle { s with ku := { dealt with mode := .localMode } }))
              ∧ (s.ku.fifo = .tape :: rest → exec .tapeKey s = .next (settle { s with ku := { dealt with mode := .tape } })))
        ∧ (s.ku.editStack ≠ [] →
            (s.ku.fifo = .line :: rest → exec .lineKey s = .next (settle { s with ku := dealt, mt := bell }))
              ∧ (s.ku.fifo = .localMode :: rest → exec .localKey s = .next (settle { s with ku := dealt, mt := bell }))
              ∧ (s.ku.fifo = .tape :: rest → exec .tapeKey s = .next (settle { s with ku := dealt, mt := bell }))))
    ∧ (∀ (s : State) (rest : List Key), loaded s = true → s.ku.fifo = .backspace :: rest →
      let dealt : KeyboardUnit := { s.ku with fifo := rest, headRead := s.cm.call.state, headWaiting := false, retryDue := false }
      (∀ stack top, s.ku.editStack = stack ++ [top] → s.ku.mode = .line → s.cl.config.edit = true →
          s.cm.call.state = .opened → (s.cm.call.role = some .caller ∨ s.cm.call.role = some .called) →
          exec .backspace s = .next (settle { s with ku := { dealt with editStack := stack } }))
        ∧ (s.ku.editStack = [] ∨ s.ku.mode ≠ .line ∨ s.cl.config.edit = false ∨ s.cm.call.state ≠ .opened
            ∨ s.cm.call.role = some .member →
          exec .backspace s =
            .next (settle { s with ku := dealt, mt.pulses := s.mt.pulses ++ [⟨.keyboard, ms 100⟩] })))

/-- The samples of a key position (R99): against its level each counts 1, the third in a row changes the level with the
count 0, one with the level sets the count to 0. The press taken at a position enters the FIFO and is reported to the
AU, and where the FIFO was empty the interpreter takes it and reads the record's state (R101); with 8 entries held it is
lost with the bell; at a position without a key it gives nothing; samples that take no press, and a release, give no
event (R98, R99, R100, R162). That a command carries one position's samples is log 10's. -/
def Obligations.PressAndRelease : Prop :=
  (∀ k : KeyScan,
      (k.level = .up → KeyScan.sample false k = ⟨.up, 0⟩
          ∧ KeyScan.sample true k = if k.count < 2 then ⟨.up, k.count + 1⟩ else ⟨.down, 0⟩)
        ∧ (k.level = .down → KeyScan.sample true k = ⟨.down, 0⟩
          ∧ KeyScan.sample false k = if k.count < 2 then ⟨.down, k.count + 1⟩ else ⟨.up, 0⟩)
        ∧ KeyScan.samples [] k = k
        ∧ (∀ b bs, KeyScan.samples (b :: bs) k =
            if (KeyScan.sample b k).level = k.level then KeyScan.samples bs (KeyScan.sample b k) else KeyScan.sample b k)
        ∧ (k.level = .up → k.count ≤ 2 → KeyScan.samples (List.replicate (3 - k.count) true) k = ⟨.down, 0⟩))
    ∧ ∀ (s : State) (key : KeySamples) (k : KeyScan), loaded s = true → s.ku.scan[key.position.toNat]? = some k →
      let p := key.position.toNat
      let now := KeyScan.samples key.samples k
      let scan := s.ku.scan.set p now
      (k.level = .up →
        (now.level = .up → exec (.keyPress key) s = .next (settle { s with ku.scan := scan }))
          ∧ (now.level = .down → p ≠ 45 →
            (46 < p → exec (.keyPress key) s = .next (settle { s with ku.scan := scan }))
              ∧ (p ≤ 46 → 8 ≤ s.ku.fifo.length →
                exec (.keyPress key) s =
                  .next (settle { s with ku.scan := scan, mt.pulses := s.mt.pulses ++ [⟨.keyboard, ms 100⟩] }))
              ∧ (p ≤ 46 → s.ku.fifo.length < 8 → ∃ name, keyAt key.position = some name ∧
                exec (.keyPress key) s =
                  .next (settle
                    { s with
                      ku.scan := scan
                      ku.fifo := s.ku.fifo ++ [name]
                      ku.headRead := if s.ku.fifo = [] then s.cm.call.state else s.ku.headRead
                      au.attendTimer :=
                        if s.au.attendance = .attended then
                          if s.cl.config.attendTimeout ≠ 0 ∧ switchAssigned s = false then
                            some (minutes s.cl.config.attendTimeout)
                          else none
                        else s.au.attendTimer
                      au.pending := s.au.pending.filter fun c => c.2 ≠ .timeout }))))
        ∧ (k.level = .down → exec (.keyRelease key) s = .next (settle { s with ku.scan := scan }))

/-- A character key (R101, R102, R104 to R108, R110). In DIALING a code key 3 to 12 adds its digit to fewer than two,
CR ends the dialing, any other rings. In LOCAL mode the character goes to PRINT, in TAPE mode to PUNCH, echoed in
PRINT with tape-echo (R105), in LINE mode in a sending call to SEND, echoed, with the edit option off (R104); at a
queue's limit the key waits at the head, the reserve refuses it with the bell (R106). With the edit option on it goes
on the stack, CR commits the stack as one run to SEND and PRINT (R108), LF is sent while the stack is empty (R107).
Taken again when a block is released (KEY_HEAD_RETRY) it does what CHARACTER_KEY would; that the event is held until
then is log 6's. That the echo follows its main run at once is the model's choice (log 44), and that CR's request is
acted on at once (log 45). -/
def Obligations.CharacterKeyActs : Prop :=
  ∀ (s : State) (k : Key) (rest : List Key) (ch : Resolved), loaded s = true → s.ku.fifo = k :: rest →
    keyChar s.ku.case k = some ch →
    let case := if k = .space ∧ s.cl.config.unshiftOnSpace = true then .ltrs else s.ku.case
    let dealt : KeyboardUnit := { s.ku with fifo := rest, headRead := s.cm.call.state, headWaiting := false, retryDue := false, case := case }
    let bell : MotorTerminal := { s.mt with pulses := s.mt.pulses ++ [⟨.keyboard, ms 100⟩] }
    let cell := [Cell.character ch .keyboard]
    let sending := s.cm.call.state = .opened ∧ (s.cm.call.role = some .caller ∨ s.cm.call.role = some .called)
    ∀ c : Instr, (c = .characterKey ∧ s.ku.headWaiting = false
        ∨ c = .keyHeadRetry ∧ s.ku.headWaiting = true ∧ s.ku.retryDue = true) →
      let rings := exec c s = .next (settle { s with ku := dealt, mt := bell })
      let waits := exec c s = .next (settle { s with ku.headWaiting := true, ku.retryDue := false })
      let goes (n : QueueName) (echo : Bool) : Prop :=
        let fits := (s.cs.queue n).limitPasses cell = true ∧ (echo = true → s.cs.print.limitPasses cell = true)
        (¬ fits → waits)
          ∧ (fits → appendRun n .mayUse cell s = none → rings)
          ∧ (fits → ∀ u, appendRun n .mayUse cell s = some u →
              (echo = false → exec c s = .next (settle { u with ku := dealt }))
                ∧ (echo = true →
                  (∀ v, appendRun .print .mayUse cell u = some v → exec c s = .next (settle { v with ku := dealt }))
                    ∧ (appendRun .print .mayUse cell u = none →
                      exec c s =
                        .next (settle { u with ku := dealt, mt.pulses := u.mt.pulses ++ [⟨.keyboard, ms 100⟩] }))))
      (s.cm.call.state = .dialing →
          (∀ d, keyDigit k = some d → s.ku.dial.length < 2 →
            exec c s = .next (settle { s with ku := { dealt with dial := s.ku.dial ++ [d] } }))
            ∧ (∀ d, keyDigit k = some d → 2 ≤ s.ku.dial.length → rings)
            ∧ (keyDigit k = none → k ≠ .cr → rings)
            ∧ (k = .cr → s.ku.dial = [] →
              ∃ t, exec c s = .next t ∧ t.cm.call.state = .idle ∧ t.ku.dial = [] ∧ t.ku.fifo = rest
                ∧ t.mt.pulses = s.mt.pulses ++ [⟨.keyboard, ms 100⟩])
            ∧ (k = .cr → ∀ d : Addr, dialed s.ku.dial = some d.toNat → d ≠ addrOf s.cl.station →
              s.cm.view.state = .free → s.lu.joinState = .joined → s.lu.restartClear = false →
              ∃ t, exec c s = .next t ∧ t.cm.call.state = .calling ∧ t.cm.call.role = some .caller
                ∧ t.cm.call.callAddr = d ∧ t.cm.call.partyAddr = d ∧ t.ku.dial = [] ∧ t.ku.fifo = rest
                ∧ t.lu.control = (enterRequest ⟨.call, d, [], .cm, s.cl.config.retryLimit⟩ s.lu).control))
        ∧ (s.cm.call.state ≠ .dialing → s.ku.mode = .localMode →
            (s.pu.present = true → goes .print false) ∧ (s.pu.present = false → rings))
        ∧ (s.cm.call.state ≠ .dialing → s.ku.mode = .tape →
            (s.tu.punchPresent = true → goes .punch (s.cl.config.tapeEcho && s.pu.present))
              ∧ (s.tu.punchPresent = false → rings))
        ∧ (s.cm.call.state ≠ .dialing → s.ku.mode = .line → ¬ sending → rings)
        ∧ (sending → s.ku.mode = .line → s.cl.config.edit = false → goes .send s.pu.present)
        ∧ (sending → s.ku.mode = .line → s.cl.config.edit = true →
            (k ≠ .cr → k ≠ .lf →
              (s.ku.editStack.length < 72 →
                exec c s = .next (settle { s with ku := { dealt with editStack := s.ku.editStack ++ [ch] } }))
                ∧ (72 ≤ s.ku.editStack.length → rings))
              ∧ (k = .lf → (s.ku.editStack = [] → goes .send s.pu.present) ∧ (s.ku.editStack ≠ [] → rings))
              ∧ (k = .cr →
                let run := (s.ku.editStack ++ [Resolved.cr]).map fun r => Cell.character r .keyboard
                let needed :=
                  s.cs.send.blocksNeeded run + (if s.pu.present = true then s.cs.print.blocksNeeded run else 0)
                let passes :=
                  s.cs.send.limitPasses run = true ∧ (s.pu.present = true → s.cs.print.limitPasses run = true)
                    ∧ needed ≤ s.cs.free.length
                let sent := s.cs.pushRun .send run
                let u : State :=
                  { startSendTimer .send run s with
                    cs := if s.pu.present = true then sent.pushRun .print run else sent
                    ku := { dealt with editStack := [] } }
                (¬ passes → rings)
                  ∧ (passes → exec c s = .next (settle (if needed = 0 then u else flowTest u)))))

/-- The CALL key (R72, R101, R110, R112, R165), by the record's state as the interpreter read it when it took the key
(headRead), and as the owner finds it. Read in RINGING, it goes to the AU: while it rings the CALL is accepted, once that ringing is answered
the key does nothing, and with the record in another state it is refused with the bell. Read in DIALING, it ends the
dialing: with an address the record goes to CALLING with a CALL queued where the view is FREE and the LU JOINED; with
no digit, the own number or an address above 63 it is refused with the bell, and with a view that is not FREE with LINE
ENGAGED and the bell, the record in IDLE and nothing queued. Read in any other state, it asks the CM to begin dialing:
dialing begins in IDLE, and elsewhere the bell sounds. The one or two digits dialed are read in decimal (R72). That an
end of dialing which finds the record in another state does nothing, and that the key leaves the FIFO at the owner's
act, are the model's choices (log 45). -/
def Obligations.CallKeyActs : Prop :=
  ∀ (s : State) (rest : List Key), loaded s = true → s.ku.fifo = .call :: rest →
    let r := s.ku.headRead
    let dealt : KeyboardUnit := { s.ku with fifo := rest, headRead := s.cm.call.state, headWaiting := false, retryDue := false }
    let rings :=
      exec .callKey s =
        .next (settle { s with ku := dealt, mt.pulses := s.mt.pulses ++ [⟨.keyboard, ms 100⟩] })
    (r ≠ .dialing → r ≠ .ringing →
      (s.cm.call.state = .idle →
        ∃ t, exec .callKey s = .next t ∧ t.cm.call.state = .dialing ∧ t.ku.dial = [] ∧ t.ku.fifo = rest
          ∧ t.cm.view = s.cm.view ∧ t.cs = s.cs ∧ t.lu = s.lu ∧ t.tu = s.tu ∧ t.pu = s.pu)
        ∧ (s.cm.call.state ≠ .idle → rings))
      ∧ (r = .ringing →
        (s.cm.call.state = .ringing → s.au.ring = .ringing → s.lu.joinState = .joined → s.lu.restartClear = false →
          ∃ t, exec .callKey s = .next t ∧ t.cm.call.state = .ringing ∧ t.cm.call.answer = .acceptSent
            ∧ t.au.ring = .answered ∧ t.au.ringTimer = none ∧ t.mt.cadence = none ∧ t.au.autoAnswered = false
            ∧ ∃ e ∈ t.lu.control, e.content.kind = .accept)
          ∧ (s.cm.call.state = .ringing → s.au.ring ≠ .ringing →
              exec .callKey s = .next (settle { s with ku := dealt }))
          ∧ (s.cm.call.state ≠ .ringing → rings))
      ∧ (r = .dialing →
        (∀ d : Addr, s.cm.call.state = .dialing → dialed s.ku.dial = some d.toNat → d ≠ addrOf s.cl.station →
            s.cm.view.state = .free → s.lu.joinState = .joined → s.lu.restartClear = false → s.lu.control = [] →
            ∃ t, exec .callKey s = .next t ∧ t.cm.call.state = .calling ∧ t.cm.call.role = some .caller
              ∧ t.cm.call.callAddr = d ∧ t.cm.call.partyAddr = d
              ∧ t.cm.call.partyStation = (if d.toNat < 32 then some (d.setWidth 5) else none)
              ∧ t.cm.call.route = s.cl.config.windows[0].route
              ∧ t.lu.control = [⟨⟨.call, d, [], .cm, s.cl.config.retryLimit⟩, 0, 0, .ready, false, none⟩]
              ∧ t.ku.dial = [] ∧ t.ku.fifo = rest)
          ∧ (s.cm.call.state = .dialing →
              (s.ku.dial = [] ∨ ∃ n, dialed s.ku.dial = some n ∧ (63 < n ∨ n = s.cl.station.toNat)) →
              ∃ t, exec .callKey s = .next t ∧ t.cm.call.state = .idle ∧ t.cm.view = s.cm.view
                ∧ t.ku.dial = [] ∧ t.ku.fifo = rest ∧ t.mt.pulses = s.mt.pulses ++ [⟨.keyboard, ms 100⟩]
                ∧ t.lu.control = s.lu.control)
          ∧ (∀ d : Addr, s.cm.call.state = .dialing → dialed s.ku.dial = some d.toNat → d ≠ addrOf s.cl.station →
              s.cm.view.state ≠ .free →
              ∃ t, exec .callKey s = .next t ∧ t.cm.call.state = .idle ∧ t.cm.view = s.cm.view
                ∧ t.ku.dial = [] ∧ t.ku.fifo = rest ∧ t.mt.pulses = s.mt.pulses ++ [⟨.keyboard, ms 100⟩]
                ∧ t.lu.control = s.lu.control
                ∧ (s.pu.present = true → s.cs.spaceCheck .print .mayUse Notice.lineEngaged.run = true →
                    blocksHaveOneHolder s →
                    s.cs.queueCells .print ++ Notice.lineEngaged.run <+: t.cs.queueCells .print))
          ∧ (s.cm.call.state ≠ .dialing →
              exec .callKey s = .next (settle { s with ku := { dealt with dial := [] } })))
      ∧ (dialed [] = none ∧ ∀ d e more, dialed [d] = some d ∧ dialed (d :: e :: more) = some (10 * d + e))

/-- The CLEAR key (R74, R75, R92, R101, R112, R165), by the record's state as the interpreter read it when it took the
key (headRead), and as the owner finds it. Read in CALLING, AWAITING or OPEN, it goes to the CM, which acts by the state it finds: OPEN and
AWAITING go to CLEARING with a CLEAR NORMAL queued to the party, and an OPEN call's file record, in a file in order
(FileStaysInOrder), is closed as FILED with the minute of its completion (R95, R170); CALLING to IDLE, its CALL
withdrawn: gone from the list, or marked where it is in the slot (R43); IDLE and CLEARING do nothing. Read in RINGING,
it goes to the AU: a call that rings is refused with REFUSE NOT ACCEPTING to the caller, once that ringing is answered
the key does nothing, and with the record in another state it is refused with the bell. Read in DIALING, it cancels the
dialing, to IDLE. Read in IDLE and CLEARING, it does nothing. That a cancel which finds the record in another state does
nothing, that a key read in CALLING, AWAITING or OPEN would cancel a dialing it found, and that the key leaves the FIFO
at the owner's act, are the model's choices (log 45). -/
def Obligations.ClearKeyActs : Prop :=
  ∀ (s : State) (rest : List Key), loaded s = true → s.ku.fifo = .clear :: rest →
    let r := s.ku.headRead
    let asksCm := r = .calling ∨ r = .awaiting ∨ r = .opened
    let dealt : KeyboardUnit := { s.ku with fifo := rest, headRead := s.cm.call.state, headWaiting := false, retryDue := false }
    let nothing := exec .clearKey s = .next (settle { s with ku := dealt })
    (asksCm →
      (s.cm.call.state = .opened ∨ s.cm.call.state = .awaiting → s.lu.joinState = .joined → s.lu.restartClear = false →
        ∃ t, exec .clearKey s = .next t ∧ t.cm.call.state = .clearing ∧ t.ku.fifo = rest
          ∧ ∃ e ∈ t.lu.control, e.content.kind = .clear
            ∧ (e.content = ⟨.clear, s.cm.call.partyAddr, [0], .cm, s.cl.config.retryLimit⟩
              ∨ e.beside = some ⟨.clear, s.cm.call.partyAddr, [0], .cm, s.cl.config.retryLimit⟩)
          ∧ (s.cm.call.state = .opened → fileInOrder s → ∀ x ∈ s.au.file, s.cm.call.fileLink = some x.slot →
              ∀ y ∈ t.au.file, y.slot = x.slot → y.state = .filed ∧ y.completedAt = some s.au.clock))
        ∧ (s.cm.call.state = .calling →
            ∃ t, exec .clearKey s = .next t ∧ t.cm.call.state = .idle ∧ t.ku.fifo = rest
              ∧ t.cm.view = s.cm.view ∧ t.lu.control = listWithdrawn .call s ∧ t.lu.slot = s.lu.slot)
        ∧ (s.cm.call.state = .idle ∨ s.cm.call.state = .clearing → nothing))
      ∧ (asksCm ∨ r = .dialing → s.cm.call.state = .dialing →
          ∃ t, exec .clearKey s = .next t ∧ t.cm.call.state = .idle ∧ t.ku.fifo = rest
            ∧ t.cm.view = s.cm.view ∧ t.ku.dial = [] ∧ t.lu.control = s.lu.control)
      ∧ (r = .dialing → s.cm.call.state ≠ .dialing →
          exec .clearKey s = .next (settle { s with ku := { dealt with dial := [] } }))
      ∧ (asksCm ∨ r = .ringing → s.cm.call.state = .ringing →
          (s.au.ring = .ringing →
            ∃ t, exec .clearKey s = .next t ∧ t.cm.call.state = .idle ∧ t.au.ring = .none ∧ t.ku.fifo = rest
              ∧ (s.lu.joinState = .joined → s.lu.restartClear = false →
                  ∃ e ∈ t.lu.control, e.content.kind = .refuse
                    ∧ (e.content = ⟨.refuse, s.cm.call.partyAddr, [2], .cmNoOutcome, s.cl.config.retryLimit⟩
                      ∨ e.beside = some ⟨.refuse, s.cm.call.partyAddr, [2], .cmNoOutcome, s.cl.config.retryLimit⟩)))
            ∧ (s.au.ring ≠ .ringing → nothing))
      ∧ (r = .ringing → s.cm.call.state ≠ .ringing →
          exec .clearKey s =
            .next (settle { s with ku := dealt, mt.pulses := s.mt.pulses ++ [⟨.keyboard, ms 100⟩] }))
      ∧ (r = .idle ∨ r = .clearing → nothing)

/-- The WHO, BREAK and POLL keys (R87, R89, R113, R115): each asks for its telegram where the record allows it, and is
refused with the bell elsewhere; a group CALLER's BREAK stops its own sending. That the owner acts in the key's own
command is the model's choice (log 45). -/
def Obligations.WhoBreakAndPollKeys : Prop :=
  ∀ (s : State) (rest : List Key), loaded s = true → s.lu.joinState = .joined → s.lu.restartClear = false →
    let dealt : KeyboardUnit := { s.ku with fifo := rest, headRead := s.cm.call.state, headWaiting := false, retryDue := false }
    let bell : MotorTerminal := { s.mt with pulses := s.mt.pulses ++ [⟨.keyboard, ms 100⟩] }
    let asks (k : Kind) (d : Addr) : State :=
      { s with ku := dealt, lu := enterRequest ⟨k, d, [], .cm, s.cl.config.retryLimit⟩ s.lu }
    (s.ku.fifo = .who :: rest →
      (s.cm.call.state = .opened → exec .whoKey s = .next (settle (asks .who s.cm.call.partyAddr)))
        ∧ (s.cm.call.state = .idle → exec .whoKey s = .next (settle (asks .who 63)))
        ∧ (s.cm.call.state ≠ .opened → s.cm.call.state ≠ .idle →
            exec .whoKey s = .next (settle { s with ku := dealt, mt := bell })))
      ∧ (s.ku.fifo = .brk :: rest →
          (s.cm.call.state = .opened → isGroupCaller s.cm.call = false →
            exec .breakKey s = .next (settle (asks .brk s.cm.call.partyAddr)))
            ∧ (s.cm.call.state = .opened → isGroupCaller s.cm.call = true →
                ∃ t, exec .breakKey s = .next t ∧ t.cs.send.cellCount = 0 ∧ t.cs.send.inFlight = 0
                  ∧ t.cm.sendTimer = .stopped ∧ t.cm.call.state = .opened
                  ∧ t.cm.call.sendSeq = (if s.cs.send.inFlight = 0 then s.cm.call.sendSeq else s.cm.call.sendSeq + 1)
                  ∧ t.cs.print = s.cs.print)
            ∧ (s.cm.call.state ≠ .opened → exec .breakKey s = .next (settle { s with ku := dealt, mt := bell })))
      ∧ (s.ku.fifo = .poll :: rest →
          (s.cm.call.state = .opened → isIndividual s.cm.call = true →
            exec .pollKey s = .next (settle (asks .poll s.cm.call.partyAddr)))
            ∧ (s.cm.call.state ≠ .opened ∨ isIndividual s.cm.call = false →
                exec .pollKey s = .next (settle { s with ku := dealt, mt := bell })))

/-- The HEREIS key (R113): in LINE mode in a sending call the answerback goes to SEND, past the edit stack, and then
to PRINT where the printer is present; elsewhere to PRINT alone; with the printer absent there it is refused. Each
append has its own space check, class MAY USE (R19): a SEND run refused is dropped with the bell, and no echo is made;
an echo refused is dropped with the bell, and the SEND run stays; a run to PRINT alone refused is dropped with the
bell (R20). The key does not wait at the head. That the echo follows at once is the model's choice (log 44). -/
def Obligations.HereisKeyActs : Prop :=
  ∀ (s : State) (rest : List Key), loaded s = true → s.ku.fifo = .hereis :: rest →
    let run := s.cl.config.answerback.map fun r => Cell.character r .keyboard
    let sends := s.ku.mode = .line ∧ s.cm.call.state = .opened
      ∧ (s.cm.call.role = some .caller ∨ s.cm.call.role = some .called)
    let dealt (u : State) : State := { u with ku := { s.ku with fifo := rest, headRead := s.cm.call.state, headWaiting := false, retryDue := false } }
    let rung (u : State) : State := { dealt u with mt.pulses := s.mt.pulses ++ [⟨.keyboard, ms 100⟩] }
    (sends →
        (appendRun .send .mayUse run s = none → exec .hereisKey s = .next (settle (rung s)))
          ∧ ∀ u, appendRun .send .mayUse run s = some u →
            (s.pu.present = false → exec .hereisKey s = .next (settle (dealt u)))
              ∧ (s.pu.present = true → appendRun .print .mayUse run u = none →
                  exec .hereisKey s = .next (settle (rung u)))
              ∧ (s.pu.present = true → ∀ v, appendRun .print .mayUse run u = some v →
                  exec .hereisKey s = .next (settle (dealt v))))
      ∧ (¬ sends →
        (s.pu.present = true → ∀ u, appendRun .print .mayUse run s = some u →
            exec .hereisKey s = .next (settle (dealt u)))
          ∧ (s.pu.present = true → appendRun .print .mayUse run s = none →
              exec .hereisKey s = .next (settle (rung s)))
          ∧ (s.pu.present = false → exec .hereisKey s = .next (settle (rung s))))

/-- READ START and READ STOP (R144, R149, R150): a run is made to the mode's queue where nothing refuses it; a run
stops with RUN STOPPED; otherwise the bell. That the owner acts in the key's own command is the model's choice (log
45). -/
def Obligations.ReadStartAndStop : Prop :=
  ∀ (s : State) (rest : List Key), loaded s = true →
    let dealt : KeyboardUnit := { s.ku with fifo := rest, headRead := s.cm.call.state, headWaiting := false, retryDue := false }
    let bell : MotorTerminal := { s.mt with pulses := s.mt.pulses ++ [⟨.keyboard, ms 100⟩] }
    (s.ku.fifo = .readStart :: rest →
      (s.tu.run = none → s.tu.readerPresent = true → s.tu.tapeIn = true →
          ∀ n, (s.ku.mode = .line ∧ n = .send ∧ s.cm.call.state = .opened
                ∧ (s.cm.call.role = some .caller ∨ s.cm.call.role = some .called)
              ∨ s.ku.mode = .localMode ∧ n = .print ∧ s.pu.present = true
              ∨ s.ku.mode = .tape ∧ n = .punch ∧ s.tu.punchPresent = true) →
          exec .readStart s =
            .next (settle
              { s with
                ku := dealt
                tu.run := some ⟨n, 0, 0, 0, .ltrs, none, .running⟩
                tu.resumeDue := false
                cm.call.readerLink := if n = .send then true else s.cm.call.readerLink }))
        ∧ (s.tu.run ≠ none ∨ s.tu.readerPresent = false ∨ s.tu.tapeIn = false →
            exec .readStart s = .next (settle { s with ku := dealt, mt := bell }))
        ∧ (s.ku.mode = .line ∧ ¬ (s.cm.call.state = .opened
                ∧ (s.cm.call.role = some .caller ∨ s.cm.call.role = some .called))
              ∨ s.ku.mode = .localMode ∧ s.pu.present = false
              ∨ s.ku.mode = .tape ∧ s.tu.punchPresent = false →
            exec .readStart s = .next (settle { s with ku := dealt, mt := bell })))
      ∧ (s.ku.fifo = .readStop :: rest →
          (∀ r, s.tu.run = some r →
            exec .readStop s =
              .next (settle
                { notice .runStopped
                    { s with
                      tu.run := none
                      tu.resumeDue := false
                      tu.cycle := s.tu.cycle.map fun c => { c with dropped := true }
                      cm.call.readerLink := if r.destination = .send then false else s.cm.call.readerLink } with
                  ku := dealt }))
            ∧ (s.tu.run = none → exec .readStop s = .next (settle { s with ku := dealt, mt := bell })))

/-- FILE PRINT starts a REPLAY of the oldest closed unprinted record, or is refused with the bell (R174). A REPLAY
begins with its header to PRINT, which says REPEAT where the record's print had started before; refused, the header is
pending, and is tried again after a block-released event (held until then: log 6): appended, header-pending is cleared
and the cursor offers. A FOLLOW cursor is placed where there is none, in an UNATTENDED station with the printer
available, at the OPEN record whose window routes to PRINT and whose print has not started (R172); auto replay starts
at the oldest closed unprinted record outside an OPEN call where the option is on (R175). A cursor at the end of its
closed record ends, and the AU's tests follow (R173): END MSG with the record's number is printed, or lost for want of
space (R20, R134); the record is printed, or with keep-printed off deleted, its blocks freed; no cursor is held. A
cell in the printer's hands when its cursor ends is printed on. That FILE PRINT's owner acts in the key's own command
is the model's choice (log 45). -/
def Obligations.FilePrintAndHeaderRetry : Prop :=
  (∀ (s : State) (rest : List Key), loaded s = true → (s.au.file.map FileRecord.slot).Nodup →
      s.ku.fifo = .filePrint :: rest →
      (s.au.cursor ≠ none ∨ printerAvailable s = false ∨ (∀ r ∈ s.au.file, r.state = .opened ∨ r.printed = true) →
          exec .filePrint s =
            .next (settle
              { s with
                ku.fifo := rest
                ku.headRead := s.cm.call.state
                ku.headWaiting := false
                ku.retryDue := false
                mt.pulses := s.mt.pulses ++ [⟨.keyboard, ms 100⟩] }))
        ∧ (∀ r, s.au.cursor = none → printerAvailable s = true →
            s.au.file.find? (fun x => decide (x.state ≠ .opened) && !x.printed) = some r → r.chain.count ≠ 0 →
            ∃ t c, exec .filePrint s = .next t ∧ t.au.cursor = some c ∧ c.record = r.slot ∧ c.offset = 0
              ∧ c.mode = .replay ∧ t.ku.fifo = rest))
    ∧ (∀ (s : State) (c : Cursor) (r : FileRecord), s.au.headerRetryDue = true → s.au.cursor = some c →
      c.headerPending = true → s.au.file.find? (fun x => x.slot = c.record) = some r → r.chain.count ≠ 0 →
      c.offset = 0 →
      let run := (Notice.header (headerOf r c.again)).run
      let s1 : State := { s with au.headerRetryDue := false }
      (appendRun .print .mayUse run s1 = none → exec .replayHeaderRetry s = .next (settle s1))
        ∧ (∀ u, appendRun .print .mayUse run s1 = some u →
            exec .replayHeaderRetry s = .next (settle { u with au.cursor := some { c with headerPending := false } })))
    ∧ (∀ s : State,
      let may := s.au.cursor = none ∧ s.au.attendance = .unattended ∧ printerAvailable s = true
      let found := s.au.file.find? fun r =>
        decide (r.state = .opened) && !r.printStarted && s.cl.config.windows[r.window].route.print
      (¬ may ∨ found = none → followTest s = s)
        ∧ (∀ r, may → found = some r →
            followTest s =
              { s with
                au := { s.au with
                  cursor := some ⟨r.slot, 0, .follow, false, false⟩
                  file := s.au.file.map fun x => if x.slot = r.slot then { x with printStarted := true } else x } })
        ∧ replayable s =
            if s.cl.config.autoReplay = true ∧ s.au.attendance = .unattended ∧ s.cm.call.state ≠ .opened
                ∧ s.au.cursor = none ∧ printerAvailable s = true then
              s.au.file.find? fun r => decide (r.state ≠ .opened) && !r.printed
            else none)
    ∧ (∀ s : State,
      (replayable (followTest s) = none → auTests s = followTest s)
        ∧ ∀ r, replayable (followTest s) = some r → r.chain.count ≠ 0 → (s.au.file.map FileRecord.slot).Nodup →
            auTests s = startReplay r (followTest s))
    ∧ (∀ (s : State) (r : FileRecord), (s.au.file.map FileRecord.slot).Nodup → r ∈ s.au.file → r.state ≠ .opened →
      let begun (pending : Bool) : AnsweringUnit :=
        { s.au with
          cursor := some ⟨r.slot, 0, .replay, pending, r.printStarted⟩
          headerRetryDue := false
          file := s.au.file.map fun x => if x.slot = r.slot then { x with printStarted := true } else x }
      let run := (Notice.header (headerOf r r.printStarted)).run
      (appendRun .print .mayUse run { s with au := begun true } = none → startReplay r s = { s with au := begun true })
        ∧ ∀ u, appendRun .print .mayUse run { s with au := begun true } = some u →
            let v := { u with au.cursor := (begun false).cursor }
            startReplay r s = if r.chain.count = 0 then endCursor v else v)
    ∧ (∀ (s : State) (c : Cursor) (r : FileRecord), s.au.cursor = some c →
      s.au.file.find? (fun x => x.slot = c.record) = some r →
      (finishCursor s =
          if r.state ≠ .opened ∧ c.headerPending = false ∧ r.chain.count ≤ c.offset then auTests (endCursor s) else s)
        ∧ (let t := endCursor s
          let run := (Notice.endMsg r.number).run
          let told :=
            if s.pu.present = true ∧ s.cs.spaceCheck .print .mayUse run = true then s.cs.pushRun .print run else s.cs
          t.au.cursor = none ∧ t.au.headerRetryDue = false ∧ t.pu.source = .queue
            ∧ t.pu.work = s.pu.work.map (fun w => if w.source = .cursor then { w with kept := true } else w)
            ∧ t.cs = (if s.cl.config.keepPrinted = true then told else told.flushChain r.chain)
            ∧ t.au.file =
                (if s.cl.config.keepPrinted = true then
                  s.au.file.map fun x => if x.slot = c.record then { x with printed := true } else x
                else s.au.file.filter fun x => x.slot ≠ c.record)
            ∧ t.cm.call.state = s.cm.call.state ∧ t.cm.view = s.cm.view ∧ t.lu.text = s.lu.text
            ∧ t.tu.run = s.tu.run ∧ t.ku.fifo = s.ku.fifo ∧ t.mt = s.mt ∧ t.pu.op = s.pu.op))

/-- FILE CLEAR deletes every closed record whose printed flag is set; the others stay, in their order; the FILE lamp
is not changed, and nothing rings. That the owner acts in the key's own command is the model's choice (log 45). -/
def Obligations.FileClearDeletesPrinted : Prop :=
  ∀ (s : State) (rest : List Key), loaded s = true → (s.au.file.map FileRecord.slot).Nodup →
    s.ku.fifo = .fileClear :: rest →
    ∃ t, exec .fileClear s = .next t
      ∧ t.au.file = s.au.file.filter (fun r => !(decide (r.state ≠ .opened) && r.printed))
      ∧ fileLamp t = fileLamp s ∧ t.mt.pulses = s.mt.pulses ∧ t.ku.fifo = rest ∧ t.cm.call.state = s.cm.call.state
      ∧ ((∀ r ∈ s.au.file, r.state = .opened ∨ r.printed = false) → t.au = s.au)

/-- Requests to change attendance (R159 to R162), from the key, the switch and the timeout: applied at once in IDLE,
held as the pending change otherwise, in place of one held before, and dropped with it where the target is the
attendance there is; the key toggles (the pending change, where there is one), and is ignored while a switch is
assigned. That the AU acts in the ATTEND key's own command is the model's choice (log 45). -/
def Obligations.AttendanceRequests : Prop :=
  ∀ (s : State) (rest : List Key), loaded s = true →
    (s.ku.fifo = .attend :: rest → switchAssigned s = true →
        exec .attendKey s =
          .next (settle { s with ku.fifo := rest, ku.headRead := s.cm.call.state, ku.headWaiting := false, ku.retryDue := false }))
      ∧ (s.ku.fifo = .attend :: rest → switchAssigned s = false → s.au.pending = none → s.cm.call.state ≠ .idle →
          exec .attendKey s =
            .next (settle
              { s with
                ku.fifo := rest
                ku.headRead := s.cm.call.state
                ku.headWaiting := false
                ku.retryDue := false
                au.pending := some (opposite s.au.attendance, .key) }))
      ∧ (s.ku.fifo = .attend :: rest → switchAssigned s = false → s.au.pending = none → s.cm.call.state = .idle →
          ∃ t, exec .attendKey s = .next t ∧ t.au.attendance ≠ s.au.attendance ∧ t.au.pending = none
            ∧ t.ku.fifo = rest)
      ∧ (∀ level, switchAssigned s = true → s.mt.switchAttended ≠ isHigh level → s.cm.call.state = .idle →
          ∃ t, exec (.attendSwitchChange level) s = .next t ∧ t.mt.switchAttended = isHigh level
            ∧ t.au.attendance = (if level = .high then .attended else .unattended) ∧ t.au.pending = none)
      ∧ (s.ku.fifo = .attend :: rest → switchAssigned s = false → s.cm.call.state ≠ .idle →
          ∀ target cause, s.au.pending = some (target, cause) →
            exec .attendKey s =
              .next (settle
                { s with
                  ku.fifo := rest
                  ku.headRead := s.cm.call.state
                  ku.headWaiting := false
                  ku.retryDue := false
                  au.pending := if s.au.attendance = opposite target then none else some (opposite target, .key) }))
      ∧ (∀ level, switchAssigned s = true → s.mt.switchAttended ≠ isHigh level → s.cm.call.state ≠ .idle →
          let target := if level = .high then Attendance.attended else .unattended
          exec (.attendSwitchChange level) s =
            .next (settle
              { s with
                mt.switchAttended := isHigh level
                au.pending := if s.au.attendance = target then none else some (target, .switch) }))
      ∧ (∀ left, s.au.attendTimer = some left → s.au.attendance = .unattended → s.cm.call.state ≠ .idle →
          exec .attendTimerExpiry s =
            .next (settle { elapse left s with au.attendTimer := none, au.pending := none }))
      ∧ (∀ left, s.au.attendTimer = some left → s.au.attendance = .attended → s.cm.call.state ≠ .idle →
          exec .attendTimerExpiry s =
            .next (settle
              { elapse left s with au.attendTimer := none, au.pending := some (.unattended, .timeout) }))
      ∧ (∀ left, s.au.attendTimer = some left → s.cm.call.state = .idle →
          ∃ t, exec .attendTimerExpiry s = .next t ∧ t.au.attendance = .unattended ∧ t.au.attendTimer = none)

/-- The AU's answer at the ring timer's end (R164, R166): with FILE in W0's route the unattended test decides between
ACCEPT and REFUSE FILE FULL; without it the answer is REFUSE NO ANSWER. A REFUSE leaves the record IDLE. -/
def Obligations.RingTimerAnswers : Prop :=
  ∀ (s : State) (left : Tick), s.au.ringTimer = some left → s.au.ring = .ringing → s.cm.call.state = .ringing →
    s.lu.joinState = .joined → s.lu.restartClear = false →
    let file := s.cl.config.windows[0].route.file
    let room := slotFree s = true ∧ 12 < s.cs.free.length + reclaimable s
    (file = true ∧ room →
        ∃ t, exec .ringTimerExpiry s = .next t ∧ t.cm.call.state = .ringing ∧ t.cm.call.answer = .acceptSent
          ∧ t.au.ring = .answered ∧ t.au.autoAnswered = true ∧ t.mt.cadence = none
          ∧ ∃ e ∈ t.lu.control, e.content.kind = .accept)
      ∧ (¬ (file = true ∧ room) →
          ∃ t, exec .ringTimerExpiry s = .next t ∧ t.cm.call.state = .idle ∧ t.au.ring = .none ∧ t.mt.cadence = none
            ∧ ∃ e ∈ t.lu.control, e.content.kind = .refuse
              ∧ (e.content.text = [if file = true then 3 else 4]
                ∨ e.beside.map Request.text = some [if file = true then 3 else 4]))

/-! ### Restart -/

/-- Restart (R30, R54, R97, R116, R135, R151, R178, R185): the call ends, SEND is flushed, the FIFO, edit stack and
dial buffer are emptied, the run ended, the view FREE, presence sampled again; case, mode, number, clock and
configuration are kept, and the printer's values where no operation starts (none in hand, or one in progress). With an
OPEN or AWAITING call, JOINED on a CLEAR line, the LU takes the restart CLEAR; else LISTEN. The units read of a
telegram that restart discards are the command's, and are counted before it (R47, log 17): where they hold the 48th
space of a run, the line is BROKEN first, its break timer runs, and the LU goes to LISTEN with nothing to send. Of a
telegram past its Check the Turn's two units are counted, those of its ACK slot are not; a mark in that slot, which
this station did not take, ends the run (R47, log 17). RESTART's own position is DOWN afterwards (R99). An OPEN call is
left as R95 says: its file record, in a file in order (FileStaysInOrder), closes CUT with the minute of its completion
(R170), and stays, unless an auto replay that follows finds it with no cell and keep-printed is off (R173, R175, R178);
an END goes to PRINT and to PUNCH where that queue's mark is present, and the marks are taken away (R26, R30): said here
for a queue within its limit whose newest block has room for the END, and for PRINT with the edit stack empty and no
line break before it, where nothing is appended ahead of it. -/
def Obligations.RestartActs : Prop :=
  ∀ (s : State) (lines : RestartLines), loaded s = true → s.ku.scan[45]?.map KeyScan.level = some .up →
      let counted : List Bool :=
        match s.lu.receive with
        | .hunting => []
        | .framing _ _ none => lines.units
        | .framing _ _ (some _) => lines.units.take 2
      let leaves (t : State) : Prop :=
        s.cm.call.state = .opened →
          t.cm.call.fileLink = none ∧ t.cm.call.holdSet = [] ∧ t.cm.call.heldByMe = false
            ∧ t.cs.print.openMark = none ∧ t.cs.punch.openMark = none
            ∧ (fileInOrder s → ∀ x ∈ s.au.file, s.cm.call.fileLink = some x.slot →
                (∀ y ∈ t.au.file, y.slot = x.slot →
                    y.state = .cut ∧ y.completedAt = some s.au.clock ∧ y.number = x.number ∧ y.chain = x.chain)
                  ∧ (s.cl.config.keepPrinted = true ∨ x.chain.count ≠ 0 → ∃ y ∈ t.au.file, y.slot = x.slot))
            ∧ (blocksHaveOneHolder s →
                (s.cs.punch.openMark = none → t.cs.queueCells .punch = s.cs.queueCells .punch)
                  ∧ ∀ n, s.cs.punch.openMark = some n → s.cs.punch.blocksNeeded [.boundary .finish n] = 0 →
                      s.cs.punch.blockCount ≤ s.cs.punch.limit →
                      t.cs.queueCells .punch = s.cs.queueCells .punch ++ [.boundary .finish n])
      ((s.lu.receive ≠ .hunting → unbroken counted s) →
        ∃ t, exec (.restart lines) s = .next t
          ∧ t.ku.scan = s.ku.scan.set 45 ⟨.down, 0⟩ ∧ leaves t
          ∧ (s.cm.call.state = .opened → blocksHaveOneHolder s →
              ∀ n, s.cs.print.openMark = some n → s.cs.print.blocksNeeded [.boundary .finish n] = 0 →
                s.ku.editStack = [] → s.cs.print.blockCount ≤ s.cs.print.limit →
                s.cs.queueCells .print ++ [.boundary .finish n] <+: t.cs.queueCells .print)
          ∧ t.cm.call.state = .idle ∧ t.cm.view = LineView.reset ∧ t.cm.sendTimer = .stopped
          ∧ t.cm.breakTimer = s.cm.breakTimer
          ∧ t.cs.send.cellCount = 0 ∧ t.cs.send.inFlight = 0
          ∧ t.ku.fifo = [] ∧ t.ku.editStack = [] ∧ t.ku.dial = [] ∧ t.ku.case = s.ku.case ∧ t.ku.mode = s.ku.mode
          ∧ t.tu.run = none ∧ t.tu.tape = s.tu.tape ∧ t.tu.tapeIn = s.tu.tapeIn
          ∧ t.pu.present = isHigh lines.printer ∧ t.tu.punchPresent = isHigh lines.punch
          ∧ t.tu.readerPresent = isHigh lines.reader ∧ (s.au.cursor ≠ none → t.pu.source = .queue)
          ∧ t.pu.paper = s.pu.paper ∧ t.pu.heatTimer = s.pu.heatTimer
          ∧ (s.pu.work = none ∨ s.pu.op ≠ none →
              t.pu.op = s.pu.op ∧ t.pu.opLeft = s.pu.opLeft ∧ t.pu.lastOp = s.pu.lastOp ∧ t.pu.column = s.pu.column
                ∧ t.pu.shift = s.pu.shift ∧ t.pu.lastOrigin = s.pu.lastOrigin ∧ t.pu.heat = s.pu.heat
                ∧ t.pu.throttle = s.pu.throttle
                ∧ ((∀ w, s.pu.work = some w → w.source = .queue) → t.pu.work = s.pu.work))
          ∧ t.au.clock = s.au.clock ∧ t.au.nextNumber = s.au.nextNumber ∧ t.au.ring = .none ∧ t.au.autoAnswered = false
          ∧ t.au.pending = none ∧ t.cl = s.cl
          ∧ t.lu.slot = none ∧ t.lu.text = none ∧ t.lu.condition = s.lu.condition
          ∧ t.lu.spaceRun =
              (match s.lu.receive with
              | .hunting => s.lu.spaceRun
              | .framing _ _ none => spaceRunThrough counted s.lu.spaceRun
              | .framing _ _ (some f) =>
                if f.taken = false ∧ true ∈ (lines.units.drop 2).take 2 then 0
                else spaceRunThrough counted s.lu.spaceRun)
          ∧ t.lu.spaceLeft =
              (let last (read : List Bool) : Tick :=
                if read.getLast? = some false then min (unitTime s) ((read.length + 1) * unitTime s - s.lu.frameTime)
                else 0
              match s.lu.receive with
              | .hunting => s.lu.spaceLeft
              | .framing _ _ none => last lines.units
              | .framing _ _ (some f) => last (framedUnits f.telegram ++ lines.units))
          ∧ (let party := (s.cm.call.state = .opened ∨ s.cm.call.state = .awaiting) ∧ s.lu.joinState = .joined
                ∧ s.lu.condition = .clear
            (party → t.lu.joinState = .joined ∧ t.lu.restartClear = true
                ∧ t.lu.control = [⟨⟨.clear, s.cm.call.partyAddr, [4], .cmNoOutcome, 0⟩, 0, 0, .ready, false, none⟩])
              ∧ (¬ party → t.lu.joinState = .listen ∧ t.lu.control = [] ∧ t.lu.quiet = 0
                ∧ t.lu.listenWindow = some (sec 30) ∧ t.lu.receive = .hunting)))
        ∧ (s.lu.receive ≠ .hunting → ¬ unbroken counted s →
          ∃ t, exec (.restart lines) s = .next t
            ∧ t.ku.scan = s.ku.scan.set 45 ⟨.down, 0⟩ ∧ leaves t
            ∧ t.lu.condition = .broken ∧ t.cm.breakTimer = some (sec 5) ∧ t.lu.joinState = .listen
            ∧ t.lu.receive = .hunting ∧ t.lu.slot = none ∧ t.lu.control = [] ∧ t.lu.text = none ∧ t.lu.restartClear = false
            ∧ t.cm.call.state = .idle ∧ t.cm.view = LineView.reset ∧ t.cs.send.cellCount = 0 ∧ t.ku.fifo = []
            ∧ t.ku.editStack = [] ∧ t.tu.run = none ∧ t.cl = s.cl)

/-! ### The printer -/

/-- The printer takes a cell when it is ready (R23, R123, R126, R127): a BOUNDARY END needs nothing; a LETTER or FIGURE
in the printer's case, away from the right margin, is struck at once, in 100 or 200 ms by the throttle, heating by 10
and moving the carriage; the cell leaves PRINT in the same act. That the throttle is read before the STRIKE's own heat
is log 8's. The operations that a cell needs: origin separation (R126), START (R127), wrap (R122), the first CR where
the column is UNKNOWN, the SHIFT (R125), the character's own (R123). Which source gives the cell: PRINT before the
cursor at a line boundary, else the source held (R128). The first operation starts, with the effects PrintOperations
states; the cell leaves PRINT, or the cursor goes past it and may end (R173). An LF joins a CR alone in progress (R124;
what is alone: log 9). -/
def Obligations.PrinterTakesACell : Prop :=
  (∀ (s : State) (col : Nat), loaded s = true → s.pu.present = true → s.pu.paper ≠ .out → s.mt.motor = .running →
    s.pu.op = none → s.pu.work = none → s.pu.source = .queue → s.pu.column = some col →
    (∀ n, s.cs.headCell .print = some (.boundary .finish n) →
      exec .puTakeCell s = .next (settle (removeHead .print s)))
      ∧ (∀ r o, s.cs.headCell .print = some (.character r o) →
          (Resolved.caseNeeded r = s.pu.shift ∧ s.pu.shift ≠ none ∧ r ≠ .bell) → col < s.cl.config.width →
          (col = 1 ∨ s.pu.lastOrigin = none ∨ s.pu.lastOrigin = some (printOrigin .queue o)
            ∨ s.cl.config.originSeparation = false) →
          let heat := min 1000 (s.pu.heat + 10)
          exec .puTakeCell s =
            .next (settle (removeHead .print
              { s with
                pu.op := some .strike
                pu.opLeft := if s.pu.throttle = true then ms 200 else ms 100
                pu.column := some (col + 1)
                pu.heat := heat
                pu.throttle := if s.pu.throttle = true then decide (400 < heat) else decide (600 ≤ heat)
                pu.lastOrigin := some (printOrigin .queue o)
                pu.work := some ⟨.character r o, .queue, false, []⟩ }))))
    ∧ (∀ (s : State) (src : Source),
      let above := ∃ col, s.pu.column = some col ∧ 1 < col
      (∀ n, opsFor s src (.boundary .start n) = (if s.cl.config.originSeparation = true ∧ above then [.crLf] else [])
          ∧ opsFor s src (.boundary .finish n) = [])
        ∧ ∀ r o,
          let origin := printOrigin src o
          let separates :=
            s.cl.config.originSeparation = true ∧ s.pu.lastOrigin ≠ none ∧ s.pu.lastOrigin ≠ some origin ∧ above
          let column := if separates then some 1 else s.pu.column
          let own : PrintOp :=
            match r with
            | .letter _ => .strike | .figure _ => .strike | .bell => .bell | .space => .space | .cr => .cr | .lf => .lf
          let wraps :=
            s.cl.config.wrap = true ∧ (own = .strike ∨ own = .space) ∧ column = some s.cl.config.width
          let shift : List PrintOp :=
            match Resolved.caseNeeded r with
            | some k => if s.pu.shift = some k then [] else [.shift k]
            | none => []
          opsFor s src (.character r o) =
            (if separates then [.crLf] else []) ++ (if wraps then [.crLf] else [])
              ++ (if wraps ∨ column ≠ none then shift ++ [own]
                else if r = .cr then [.cr]
                else if r = .lf then [.crLf]
                else .cr :: (shift ++ [own])))
    ∧ (∀ s : State,
      let boundary := s.pu.column = some 1 ∨ s.pu.lastOp = some .lf
      let queued := s.cs.headCell .print
      choose s =
        if boundary then
          match queued, cursorCell s with
          | some c, _ => some (.queue, c)
          | none, some c => some (.cursor, c)
          | none, none => none
        else if s.pu.source = .queue then queued.map fun c => (.queue, c)
        else (cursorCell s).map fun c => (.cursor, c))
    ∧ (∀ s : State,
      (s.au.cursor = none → cursorCell s = none)
        ∧ ∀ c, s.au.cursor = some c →
          (c.headerPending = true → cursorCell s = none)
            ∧ ∀ r, c.headerPending = false → s.au.file.find? (fun x => x.slot = c.record) = some r →
              cursorCell s = s.cs.chainCell r.chain c.offset)
    ∧ ∀ (s : State) (src : Source) (cell : Cell),
      loaded s = true → s.pu.present = true → s.pu.paper ≠ .out → s.mt.motor = .running →
      choose s = some (src, cell) →
      let last := match cell with | .character _ o => some (printOrigin src o) | .boundary _ _ => s.pu.lastOrigin
      let begun (work : Option PrintWork) : State := { s with pu.source := src, pu.lastOrigin := last, pu.work := work }
      let left (u : State) : State :=
        match src with
        | .queue => removeHead .print u
        | .cursor => finishCursor { u with au.cursor := u.au.cursor.map fun c => { c with offset := c.offset + 1 } }
      (s.pu.op = none → s.pu.work = none →
          (opsFor s src cell = [] → exec .puTakeCell s = .next (settle (left (begun none))))
            ∧ ∀ op rest, opsFor s src cell = op :: rest →
              exec .puTakeCell s =
                .next (settle (left (startPrintOp op (begun (some ⟨cell, src, false, rest⟩))))))
        ∧ (∀ w o, s.pu.op = some .cr → s.pu.work = some w → w.todo = [] → cell = .character .lf o →
          exec .puTakeCell s =
            .next (settle (left
              { begun (some ⟨cell, src, false, []⟩) with pu := { (begun (some ⟨cell, src, false, []⟩)).pu with
                  op := some .crLf
                  opLeft := max s.pu.opLeft (ms 100) } })))
        ∧ (s.pu.op ≠ none ∨ s.pu.work ≠ none →
          ¬ (s.pu.op = some .cr ∧ (∀ w, s.pu.work = some w → w.todo = []) ∧ ∃ o, cell = .character .lf o) →
          exec .puTakeCell s = .next s)

/-- An operation of the printer completes (R121 to R125, R132, R152): last operation holds it, a CR from an UNKNOWN
column leaves column 1, and so does a pair (CR joined by LF), at the pair's end (log 30); with no more to do the work
in hand is done; else its next operation starts, with its duration and its effect at the start; with the paper OUT or
the motor not RUNNING it waits. An operation that completes with no work in hand (dropped with a cursor that was
abandoned: R129) ends in the same way and starts nothing. Each operation's duration and effect at its start, whatever
starts it: a CR's time is by the column it starts from, an UNKNOWN column reckoned as W, and stays UNKNOWN until it ends
(R122, R123); a pair lasts the longer of CR and LF (R124); that a STRIKE's time is by the throttle before its own heat
is log 8's. So does the first cell from an UNKNOWN column start with a CR, or an LF with a pair (R123, log 30). -/
def Obligations.PrintOperations : Prop :=
  (∀ (s : State) (op : PrintOp) (w : PrintWork), loaded s = true → s.pu.op = some op → s.pu.work = some w →
      let e := elapse s.pu.opLeft s
      let width := s.cl.config.width
      let col := if (op = .cr ∨ op = .crLf) ∧ s.pu.column = none then some 1 else s.pu.column
      let onward := col.map fun c => if c < width then c + 1 else c
      let heat := min 1000 (s.pu.heat + 10)
      let done : PrintUnit :=
        { e.pu with op := none, opLeft := 0, lastOp := some (if op = .crLf then .lf else op), column := col }
      (w.todo = [] → exec .printOpComplete s = .next (settle { e with pu := { done with work := none } }))
        ∧ (w.todo ≠ [] → s.pu.paper = .out ∨ s.mt.motor ≠ .running →
            exec .printOpComplete s = .next (settle { e with pu := done }))
        ∧ (∀ next rest, w.todo = next :: rest → s.pu.present = true → s.pu.paper ≠ .out → s.mt.motor = .running →
            let go (time : Tick) : PrintUnit :=
              { done with work := some { w with todo := rest }, op := some next, opLeft := time }
            (∀ k, next = .shift k →
                exec .printOpComplete s = .next (settle { e with pu := { go (ms 100) with shift := some k } }))
              ∧ (next = .lf → exec .printOpComplete s = .next (settle { e with pu := go (ms 100) }))
              ∧ (next = .bell →
                  exec .printOpComplete s =
                    .next (settle { e with pu := go (ms 100), mt.pulses := e.mt.pulses ++ [⟨.printer, ms 100⟩] }))
              ∧ (next = .space →
                  exec .printOpComplete s =
                    .next (settle
                      { e with
                        pu := { go (ms 100) with
                          column := onward
                          shift := if s.cl.config.unshiftOnSpace = true then some .ltrs else s.pu.shift } }))
              ∧ (next = .strike →
                  exec .printOpComplete s =
                    .next (settle
                      { e with
                        pu := { go (if s.pu.throttle = true then ms 200 else ms 100) with
                          column := onward
                          heat := heat
                          throttle := if s.pu.throttle = true then decide (400 < heat) else decide (600 ≤ heat) } }))
              ∧ (next = .cr →
                  exec .printOpComplete s =
                    .next (settle
                      { e with
                        pu := { go (ms (60 + 3 * (col.getD width - 1))) with column := col.map fun _ => 1 } }))
              ∧ (next = .crLf →
                  exec .printOpComplete s =
                    .next (settle
                      { e with
                        pu := { go (max (ms (60 + 3 * (col.getD width - 1))) (ms 100)) with
                          column := col.map fun _ => 1 } }))))
    ∧ (∀ s : State,
      let go (op : PrintOp) (time : Tick) : PrintUnit := { s.pu with op := some op, opLeft := time }
      let width := s.cl.config.width
      let onward := s.pu.column.map fun c => if c < width then c + 1 else c
      let back := s.pu.column.map fun _ => 1
      let heat := min 1000 (s.pu.heat + 10)
      let crTime := ms (60 + 3 * (s.pu.column.getD width - 1))
      startPrintOp .strike s =
          { s with
            pu := { go .strike (if s.pu.throttle = true then ms 200 else ms 100) with
              column := onward
              heat := heat
              throttle := if s.pu.throttle = true then decide (400 < heat) else decide (600 ≤ heat) } }
        ∧ (∀ k, startPrintOp (.shift k) s = { s with pu := { go (.shift k) (ms 100) with shift := some k } })
        ∧ startPrintOp .space s =
            { s with
              pu := { go .space (ms 100) with
                column := onward
                shift := if s.cl.config.unshiftOnSpace = true then some .ltrs else s.pu.shift } }
        ∧ startPrintOp .lf s = { s with pu := go .lf (ms 100) }
        ∧ startPrintOp .bell s =
            { s with pu := go .bell (ms 100), mt.pulses := s.mt.pulses ++ [⟨.printer, ms 100⟩] }
        ∧ startPrintOp .cr s = { s with pu := { go .cr crTime with column := back } }
        ∧ startPrintOp .crLf s = { s with pu := { go .crLf (max crTime (ms 100)) with column := back } })
    ∧ (∀ (s : State) (r : Resolved) (o : Origin), loaded s = true → s.pu.present = true → s.pu.paper ≠ .out →
      s.mt.motor = .running → s.pu.op = none → s.pu.work = none → s.pu.column = none →
      choose s = some (.queue, .character r o) →
      let crTime := ms (60 + 3 * (s.cl.config.width - 1))
      let started (op : PrintOp) (time : Tick) (rest : List PrintOp) : State :=
        removeHead .print
          { s with
            pu.source := .queue
            pu.lastOrigin := some (printOrigin .queue o)
            pu.op := some op
            pu.opLeft := time
            pu.work := some ⟨.character r o, .queue, false, rest⟩ }
      (r = .lf → exec .puTakeCell s = .next (settle (started .crLf (max crTime (ms 100)) [])))
        ∧ (r ≠ .lf → ∃ rest, opsFor s .queue (.character r o) = .cr :: rest
            ∧ exec .puTakeCell s = .next (settle (started .cr crTime rest))))
    ∧ ∀ (s : State) (op : PrintOp), loaded s = true → s.pu.op = some op → s.pu.work = none →
      let e := elapse s.pu.opLeft s
      exec .printOpComplete s =
        .next (settle
          { e with
            pu := { e.pu with
              op := none
              opLeft := 0
              lastOp := some (if op = .crLf then .lf else op)
              column := if (op = .cr ∨ op = .crLf) ∧ s.pu.column = none then some 1 else s.pu.column } })

/-- The heat timer takes 6 away, down to 0, and runs again (R130); the throttle follows the count (R131). The station
clock counts a minute, and wraps after 65535 (R168). The bell's pulses, the ringing cadence and the CALL lamp's flash
end their phases (R156, R158). The outputs: the MOTOR pin (R152), the bell (R156), the lamps (R158), and the auxiliary
terminals, a terminal of an input function undriven (R157); that they are computed from the rest of the state is log
18's. -/
def Obligations.HeatClockBellAndFlash : Prop :=
  (∀ (s : State) (left : Tick),
      (s.pu.heatTimer = some left →
        exec .heatTimerExpiry s =
          .next (settle
            { elapse left s with
              pu := { (elapse left s).pu with
                heat := s.pu.heat - 6
                throttle := if s.pu.throttle = true then decide (400 < s.pu.heat - 6) else decide (600 ≤ s.pu.heat - 6)
                heatTimer := some (ms 100) } }))
        ∧ (s.au.minuteLeft = some left →
            exec .stationClockTick s =
              .next (settle
                { elapse left s with au.clock := s.au.clock + 1, au.minuteLeft := some (minutes 1) })))
    ∧ (∀ (s : State) (left : Tick),
      (∀ p rest, s.mt.pulses = p :: rest →
          exec .bellPulseExpiry s =
            .next (settle
              { elapse p.left s with mt := { (elapse p.left s).mt with pulses := (elapse p.left s).mt.pulses.tail } }))
        ∧ (∀ on, s.mt.cadence = some ⟨on, left⟩ →
            exec .cadencePhaseExpiry s =
              .next (settle
                { elapse left s with
                  mt := { (elapse left s).mt with
                    cadence := some (if on = true then ⟨false, sec 2⟩ else ⟨true, sec 1⟩) } }))
        ∧ (∀ on, s.mt.flash = some ⟨on, left⟩ →
            exec .callLampFlashExpiry s =
              .next (settle
                { elapse left s with mt := { (elapse left s).mt with flash := some ⟨!on, ms 500⟩ } })))
    ∧ ∀ s : State,
      let ringing := ∃ p, s.mt.cadence = some p ∧ p.on = true
      let flashes := ∃ p, s.mt.flash = some p ∧ p.on = true
      (motorPin s = true ↔ s.mt.motor = .starting ∨ s.mt.motor = .running)
        ∧ (bellOutput s = true ↔ s.mt.pulses ≠ [] ∨ ringing)
        ∧ (callLamp s = true ↔
            s.cm.call.state = .awaiting ∨ s.cm.call.state = .opened ∨ s.cm.call.state = .ringing ∧ flashes)
        ∧ (fileLamp s = true ↔ ∃ r ∈ s.au.file, r.printed = false)
        ∧ (faultLamp s = true ↔
            s.cl.fault = true ∨ s.lu.joinState = .listenOnly ∨ s.lu.condition = .broken ∨ s.mt.motor = .faulted)
        ∧ (loaded s = false → ∀ i, auxTerminal s i = some false)
        ∧ (loaded s = true → ∀ i,
            auxTerminal s i =
              match s.cl.config.aux[i] with
              | .unused => some false
              | .bell => some (bellOutput s)
              | .callLamp => some (callLamp s)
              | .engagedLamp => some (decide (s.cm.view.state ≠ .free))
              | .fileLamp => some (fileLamp s)
              | .faultLamp => some (faultLamp s)
              | .attendedLamp => some (decide (s.au.attendance = .attended))
              | .tapeLowLamp => some (decide (s.tu.tape ≠ .good))
              | .paperLowLamp => some (decide (s.pu.paper ≠ .good))
              | .motorSense => none
              | .attendSwitch => none
              | .runLamp => some (decide (s.mt.motor = .running)))
        ∧ ∀ f i, auxInput f s.cl.config = some i ↔ s.cl.config.aux[i] = f ∧ ∀ j, j < i → s.cl.config.aux[j] ≠ f

/-- The sense lines (R119, R137, R143): a low first line is OUT, both high GOOD, high and low LOW, and TAPE IN follows
its line. Paper that neither enters nor leaves OUT changes no availability, nor does any at a printer ABSENT or FAULTED;
where it changes, the flow levels are tested with PRINT in the route (R28, R120), and then: entering OUT abandons the
cursor, with the character in hand from it dropped unless its cursor had ended, and no operation starts (R129, R132,
R176); leaving OUT, the AU's tests for FOLLOW and auto replay are made (R172, R175; what they do:
FilePrintAndHeaderRetry), and the work in hand goes on with the operation that was next in it (R132; its effect:
PrintOperations). Tape that leaves OUT is new: the punch shift is UNKNOWN, and a letter, figure or bell in hand has its
codes found again from UNKNOWN (R141); the flow levels are tested where availability changes with PUNCH in the route
(R138); the work in hand goes on with its next code. Nothing else follows. -/
def Obligations.SuppliesFollowTheirLines : Prop :=
  ∀ (s : State) (a b : Level), loaded s = true →
    let supply : Supply := if a = .low then .out else if b = .high then .good else .low
    let printing (u : State) : State :=
      match u.pu.op, u.pu.work with
      | none, some w =>
        match w.todo with
        | next :: rest =>
          if u.pu.present = true ∧ u.pu.paper ≠ .out ∧ u.mt.motor = .running then
            startPrintOp next { u with pu.work := some { w with todo := rest } }
          else u
        | [] => { u with pu.work := none }
      | _, _ => u
    let paper : State := { s with pu.paper := supply }
    let told : State := if s.cm.call.route.print = true then flowTest paper else paper
    let able := s.pu.present = true ∧ s.mt.motor ≠ .faulted
    let kept (w : PrintWork) : Bool := decide (w.source ≠ .cursor) || w.kept
    let found (w : PunchWork) : PunchWork :=
      if w.todo = [] then w
      else
        match w.cell with
        | .character (.letter c) _ => { w with todo := [31, c] }
        | .character (.figure c) _ => { w with todo := [30, c] }
        | .character .bell _ => { w with todo := [30, 26] }
        | _ => w
    let punching (u : State) : State :=
      match u.tu.punchOp, u.tu.punchWork with
      | none, some w =>
        match w.todo with
        | next :: rest =>
          if u.tu.punchPresent = true ∧ u.tu.tape ≠ .out ∧ u.mt.motor = .running then
            { u with
              tu.punchOp := some next
              tu.punchLeft := ms 100
              tu.punchShift := punchShiftAfter (unshift u) next u.tu.punchShift
              tu.punchWork := some { w with todo := rest } }
          else u
        | [] => { u with tu.punchWork := none }
      | _, _ => u
    let tape : State :=
      if s.tu.tape = .out ∧ supply ≠ .out then
        { s with tu.tape := supply, tu.punchShift := none, tu.punchWork := s.tu.punchWork.map found }
      else { s with tu.tape := supply }
    let changes := s.tu.punchPresent = true ∧ s.mt.motor ≠ .faulted ∧ ¬ (s.tu.tape = .out ↔ supply = .out)
    (¬ able ∨ (s.pu.paper = .out ↔ supply = .out) →
        exec (.paperStateChange a b) s = .next (settle (printing paper)))
      ∧ (able → s.pu.paper ≠ .out → supply = .out →
          (s.au.cursor = none → exec (.paperStateChange a b) s = .next (settle (printing told)))
            ∧ ∀ c, s.au.cursor = some c →
              exec (.paperStateChange a b) s =
                .next (settle (printing
                  { told with
                    au.cursor := none
                    au.headerRetryDue := false
                    pu.source := .queue
                    pu.work := s.pu.work.filter kept })))
      ∧ (able → s.pu.paper = .out → supply ≠ .out →
          exec (.paperStateChange a b) s = .next (settle (printing (auTests told))))
      ∧ exec (.tapeStateChange a b) s =
          .next (settle (punching (if changes ∧ s.cm.call.route.punch = true then flowTest tape else tape)))
      ∧ exec (.tapeInChange a) s = .next (settle { s with tu.tapeIn := decide (a = .high) })

/-! ### Punch and reader -/

/-- The punch takes the head cell of PUNCH with the codes it needs, and its first code's operation starts (R136, R139);
each completes in 100 ms and the next starts; a START is six NULLs and code 31, an END six NULLs. A CHARACTER's codes
are those of generation with the punch shift: a letter, figure or bell with the shift code before it where the shift is
not its case or is UNKNOWN; SPACE, CR and LF one code (R8, R139). The punch shift follows the codes punched: 31 and,
with unshift-on-space, SPACE give LTRS, 30 gives FIGS, no other moves it (R139). -/
def Obligations.PunchTakesAndPunches : Prop :=
  (∀ s : State, loaded s = true → s.tu.punchPresent = true → s.tu.tape ≠ .out → s.mt.motor = .running →
    (∀ n, punchCodes s (.boundary .start n) = [0, 0, 0, 0, 0, 0, 31]
        ∧ punchCodes s (.boundary .finish n) = [0, 0, 0, 0, 0, 0])
      ∧ (∀ c code rest, s.tu.punchOp = none → s.tu.punchWork = none → s.cs.headCell .punch = some c →
          punchCodes s c = code :: rest →
          exec .punchTakeCell s =
            .next (settle (removeHead .punch
              { s with
                tu.punchWork := some ⟨c, rest⟩
                tu.punchOp := some code
                tu.punchLeft := ms 100
                tu.punchShift := punchShiftAfter s.cl.config.unshiftOnSpace code s.tu.punchShift })))
      ∧ (∀ c w code rest, s.tu.punchOp = some c → s.tu.punchWork = some w → w.todo = code :: rest →
          exec .punchOpComplete s =
            .next (settle
              { elapse s.tu.punchLeft s with
                tu := { (elapse s.tu.punchLeft s).tu with
                  punchWork := some { w with todo := rest }
                  punchOp := some code
                  punchLeft := ms 100
                  punchShift := punchShiftAfter s.cl.config.unshiftOnSpace code s.tu.punchShift } }))
      ∧ (∀ c w, s.tu.punchOp = some c → s.tu.punchWork = some w → w.todo = [] →
          exec .punchOpComplete s =
            .next (settle
              { elapse s.tu.punchLeft s with
                tu := { (elapse s.tu.punchLeft s).tu with punchWork := none, punchOp := none, punchLeft := 0 } })))
    ∧ ∀ (s : State) (o : Origin) (c : Code) (k : Option Case) (unshiftOn : Bool),
      let codes (r : Resolved) : List Code := punchCodes s (.character r o)
      codes (.letter c) = (if s.tu.punchShift = some .ltrs then [c] else [31, c])
        ∧ codes (.figure c) = (if s.tu.punchShift = some .figs then [c] else [30, c])
        ∧ codes .bell = (if s.tu.punchShift = some .figs then [26] else [30, 26])
        ∧ codes .space = [16] ∧ codes .cr = [1] ∧ codes .lf = [2]
        ∧ punchShiftAfter unshiftOn c k =
            if c = 31 ∨ c = 16 ∧ unshiftOn = true then some .ltrs else if c = 30 then some .figs else k

/-- A reader run's steps (R146 to R148): a RUNNING run with TAPE IN and room starts a cycle of 100 ms, and with no room
goes PAUSED; a cycle's code is resolved by the reader shift, a NULL counted, a character appended and counted, in a run
without a limit and in one below its limit. Codes 30 and 31, said here after fewer than seven NULLs in succession, give
no character and move the reader shift to FIGS and to LTRS; with a character it goes as the resolver leaves it, so that
SPACE too moves it, to LTRS, with unshift-on-space on (R5, R10). A PAUSED run goes on when a block-released event (held
until then: log 6) finds room. Room is that of one cell of class RESPECT in the destination, by its limit and the reserve
(R18, R19, R146). A run's ends: no tape at a cycle's start, and the eighth NULL in succession, end it with TAPE END; the
character that brings the count to its limit ends it with RUN DONE and the count (R149); a cycle that a run's end finds
in progress is dropped when it completes (R150). A character refused is held, the run PAUSED, and appended first when it
goes on (R148). -/
def Obligations.ReaderRunSteps : Prop :=
  (∀ (s : State) (r : ReaderRun), loaded s = true → s.tu.run = some r →
    (r.state = .running → r.held = none → s.tu.cycle = none → s.mt.motor = .running → s.tu.tapeIn = true →
        (cellFits r.destination s = true →
          exec .readerCycleStart s = .next (settle { s with tu.cycle := some ⟨ms 100, false⟩ }))
          ∧ (cellFits r.destination s = false →
            exec .readerCycleStart s = .next (settle { s with tu.run := some { r with state := .paused } })))
      ∧ (∀ left, s.tu.cycle = some ⟨left, false⟩ → r.blanks < 7 →
          exec (.readerCycleComplete 0) s =
            .next (settle
              { elapse left s with tu.cycle := none, tu.run := some { r with blanks := r.blanks + 1 } })
            ∧ exec (.readerCycleComplete 30) s =
              .next (settle
                { elapse left s with tu.cycle := none, tu.run := some { r with blanks := 0, shift := .figs } })
            ∧ exec (.readerCycleComplete 31) s =
              .next (settle
                { elapse left s with tu.cycle := none, tu.run := some { r with blanks := 0, shift := .ltrs } }))
      ∧ (∀ left code ch k u, s.tu.cycle = some ⟨left, false⟩ → resolve (unshift s) r.shift code = (some ch, k) →
          r.limit = 0 ∨ min 999 (r.count + 1) ≠ r.limit →
          appendRun r.destination .respect [.character ch .reader] { elapse left s with tu.cycle := none } = some u →
          exec (.readerCycleComplete code) s =
            .next (settle
              { u with
                tu.run := some { r with
                  shift := k, blanks := 0, count := min 999 (r.count + 1), held := none, state := .running } }))
      ∧ (r.state = .paused → s.tu.resumeDue = true → r.held = none →
          (cellFits r.destination s = true →
            exec .readerResume s =
              .next (settle { s with tu.resumeDue := false, tu.run := some { r with state := .running } }))
            ∧ (cellFits r.destination s = false →
              exec .readerResume s = .next (settle { s with tu.resumeDue := false }))))
    ∧ (∀ (s : State) (n : QueueName),
      let q := s.cs.queue n
      let needed := if q.tail ≠ none ∧ q.tailIndex < 31 then 0 else 1
      cellFits n s = true ↔ q.blockCount + needed ≤ q.limit ∧ (needed = 0 ∨ needed + 5 ≤ s.cs.free.length))
    ∧ ∀ (s : State) (r : ReaderRun), loaded s = true → s.tu.run = some r →
      let ended (u : State) : State :=
        { u with
          tu := { u.tu with
            run := none, resumeDue := false, cycle := u.tu.cycle.map fun c => { c with dropped := true } }
          cm.call.readerLink := if r.destination = .send then false else u.cm.call.readerLink }
      let cell (ch : Resolved) := [Cell.character ch .reader]
      let last (ch : Resolved) (u : State) : State :=
        let sent := u.cs.pushRun r.destination (cell ch)
        let run := (Notice.runDone (r.count + 1)).run
        let told := s.pu.present = true ∧ sent.spaceCheck .print .mayUse run = true
        let t : State :=
          { startSendTimer r.destination (cell ch) (ended u) with
            cs := if told then sent.pushRun .print run else sent }
        if (u.cs.queue r.destination).blocksNeeded (cell ch) ≠ 0 ∨ told ∧ sent.print.blocksNeeded run ≠ 0 then flowTest t
        else t
      (r.state = .running → r.held = none → s.tu.cycle = none → s.mt.motor = .running → s.tu.tapeIn = false →
          exec .readerCycleStart s = .next (settle (notice .tapeEnd (ended s))))
        ∧ (∀ left, s.tu.cycle = some ⟨left, false⟩ → 7 ≤ r.blanks →
            exec (.readerCycleComplete 0) s =
              .next (settle (notice .tapeEnd (ended { elapse left s with tu.cycle := none }))))
        ∧ (∀ left code, s.tu.cycle = some ⟨left, true⟩ →
            exec (.readerCycleComplete code) s = .next (settle { elapse left s with tu.cycle := none }))
        ∧ (∀ left code ch k, s.tu.cycle = some ⟨left, false⟩ → resolve (unshift s) r.shift code = (some ch, k) →
            let e : State := { elapse left s with tu.cycle := none }
            let r1 : ReaderRun := { r with shift := k, blanks := 0 }
            (appendRun r.destination .respect (cell ch) e = none →
                exec (.readerCycleComplete code) s =
                  .next (settle { e with tu.run := some { r1 with held := some ch, state := .paused } }))
              ∧ (appendRun r.destination .respect (cell ch) e ≠ none → r.count + 1 = r.limit → r.count < 999 →
                exec (.readerCycleComplete code) s = .next (settle (last ch e))))
        ∧ (∀ ch, r.state = .paused → s.tu.resumeDue = true → r.held = some ch →
            let e : State := { s with tu.resumeDue := false }
            (appendRun r.destination .respect (cell ch) e = none → exec .readerResume s = .next (settle e))
              ∧ (∀ u, appendRun r.destination .respect (cell ch) e = some u →
                r.limit = 0 ∨ min 999 (r.count + 1) ≠ r.limit →
                exec .readerResume s =
                  .next (settle
                    { u with
                      tu.run := some { r with count := min 999 (r.count + 1), held := none, state := .running } }))
              ∧ (appendRun r.destination .respect (cell ch) e ≠ none → r.count + 1 = r.limit → r.count < 999 →
                exec .readerResume s = .next (settle (last ch e))))

/-! ### Motor, bell, lamps -/

/-- The motor's timers and its sense (R153 to R155, R157). FAULTED is entered in one act (R155): the motor's timers but the
fault wait stop; the printer shift is UNKNOWN, so that the character in hand needs its SHIFT again (R133); where the
printer was available, the flow levels are tested with PRINT in the route (R28, R120), and the print cursor is
abandoned, the source QUEUE again and its character in hand dropped (R176); where the punch was, they are tested with
PUNCH in the route (R138); a reader run ends, the code of its cycle dropped, the link of one to SEND cleared (R149,
R150); and MOTOR FAULT is printed (R134). Nothing else moves, the file's records among it. A sense reading that no rule
gives more than its level leaves the rest as it is. -/
def Obligations.MotorTimersAndSense : Prop :=
  ∀ (s : State) (left : Tick),
    let again (w : PrintWork) : PrintWork :=
      let shifted (c : Case) : PrintWork :=
        match w.todo.getLast? with
        | some last => { w with todo := w.todo.dropLast.filter (fun op => op ≠ .shift c) ++ [.shift c, last] }
        | none => w
      match w.cell with
      | .character (.letter _) _ => shifted .ltrs
      | .character (.figure _) _ => shifted .figs
      | .character .bell _ => shifted .figs
      | _ => w
    let kept (w : PrintWork) : Bool := decide (w.source ≠ .cursor) || w.kept
    let faults (u : State) : State :=
      let off : State :=
        { u with
          mt := { u.mt with
            motor := .faulted, runUp := none, senseWindow := none, hold := none, faultWait := some (sec 10) }
          pu.shift := none
          pu.work := u.pu.work.map again }
      let told : State := if u.cm.call.route.print = true then flowTest off else off
      let printer : State :=
        if u.pu.present = true ∧ u.pu.paper ≠ .out then
          match u.au.cursor with
          | none => told
          | some _ =>
            { told with
              au.cursor := none
              au.headerRetryDue := false
              pu.source := .queue
              pu.work := off.pu.work.filter kept }
        else off
      let punch : State :=
        if u.tu.punchPresent = true ∧ u.tu.tape ≠ .out ∧ u.cm.call.route.punch = true then flowTest printer else printer
      notice .motorFault
        (match u.tu.run with
          | none => punch
          | some r =>
            { punch with
              tu.run := none
              tu.resumeDue := false
              tu.cycle := u.tu.cycle.map fun c => { c with dropped := true }
              cm.call.readerLink := if r.destination = .send then false else u.cm.call.readerLink })
    (s.mt.runUp = some left → s.mt.motor = .starting →
        (senseAssigned s = true → s.mt.senseRunning = false →
          exec .runUpExpiry s = .next (settle { elapse left s with mt := { (elapse left s).mt with runUp := none } }))
          ∧ (senseAssigned s = false ∨ s.mt.senseRunning = true →
            ∃ t, exec .runUpExpiry s = .next t ∧ t.mt.motor = .running ∧ t.mt.runUp = none ∧ t.mt.senseWindow = none))
      ∧ (s.mt.senseWindow = some left → s.mt.motor = .starting →
          ∃ t, exec .senseWindowExpiry s = .next t ∧ t.mt.motor = .faulted ∧ t.mt.faultWait = some (sec 10)
            ∧ t.mt.runUp = none ∧ t.mt.senseWindow = none ∧ t.mt.hold = none ∧ t.pu.shift = none ∧ t.tu.run = none
            ∧ faultLamp t = true ∧ t = settle (faults (elapse left s)) ∧ prints s t Notice.motorFault.run)
      ∧ (s.mt.hold = some left → s.mt.motor = .running → demandHeld s.mt = false → demandHeld (reportDemands s).mt = false →
          ∃ t, exec .motorHoldExpiry s = .next t ∧ t.mt.motor = .stopped ∧ t.mt.hold = none)
      ∧ (s.mt.faultWait = some left → s.mt.motor = .faulted →
          ∃ t, exec .faultWaitExpiry s = .next t ∧ t.mt.faultWait = none
            ∧ (demandHeld s.mt = true → t.mt.motor = .starting ∧ t.mt.runUp = some (ms 400))
            ∧ (demandHeld s.mt = false → t.mt.motor = .stopped ∨ t.mt.motor = .starting))
      ∧ (loaded s = true → senseAssigned s = true →
          (s.mt.motor = .running →
            ∃ t, exec (.motorSenseChange .low) s = .next t ∧ t.mt.motor = .faulted ∧ t.mt.senseRunning = false
              ∧ t.mt.faultWait = some (sec 10) ∧ t.mt.hold = none ∧ t.pu.shift = none ∧ t.tu.run = none
              ∧ faultLamp t = true ∧ t = settle (faults { s with mt.senseRunning := false })
              ∧ prints s t Notice.motorFault.run)
            ∧ (s.mt.motor = .starting → s.mt.runUp = none →
              ∃ t, exec (.motorSenseChange .high) s = .next t ∧ t.mt.motor = .running ∧ t.mt.senseRunning = true)
            ∧ (∀ level,
              s.mt.motor = .stopped ∨ s.mt.motor = .faulted ∨ s.mt.motor = .running ∧ level = .high
                ∨ s.mt.motor = .starting ∧ (level = .low ∨ s.mt.runUp ≠ none) →
              exec (.motorSenseChange level) s =
                .next (settle { s with mt.senseRunning := decide (level = .high) })))

end Statements
end

