-- ==== Sys2Proof/Laws/Frames.lean ====
section
/-!
SUPPORT. Frames of the shared operations. `storeCore` hides what the store's operations may change, `callCore` what
the call's and the file's may; an operation keeps everything else, said as one equation that simp rewrites with.
-/

namespace Sys2Proof.Machine

/-- The state with all that an append, a removal, a block event or a request may change hidden. -/
def storeCore (s : State) : State :=
  { s with
    cs := Store.reset Limits.default
    lu.control := []
    cm.sendTimer := .stopped
    cm.call.heldByMe := false
    cm.call.heldSince := none
    ku.retryDue := false
    tu.resumeDue := false
    au.headerRetryDue := false }

/-- The state with all that the call's and the file's operations may change hidden. -/
def callCore (s : State) : State :=
  { s with
    cs := Store.reset Limits.default
    lu.control := []
    lu.text := none
    cm := CallManager.reset
    ku.retryDue := false
    ku.editStack := []
    pu.source := .queue
    pu.work := none
    tu.run := none
    tu.cycle := none
    tu.resumeDue := false
    mt.cadence := none
    mt.flash := none
    au := AnsweringUnit.reset }

/-- What the store's operations keep, the call's keep too. -/
theorem callCore_of_storeCore {s t : State} (h : storeCore t = storeCore s) : callCore t = callCore s := by
  have := congrArg callCore h
  exact this

/-! ### The store's operations -/

@[simp] theorem storeCore_enterRequest (r : Request) (s : State) :
    storeCore { s with lu := enterRequest r s.lu } = storeCore s := by
  unfold enterRequest
  split
  · rfl
  · split <;> rfl

theorem storeCore_luRequest {r : Request} {s t : State} (h : luRequest r s = some t) : storeCore t = storeCore s := by
  unfold luRequest at h
  split at h
  · cases h; exact storeCore_enterRequest r s
  · cases h

@[simp] theorem storeCore_requestOrDrop (r : Request) (s : State) : storeCore (requestOrDrop r s) = storeCore s := by
  unfold requestOrDrop
  cases h : luRequest r s with
  | none => rfl
  | some t => exact storeCore_luRequest h

@[simp] theorem storeCore_queueHold (s : State) : storeCore (queueHold s) = storeCore s := storeCore_requestOrDrop _ _

@[simp] theorem storeCore_setHeld (s : State) : storeCore (setHeld s) = storeCore s :=
  storeCore_queueHold s

@[simp] theorem storeCore_clearHeld (s : State) : storeCore (clearHeld s) = storeCore s :=
  storeCore_requestOrDrop _ _

@[simp] theorem storeCore_flowTest (s : State) : storeCore (flowTest s) = storeCore s := by
  unfold flowTest
  split_ifs <;> simp

@[simp] theorem storeCore_blockReleased (s : State) : storeCore (blockReleased s) = storeCore s := by
  unfold blockReleased
  rw [storeCore_flowTest]; rfl

@[simp] theorem storeCore_blockTaken (s : State) : storeCore (blockTaken s) = storeCore s := storeCore_flowTest s

@[simp] theorem storeCore_signal (r t : Bool) (s : State) : storeCore (signal r t s) = storeCore s := by
  unfold signal
  cases r <;> cases t <;> simp

@[simp] theorem storeCore_startSendTimer (n : QueueName) (run : List Cell) (s : State) :
    storeCore (startSendTimer n run s) = storeCore s := by
  unfold startSendTimer
  split_ifs <;> rfl

@[simp] theorem storeCore_placeRun (n : QueueName) (run : List Cell) (s : State) :
    storeCore (placeRun n run s) = storeCore s := storeCore_startSendTimer n run s

@[simp] theorem storeCore_placeNotice (n : Notice) (s : State) : storeCore (placeNotice n s).1 = storeCore s := by
  unfold placeNotice
  split_ifs <;> simp

theorem storeCore_appendRun {n : QueueName} {c : ReserveClass} {run : List Cell} {s t : State}
    (h : appendRun n c run s = some t) : storeCore t = storeCore s := by
  unfold appendRun at h
  split at h
  · cases h
    rw [storeCore_signal, storeCore_placeRun]
  · cases h

@[simp] theorem storeCore_appendRun_getD (n : QueueName) (c : ReserveClass) (run : List Cell) (s : State) :
    storeCore ((appendRun n c run s).getD s) = storeCore s := by
  cases h : appendRun n c run s with
  | none => rfl
  | some t => exact storeCore_appendRun h

@[simp] theorem storeCore_notice (n : Notice) (s : State) : storeCore (notice n s) = storeCore s := by
  unfold notice
  split_ifs <;> simp

@[simp] theorem storeCore_noticeIf (n : Option Notice) (s : State) : storeCore (noticeIf n s) = storeCore s := by
  cases n <;> simp [noticeIf]

@[simp] theorem storeCore_removeHead (n : QueueName) (s : State) : storeCore (removeHead n s) = storeCore s := by
  unfold removeHead
  rw [storeCore_signal]; rfl

@[simp] theorem storeCore_flushSend (s : State) : storeCore (flushSend s) = storeCore s := by
  unfold flushSend
  rw [storeCore_signal]; rfl

@[simp] theorem storeCore_ackSend (s : State) : storeCore (ackSend s) = storeCore s := by
  unfold ackSend
  rw [storeCore_signal]; rfl

@[simp] theorem storeCore_appendEnd (n : QueueName) (s : State) : storeCore (appendEnd n s) = storeCore s := by
  unfold appendEnd
  split
  · rfl
  · exact storeCore_appendRun_getD _ _ _ _

/-! ### The call's and the file's operations -/

@[simp] theorem callCore_requestOrDrop (r : Request) (s : State) : callCore (requestOrDrop r s) = callCore s :=
  callCore_of_storeCore (storeCore_requestOrDrop r s)
@[simp] theorem callCore_queueHold (s : State) : callCore (queueHold s) = callCore s :=
  callCore_of_storeCore (storeCore_queueHold s)
@[simp] theorem callCore_setHeld (s : State) : callCore (setHeld s) = callCore s :=
  callCore_of_storeCore (storeCore_setHeld s)
@[simp] theorem callCore_flowTest (s : State) : callCore (flowTest s) = callCore s :=
  callCore_of_storeCore (storeCore_flowTest s)
@[simp] theorem callCore_signal (r t : Bool) (s : State) : callCore (signal r t s) = callCore s :=
  callCore_of_storeCore (storeCore_signal r t s)
@[simp] theorem callCore_startSendTimer (n : QueueName) (run : List Cell) (s : State) :
    callCore (startSendTimer n run s) = callCore s := callCore_of_storeCore (storeCore_startSendTimer n run s)
@[simp] theorem callCore_appendRun_getD (n : QueueName) (c : ReserveClass) (run : List Cell) (s : State) :
    callCore ((appendRun n c run s).getD s) = callCore s := callCore_of_storeCore (storeCore_appendRun_getD n c run s)
@[simp] theorem callCore_notice (n : Notice) (s : State) : callCore (notice n s) = callCore s :=
  callCore_of_storeCore (storeCore_notice n s)
@[simp] theorem callCore_noticeIf (n : Option Notice) (s : State) : callCore (noticeIf n s) = callCore s :=
  callCore_of_storeCore (storeCore_noticeIf n s)
@[simp] theorem callCore_placeNotice (n : Notice) (s : State) : callCore (placeNotice n s).1 = callCore s :=
  callCore_of_storeCore (storeCore_placeNotice n s)
@[simp] theorem callCore_removeHead (n : QueueName) (s : State) : callCore (removeHead n s) = callCore s :=
  callCore_of_storeCore (storeCore_removeHead n s)
@[simp] theorem callCore_flushSend (s : State) : callCore (flushSend s) = callCore s :=
  callCore_of_storeCore (storeCore_flushSend s)
@[simp] theorem callCore_ackSend (s : State) : callCore (ackSend s) = callCore s :=
  callCore_of_storeCore (storeCore_ackSend s)
@[simp] theorem callCore_appendEnd (n : QueueName) (s : State) : callCore (appendEnd n s) = callCore s :=
  callCore_of_storeCore (storeCore_appendEnd n s)

theorem callCore_appendRun {n : QueueName} {c : ReserveClass} {run : List Cell} {s t : State}
    (h : appendRun n c run s = some t) : callCore t = callCore s := callCore_of_storeCore (storeCore_appendRun h)

theorem callCore_luRequest {r : Request} {s t : State} (h : luRequest r s = some t) : callCore t = callCore s :=
  callCore_of_storeCore (storeCore_luRequest h)

theorem callCore_au (s : State) (a : AnsweringUnit) : callCore { s with au := a } = callCore s := rfl

@[simp] theorem callCore_updateRecord (i : Fin 24) (f : FileRecord → FileRecord) (s : State) :
    callCore (updateRecord i f s) = callCore s := rfl
@[simp] theorem callCore_dropRecord (r : FileRecord) (s : State) : callCore (dropRecord r s) = callCore s := rfl
@[simp] theorem callCore_dropPrinted (r : FileRecord) (s : State) : callCore (dropPrinted r s) = callCore s := by
  unfold dropPrinted; split_ifs <;> simp
@[simp] theorem callCore_fileChange (w : Bool) (s : State) : callCore (fileChange w s) = callCore s := by
  unfold fileChange; split_ifs <;> simp
@[simp] theorem callCore_freeCursor (e : Bool) (s : State) : callCore (freeCursor e s) = callCore s := rfl

@[simp] theorem callCore_endCursor (s : State) : callCore (endCursor s) = callCore s := by
  unfold endCursor
  split
  · rfl
  · split
    · rfl
    · simp

@[simp] theorem callCore_abandonCursor (s : State) : callCore (abandonCursor s) = callCore s := by
  unfold abandonCursor; split <;> simp

@[simp] theorem callCore_tryHeader (s : State) : callCore (tryHeader s) = callCore s := by
  unfold tryHeader
  split
  · rfl
  · split
    · split
      · rfl
      · split
        · rename_i s1 h
          have h1 := (callCore_appendRun h).trans (callCore_au s _)
          exact (callCore_au s1 _).trans h1
        · rfl
    · rfl

@[simp] theorem callCore_startReplay (r : FileRecord) (s : State) : callCore (startReplay r s) = callCore s := by
  have h : callCore (tryHeader { updateRecord r.slot (fun x => { x with printStarted := true }) s with
      au.cursor := some ⟨r.slot, 0, .replay, true, r.printStarted⟩ }) = callCore s := by
    rw [callCore_tryHeader]; rfl
  unfold startReplay
  dsimp only
  split_ifs
  · rw [callCore_endCursor]; exact h
  · exact h

@[simp] theorem callCore_followTest (s : State) : callCore (followTest s) = callCore s := by
  unfold followTest; split <;> rfl

@[simp] theorem callCore_auTestsFor (n : Nat) (s : State) : callCore (auTestsFor n s) = callCore s := by
  induction n generalizing s with
  | zero => simp [auTestsFor]
  | succ n ih =>
    unfold auTestsFor
    dsimp only
    split
    · split_ifs <;> simp [ih]
    · simp

@[simp] theorem callCore_auTests (s : State) : callCore (auTests s) = callCore s := callCore_auTestsFor _ _

@[simp] theorem callCore_finishCursor (s : State) : callCore (finishCursor s) = callCore s := by
  unfold finishCursor; split_ifs <;> simp

@[simp] theorem callCore_becomeAttendance (a : Attendance) (s : State) : callCore (becomeAttendance a s) = callCore s := by
  unfold becomeAttendance
  split_ifs
  · rfl
  · rw [callCore_auTests]; rfl
  · rw [callCore_auTests]; rfl

@[simp] theorem callCore_attendRequest (a : Attendance) (c : AttendCause) (s : State) :
    callCore (attendRequest a c s) = callCore s := by
  unfold attendRequest
  split_ifs
  · rw [callCore_becomeAttendance]; rfl
  · rfl
  · rfl

@[simp] theorem callCore_applyPending (s : State) : callCore (applyPending s) = callCore s := by
  unfold applyPending
  split
  · rw [callCore_becomeAttendance]; rfl
  · rfl

@[simp] theorem callCore_pressReport (s : State) : callCore (pressReport s) = callCore s := rfl

@[simp] theorem callCore_endRun (s : State) : callCore (endRun s) = callCore s := by
  unfold endRun; split <;> rfl

@[simp] theorem callCore_stopSendRun (s : State) : callCore (stopSendRun s) = callCore s := by
  unfold stopSendRun
  split_ifs
  · split
    · split_ifs <;> simp
    · rfl
  · rfl

@[simp] theorem callCore_setCallState (c : CallState) (s : State) : callCore (setCallState c s) = callCore s := rfl
@[simp] theorem callCore_freeView (s : State) : callCore (freeView s) = callCore s := rfl
@[simp] theorem callCore_ringView (s : State) : callCore (ringView s) = callCore s := rfl
@[simp] theorem callCore_engageView (s : State) : callCore (engageView s) = callCore s := rfl

@[simp] theorem callCore_tellIdle (s : State) : callCore (tellIdle s) = callCore s := by
  unfold tellIdle
  rw [callCore_auTests, callCore_applyPending]; rfl

@[simp] theorem callCore_discardEdit (s : State) : callCore (discardEdit s) = callCore s := by
  unfold discardEdit
  split_ifs
  · rfl
  · rw [callCore_notice]; rfl

@[simp] theorem callCore_closeFile (f : Bool) (s : State) : callCore (closeFile f s) = callCore s := by
  unfold closeFile; split <;> rfl

@[simp] theorem callCore_withdrawOpen (s : State) : callCore (withdrawOpen s) = callCore s := rfl
@[simp] theorem callCore_clearHolds (s : State) : callCore (clearHolds s) = callCore s := rfl
@[simp] theorem callCore_openFields (s : State) : callCore (openFields s) = callCore s := rfl
@[simp] theorem callCore_withdrawPlace (s : State) : callCore (withdrawPlace s) = callCore s := rfl

@[simp] theorem callCore_stepSequence (s : State) : callCore (stepSequence s) = callCore s := by
  unfold stepSequence; split_ifs <;> rfl

@[simp] theorem callCore_leaveOpen (c : CallState) (f : Bool) (s : State) : callCore (leaveOpen c f s) = callCore s := by
  simp [leaveOpen]

@[simp] theorem callCore_toIdle (f : Bool) (n : Option Notice) (s : State) : callCore (toIdle f n s) = callCore s := by
  unfold toIdle
  dsimp only
  split_ifs <;> simp

@[simp] theorem callCore_exhausted (r : Request) (s : State) : callCore (exhausted r s) = callCore s := by
  unfold exhausted
  split
  · cases r.kind <;> dsimp only <;> (try split_ifs) <;> simp
  · rfl

@[simp] theorem callCore_sendRequest (r : Request) (s : State) : callCore (sendRequest r s) = callCore s := by
  unfold sendRequest
  split
  · rename_i h; exact callCore_luRequest h
  · simp

@[simp] theorem callCore_openToClearing (f : Bool) (n : Option Notice) (c : Cause) (s : State) :
    callCore (openToClearing f n c s) = callCore s := by
  simp [openToClearing]

@[simp] theorem callCore_textExhausted (s : State) : callCore (textExhausted s) = callCore s := by
  unfold textExhausted; split_ifs <;> simp

@[simp] theorem callCore_requestWho (d : Addr) (s : State) : callCore (requestWho d s) = callCore s :=
  callCore_sendRequest _ _

@[simp] theorem callCore_enterOpen (s : State) : callCore (enterOpen s) = callCore s := by
  unfold enterOpen
  dsimp only
  split_ifs <;> simp

@[simp] theorem callCore_setCalled (r : Role) (n : Station) (d : Addr) (w : Fin 8) (s : State) :
    callCore (setCalled r n d w s) = callCore s := rfl
@[simp] theorem callCore_setCaller (d : Addr) (s : State) : callCore (setCaller d s) = callCore s := rfl

@[simp] theorem callCore_answerAccept (s : State) : callCore (answerAccept s) = callCore s := by
  unfold answerAccept
  dsimp only
  rw [callCore_sendRequest]; rfl

@[simp] theorem callCore_answerRefuse (r : Reason) (s : State) : callCore (answerRefuse r s) = callCore s := by
  simp [answerRefuse]

@[simp] theorem callCore_stopSending (s : State) : callCore (stopSending s) = callCore s := by
  simp [stopSending]

@[simp] theorem callCore_openRecord (s : State) : callCore (openRecord s) = callCore s := by
  unfold openRecord
  dsimp only
  split
  · split_ifs
    · rfl
    · split <;> rfl
  · split_ifs
    · rfl
    · split <;> rfl

@[simp] theorem callCore_reclaimFor (n k : Nat) (s : State) : callCore (reclaimFor n k s) = callCore s := by
  induction k generalizing s with
  | zero => rfl
  | succ k ih =>
    unfold reclaimFor
    split_ifs
    · rfl
    · split
      · rw [ih]; rfl
      · rfl

@[simp] theorem callCore_appendFile (run : List Cell) (k : Nat) (s : State) :
    callCore (appendFile run k s) = callCore s := by
  unfold appendFile
  split
  · rfl
  · split <;> rfl

theorem callCore_store (s : State) (st : Store) : callCore { s with cs := st } = callCore s := rfl

@[simp] theorem callCore_deliver (e : Route) (r : TextRuns) (p : Station) (k : Nat) (s : State) :
    callCore (deliver e r p k s) = callCore s := by
  unfold deliver
  dsimp only
  split_ifs <;> simp [callCore_store]

@[simp] theorem callCore_acceptText (t : Telegram) (run : List Resolved) (s : State) :
    callCore (acceptText t run s).2 = callCore s := by
  have h (x : State) (q : Seq) : callCore { x with cm.call.recvSeq := q } = callCore x := rfl
  unfold acceptText
  split_ifs
  · split
    · rfl
    · dsimp only
      split_ifs <;> simp [h]
  · rfl

/-! ### What the equations say of each field -/

theorem lu_of_callCore {a b : State} (h : callCore a = callCore b) :
    a.lu.joinState = b.lu.joinState ∧ a.lu.condition = b.lu.condition ∧ a.lu.receive = b.lu.receive
      ∧ a.lu.slot = b.lu.slot ∧ a.lu.ackRead = b.lu.ackRead ∧ a.lu.quiet = b.lu.quiet
      ∧ a.lu.listenWindow = b.lu.listenWindow ∧ a.lu.lastOwn = b.lu.lastOwn
      ∧ a.lu.restartClear = b.lu.restartClear := by
  simp only [callCore, State.mk.injEq, LineUnit.mk.injEq] at h
  tauto

theorem ku_of_callCore {a b : State} (h : callCore a = callCore b) :
    a.ku.scan = b.ku.scan ∧ a.ku.fifo = b.ku.fifo ∧ a.ku.headRead = b.ku.headRead ∧ a.ku.headWaiting = b.ku.headWaiting
      ∧ a.ku.case = b.ku.case ∧ a.ku.mode = b.ku.mode ∧ a.ku.dial = b.ku.dial := by
  simp only [callCore, State.mk.injEq, KeyboardUnit.mk.injEq] at h
  tauto

theorem pu_of_callCore {a b : State} (h : callCore a = callCore b) :
    a.pu.present = b.pu.present ∧ a.pu.paper = b.pu.paper ∧ a.pu.column = b.pu.column ∧ a.pu.shift = b.pu.shift
      ∧ a.pu.lastOrigin = b.pu.lastOrigin ∧ a.pu.op = b.pu.op ∧ a.pu.opLeft = b.pu.opLeft ∧ a.pu.lastOp = b.pu.lastOp
      ∧ a.pu.heat = b.pu.heat ∧ a.pu.throttle = b.pu.throttle ∧ a.pu.heatTimer = b.pu.heatTimer := by
  simp only [callCore, State.mk.injEq, PrintUnit.mk.injEq] at h
  tauto

theorem tu_of_callCore {a b : State} (h : callCore a = callCore b) :
    a.tu.punchPresent = b.tu.punchPresent ∧ a.tu.tape = b.tu.tape ∧ a.tu.punchShift = b.tu.punchShift
      ∧ a.tu.punchOp = b.tu.punchOp ∧ a.tu.punchLeft = b.tu.punchLeft ∧ a.tu.punchWork = b.tu.punchWork
      ∧ a.tu.readerPresent = b.tu.readerPresent ∧ a.tu.tapeIn = b.tu.tapeIn := by
  simp only [callCore, State.mk.injEq, TapeUnit.mk.injEq] at h
  tauto

theorem mt_of_callCore {a b : State} (h : callCore a = callCore b) :
    a.mt.motor = b.mt.motor ∧ a.mt.printerDemand = b.mt.printerDemand ∧ a.mt.punchDemand = b.mt.punchDemand
      ∧ a.mt.readerDemand = b.mt.readerDemand ∧ a.mt.runUp = b.mt.runUp ∧ a.mt.senseWindow = b.mt.senseWindow
      ∧ a.mt.hold = b.mt.hold ∧ a.mt.faultWait = b.mt.faultWait ∧ a.mt.pulses = b.mt.pulses
      ∧ a.mt.senseRunning = b.mt.senseRunning ∧ a.mt.switchAttended = b.mt.switchAttended := by
  simp only [callCore, State.mk.injEq, MotorTerminal.mk.injEq] at h
  tauto

theorem cl_of_callCore {a b : State} (h : callCore a = callCore b) : a.cl = b.cl ∧ a.pending = b.pending := by
  simp only [callCore, State.mk.injEq] at h
  tauto

end Sys2Proof.Machine
end

