-- ==== Sys2Proof/Laws/Memory.lean ====
section
/-!
SUPPORT. The memory laws: what a read answers after a write or a clearing, and that every operation over the store's
memory keeps its canonical form.
-/

namespace Sys2Proof.Machine

/-! ### Reads -/

theorem Memory.read_write_same {α : Type} (k : Nat) (v : α) (m : List (Nat × α)) :
    Memory.read k (Memory.write k v m) = some v := by
  induction m with
  | nil => simp [Memory.write, Memory.read]
  | cons e m ih =>
    obtain ⟨k', v'⟩ := e
    simp only [Memory.write]
    split
    · simp [Memory.read]
    · split
      · simp [Memory.read]
      · simp_all [Memory.read]

theorem Memory.read_write_other {α : Type} {k j : Nat} (v : α) (m : List (Nat × α)) (h : j ≠ k) :
    Memory.read j (Memory.write k v m) = Memory.read j m := by
  induction m with
  | nil => simp [Memory.write, Memory.read, h]
  | cons e m ih =>
    obtain ⟨k', v'⟩ := e
    simp only [Memory.write]
    split
    · simp [Memory.read, h]
    · split
      · subst_vars; simp [Memory.read, h]
      · simp [Memory.read, ih]

theorem Memory.read_clear {α : Type} (p : Nat → Bool) (k : Nat) (m : List (Nat × α)) :
    Memory.read k (Memory.clear p m) = if p k then none else Memory.read k m := by
  induction m with
  | nil => simp [Memory.clear, Memory.read]
  | cons e m ih =>
    obtain ⟨k', v'⟩ := e
    simp only [Memory.clear, List.filter_cons] at ih ⊢
    by_cases hp : p k' <;> by_cases hk : k = k' <;> simp_all [Memory.read]

/-! ### The canonical form -/

theorem Memory.wf_iff {α : Type} (m : List (Nat × α)) :
    Memory.wf m = true ↔ m.Pairwise fun a b => a.1 < b.1 := by
  induction m with
  | nil => simp [Memory.wf]
  | cons e m ih =>
    cases m with
    | nil => simp [Memory.wf]
    | cons f m =>
      obtain ⟨k, v⟩ := e
      obtain ⟨k', v'⟩ := f
      simp only [Memory.wf, Bool.and_eq_true, decide_eq_true_eq, ih, List.pairwise_cons, List.mem_cons]
      constructor
      · rintro ⟨h, h1, h2⟩
        refine ⟨?_, h1, h2⟩
        rintro a (rfl | ha)
        · exact h
        · exact lt_trans h (h1 a ha)
      · rintro ⟨h, h1, h2⟩
        exact ⟨h _ (Or.inl rfl), h1, h2⟩

theorem Memory.mem_write {α : Type} {k : Nat} {v : α} {m : List (Nat × α)} {e : Nat × α}
    (h : e ∈ Memory.write k v m) : e = (k, v) ∨ e ∈ m := by
  induction m with
  | nil => simp_all [Memory.write]
  | cons f m ih =>
    obtain ⟨k', v'⟩ := f
    simp only [Memory.write] at h
    split at h
    · simpa using h
    · split at h
      · simp only [List.mem_cons] at h ⊢; tauto
      · simp only [List.mem_cons] at h ⊢
        rcases h with h | h
        · exact Or.inr (Or.inl h)
        · rcases ih h with h | h
          · exact Or.inl h
          · exact Or.inr (Or.inr h)

theorem Memory.wf_write {α : Type} (k : Nat) (v : α) {m : List (Nat × α)} (h : Memory.wf m = true) :
    Memory.wf (Memory.write k v m) = true := by
  rw [Memory.wf_iff] at *
  induction m with
  | nil => simp [Memory.write]
  | cons f m ih =>
    obtain ⟨k', v'⟩ := f
    obtain ⟨h1, h2⟩ := List.pairwise_cons.mp h
    simp only [Memory.write]
    split
    · rename_i hk
      refine List.pairwise_cons.mpr ⟨?_, h⟩
      intro a ha
      rcases List.mem_cons.mp ha with rfl | ha
      · exact hk
      · exact lt_trans hk (h1 a ha)
    · split
      · subst_vars
        exact List.pairwise_cons.mpr ⟨h1, h2⟩
      · refine List.pairwise_cons.mpr ⟨?_, ih h2⟩
        intro a ha
        rcases Memory.mem_write ha with rfl | ha
        · simp only; omega
        · exact h1 a ha

theorem Memory.wf_clear {α : Type} (p : Nat → Bool) {m : List (Nat × α)} (h : Memory.wf m = true) :
    Memory.wf (Memory.clear p m) = true := by
  rw [Memory.wf_iff] at *
  exact h.filter _

/-! ### The store -/

/-- Both of the store's memories are in canonical form. -/
abbrev Store.canonical (st : Store) : Prop := Memory.wf st.cells = true ∧ Memory.wf st.links = true

theorem Store.canonical_reset (l : Limits) : (Store.reset l).canonical := ⟨rfl, rfl⟩

@[simp] theorem Store.setQueue_cells (st : Store) (n : QueueName) (q : Queue) : (st.setQueue n q).cells = st.cells := by
  cases n <;> rfl

@[simp] theorem Store.setQueue_links (st : Store) (n : QueueName) (q : Queue) : (st.setQueue n q).links = st.links := by
  cases n <;> rfl

@[simp] theorem Store.setQueue_free (st : Store) (n : QueueName) (q : Queue) : (st.setQueue n q).free = st.free := by
  cases n <;> rfl

@[simp] theorem Store.queue_setQueue (st : Store) (n : QueueName) (q : Queue) : (st.setQueue n q).queue n = q := by
  cases n <;> rfl

theorem Store.canonical_setQueue {st : Store} (n : QueueName) (q : Queue) (h : st.canonical) :
    (st.setQueue n q).canonical := by simpa [Store.canonical] using h

theorem Store.canonical_release {st : Store} (b : Nat) (h : st.canonical) : (st.release b).canonical :=
  ⟨Memory.wf_clear (fun k => k / 32 == b) h.1, Memory.wf_clear (fun k => k == b) h.2⟩

theorem Store.canonical_releaseAll {st : Store} (bs : List Nat) (h : st.canonical) : (st.releaseAll bs).canonical := by
  induction bs generalizing st with
  | nil => exact h
  | cons b bs ih => exact ih (Store.canonical_release b h)

theorem linkTail_wf {links : List (Nat × Nat)} (t : Option Nat) (b : Nat) (h : Memory.wf links = true) :
    Memory.wf (linkTail t b links) = true := by
  cases t with
  | none => exact h
  | some t => exact Memory.wf_write _ _ h

theorem Store.canonical_pushCell {st : Store} (n : QueueName) (c : Cell) (h : st.canonical) :
    (Store.pushCell n st c).canonical := by
  unfold Store.pushCell
  dsimp only
  split
  · exact Store.canonical_setQueue _ _ ⟨Memory.wf_write _ _ h.1, h.2⟩
  · split
    · exact h
    · exact Store.canonical_setQueue _ _ ⟨Memory.wf_write _ _ h.1, linkTail_wf _ _ h.2⟩

theorem Store.canonical_pushRun {st : Store} (n : QueueName) (run : List Cell) (h : st.canonical) :
    (st.pushRun n run).canonical := by
  unfold Store.pushRun
  induction run generalizing st with
  | nil => exact h
  | cons c run ih => exact ih (Store.canonical_pushCell n c h)

theorem Store.canonical_popCell {st : Store} (n : QueueName) (h : st.canonical) : (st.popCell n).canonical := by
  unfold Store.popCell
  dsimp only
  split
  · exact h
  · split
    · exact Store.canonical_setQueue _ _ (Store.canonical_release _ h)
    · split
      · exact Store.canonical_setQueue _ _ (Store.canonical_release _ h)
      · rename_i hd _ _ _
        exact Store.canonical_setQueue _ _ ⟨Memory.wf_clear (fun k => k == cellKey hd (st.queue n).headIndex) h.1, h.2⟩

theorem Store.canonical_popCells {st : Store} (n : QueueName) (k : Nat) (h : st.canonical) :
    (Store.popCells n k st).canonical := by
  induction k generalizing st with
  | zero => exact h
  | succ k ih => exact ih (Store.canonical_popCell n h)

theorem Store.canonical_flushQueue {st : Store} (n : QueueName) (h : st.canonical) : (st.flushQueue n).canonical :=
  Store.canonical_setQueue _ _ (Store.canonical_releaseAll _ h)

theorem Store.canonical_flushChain {st : Store} (ch : Chain) (h : st.canonical) : (st.flushChain ch).canonical :=
  Store.canonical_releaseAll _ h

theorem Store.canonical_pushChainCell {p : Store × Chain} (c : Cell) (h : p.1.canonical) :
    (Store.pushChainCell p c).1.canonical := by
  obtain ⟨st, ch⟩ := p
  unfold Store.pushChainCell
  dsimp only
  split
  · exact ⟨Memory.wf_write _ _ h.1, h.2⟩
  · split
    · exact h
    · exact ⟨Memory.wf_write _ _ h.1, linkTail_wf _ _ h.2⟩

theorem Store.canonical_pushChainRun {st : Store} (ch : Chain) (run : List Cell) (h : st.canonical) :
    (st.pushChainRun ch run).1.canonical := by
  unfold Store.pushChainRun
  generalize hp : (st, ch) = p
  have h' : p.1.canonical := by subst hp; exact h
  clear hp h
  induction run generalizing p with
  | nil => exact h'
  | cons c run ih => exact ih _ (Store.canonical_pushChainCell c h')

end Sys2Proof.Machine
end

