-- ==== Sys2Proof/Laws/Store.lean ====
section
/-!
SUPPORT. What the store's acts do to the queue records: an act on one queue leaves the others' records whole, no act but
the CM's touches a limit or an open-call mark, a chain's acts touch no queue; and the counts after an append (R18, R25).
-/

namespace Sys2Proof.Machine

/-! ### Replacing a record -/

theorem Store.queue_setQueue_ne {st : Store} {n m : QueueName} {q : Queue} (h : m ≠ n) :
    (st.setQueue n q).queue m = st.queue m := by
  cases n <;> cases m <;> first | rfl | exact absurd rfl h

/-! ### Blocks and chains touch no queue record -/

@[simp] theorem Store.queue_release (st : Store) (b : Nat) (m : QueueName) : (st.release b).queue m = st.queue m := by
  cases m <;> rfl

@[simp] theorem Store.queue_releaseAll (st : Store) (bs : List Nat) (m : QueueName) :
    (st.releaseAll bs).queue m = st.queue m := by
  induction bs generalizing st with
  | nil => rfl
  | cons b bs ih => exact (ih (st.release b)).trans (Store.queue_release st b m)

@[simp] theorem Store.queue_flushChain (st : Store) (ch : Chain) (m : QueueName) :
    (st.flushChain ch).queue m = st.queue m := Store.queue_releaseAll _ _ _

@[simp] theorem Store.queue_pushChainCell (p : Store × Chain) (c : Cell) (m : QueueName) :
    (Store.pushChainCell p c).1.queue m = p.1.queue m := by
  obtain ⟨st, ch⟩ := p
  unfold Store.pushChainCell
  dsimp only
  split
  · cases m <;> rfl
  · split
    · rfl
    · cases m <;> rfl

@[simp] theorem Store.queue_pushChainRun (st : Store) (ch : Chain) (run : List Cell) (m : QueueName) :
    (st.pushChainRun ch run).1.queue m = st.queue m := by
  unfold Store.pushChainRun
  generalize hp : (st, ch) = p
  have h : p.1.queue m = st.queue m := by rw [← hp]
  rw [← h]
  clear hp h
  induction run generalizing p with
  | nil => rfl
  | cons c run ih => exact (ih _).trans (Store.queue_pushChainCell p c m)

/-! ### One queue's acts -/

theorem Store.queue_pushCell_ne {st : Store} {n m : QueueName} (c : Cell) (h : m ≠ n) :
    (Store.pushCell n st c).queue m = st.queue m := by
  unfold Store.pushCell
  dsimp only
  split
  · rw [Store.queue_setQueue_ne h]; cases m <;> rfl
  · split
    · rfl
    · rw [Store.queue_setQueue_ne h]; cases m <;> rfl

theorem Store.queue_pushRun_ne {st : Store} {n m : QueueName} (run : List Cell) (h : m ≠ n) :
    (st.pushRun n run).queue m = st.queue m := by
  unfold Store.pushRun
  induction run generalizing st with
  | nil => rfl
  | cons c run ih => exact ih.trans (Store.queue_pushCell_ne c h)

theorem Store.pushCell_fixed (st : Store) (n : QueueName) (c : Cell) :
    ((Store.pushCell n st c).queue n).limit = (st.queue n).limit
      ∧ ((Store.pushCell n st c).queue n).openMark = (st.queue n).openMark
      ∧ ((Store.pushCell n st c).queue n).inFlight = (st.queue n).inFlight := by
  unfold Store.pushCell
  dsimp only
  split
  · simp
  · split
    · simp
    · simp

theorem Store.pushRun_fixed (st : Store) (n : QueueName) (run : List Cell) :
    ((st.pushRun n run).queue n).limit = (st.queue n).limit
      ∧ ((st.pushRun n run).queue n).openMark = (st.queue n).openMark
      ∧ ((st.pushRun n run).queue n).inFlight = (st.queue n).inFlight := by
  unfold Store.pushRun
  induction run generalizing st with
  | nil => exact ⟨rfl, rfl, rfl⟩
  | cons c run ih =>
    obtain ⟨a1, a2, a3⟩ := ih (Store.pushCell n st c)
    obtain ⟨b1, b2, b3⟩ := Store.pushCell_fixed st n c
    exact ⟨a1.trans b1, a2.trans b2, a3.trans b3⟩

theorem Store.queue_popCell_ne {st : Store} {n m : QueueName} (h : m ≠ n) : (st.popCell n).queue m = st.queue m := by
  unfold Store.popCell
  dsimp only
  split
  · rfl
  · split
    · rw [Store.queue_setQueue_ne h, Store.queue_release]
    · split
      · rw [Store.queue_setQueue_ne h, Store.queue_release]
      · rw [Store.queue_setQueue_ne h]; cases m <;> rfl

theorem Store.popCell_fixed (st : Store) (n : QueueName) :
    ((st.popCell n).queue n).limit = (st.queue n).limit
      ∧ ((st.popCell n).queue n).openMark = (st.queue n).openMark
      ∧ ((st.popCell n).queue n).inFlight = (st.queue n).inFlight := by
  unfold Store.popCell
  dsimp only
  split
  · simp
  · split
    · simp [Queue.emptied]
    · split <;> simp

theorem Store.queue_popCells_ne {st : Store} {n m : QueueName} (k : Nat) (h : m ≠ n) :
    (Store.popCells n k st).queue m = st.queue m := by
  induction k generalizing st with
  | zero => rfl
  | succ k ih => exact ih.trans (Store.queue_popCell_ne h)

theorem Store.popCells_fixed (st : Store) (n : QueueName) (k : Nat) :
    ((Store.popCells n k st).queue n).limit = (st.queue n).limit
      ∧ ((Store.popCells n k st).queue n).openMark = (st.queue n).openMark
      ∧ ((Store.popCells n k st).queue n).inFlight = (st.queue n).inFlight := by
  induction k generalizing st with
  | zero => exact ⟨rfl, rfl, rfl⟩
  | succ k ih =>
    obtain ⟨a1, a2, a3⟩ := ih (st.popCell n)
    obtain ⟨b1, b2, b3⟩ := Store.popCell_fixed st n
    exact ⟨a1.trans b1, a2.trans b2, a3.trans b3⟩

/-! ### Block counts (R15, R18, R19) -/

theorem blocksFor_mono (room : Nat) {k m : Nat} (h : k ≤ m) : blocksFor room k ≤ blocksFor room m := by
  unfold blocksFor; split_ifs <;> omega

/-- A cell more, where the tail block has room, or takes the first cell of a new block. -/
theorem blocksFor_succ (room k : Nat) :
    blocksFor room (k + 1) = if room = 0 then 1 + blocksFor 31 k else blocksFor (room - 1) k := by
  unfold blocksFor; split_ifs <;> omega

/-- A cell written counts a block more exactly where it takes one. -/
theorem Store.blockCount_pushCell (st : Store) (n : QueueName) (c : Cell) (k : Nat) :
    ((st.pushCell n c).queue n).blockCount + blocksFor ((st.pushCell n c).queue n).room k
      ≤ (st.queue n).blockCount + blocksFor (st.queue n).room (k + 1) := by
  unfold Store.pushCell
  dsimp only
  split
  · rename_i t ht hi
    have hi : (st.queue n).tailIndex < 31 := by simpa using hi
    rw [Store.queue_setQueue, blocksFor_succ]
    simp only [Queue.room, ht]
    rw [if_neg (by omega), show 31 - ((st.queue n).tailIndex + 1) = 31 - (st.queue n).tailIndex - 1 by omega]
  · rename_i hno
    have room : (st.queue n).room = 0 := by
      unfold Queue.room
      split
      · rename_i t ht
        by_contra hr
        exact hno t ht (by simpa using (by omega : (st.queue n).tailIndex < 31))
      · rfl
    split
    · rename_i h
      exact Nat.add_le_add_left (blocksFor_mono _ (Nat.le_succ k)) _
    · rw [Store.queue_setQueue, blocksFor_succ, if_pos room]
      simp only [Queue.room, Nat.sub_zero]
      omega

/-- A run written counts no more blocks than its space check asked for. -/
theorem Store.blockCount_pushRun (st : Store) (n : QueueName) (run : List Cell) :
    ((st.pushRun n run).queue n).blockCount ≤ (st.queue n).blockCount + (st.queue n).blocksNeeded run := by
  suffices h : ((st.pushRun n run).queue n).blockCount + blocksFor ((st.pushRun n run).queue n).room 0
      ≤ (st.queue n).blockCount + blocksFor (st.queue n).room run.length from Nat.le_trans (Nat.le_add_right _ _) h
  induction run generalizing st with
  | nil => exact Nat.le_refl _
  | cons c rest ih => exact Nat.le_trans (ih (st.pushCell n c)) (st.blockCount_pushCell n c rest.length)

/-- A run that passes the space check leaves its queue within its limit (R15, R19). -/
theorem Store.pushRun_within (st : Store) (n : QueueName) (c : ReserveClass) (run : List Cell)
    (h : st.spaceCheck n c run = true) :
    ((st.pushRun n run).queue n).blockCount ≤ (st.queue n).limit := by
  have limit : (st.queue n).limitPasses run = true := by
    unfold Store.spaceCheck at h
    exact (Bool.and_eq_true _ _ ▸ h).1
  exact Nat.le_trans (st.blockCount_pushRun n run) (of_decide_eq_true limit)

theorem Store.queue_flushQueue_ne {st : Store} {n m : QueueName} (h : m ≠ n) :
    (st.flushQueue n).queue m = st.queue m := by
  unfold Store.flushQueue
  dsimp only
  rw [Store.queue_setQueue_ne h, Store.queue_releaseAll]

/-- A flushed queue is empty; its limit and open-call mark stay (R25). -/
@[simp] theorem Store.queue_flushQueue (st : Store) (n : QueueName) :
    (st.flushQueue n).queue n = { (st.queue n).emptied with inFlight := 0 } := by
  unfold Store.flushQueue
  dsimp only
  rw [Store.queue_setQueue]

end Sys2Proof.Machine
end

