-- ==== Sys2Proof/Laws/Calls.lean ====
section
/-!
SUPPORT. What the shared operations of the Call Manager and the Answering Unit leave and change, said once: the frame of
the file's operations (`fileCore`), the record's state after each end of a call, and the queue records through them.
-/

namespace Sys2Proof.Machine

/-! ### What an equation of `storeCore` says -/

theorem cm_of_storeCore {a b : State} (h : storeCore a = storeCore b) :
    a.cm.view = b.cm.view ∧ a.cm.breakTimer = b.cm.breakTimer
      ∧ { a.cm.call with heldByMe := false, heldSince := none }
        = { b.cm.call with heldByMe := false, heldSince := none } := by
  simp only [storeCore, State.mk.injEq, CallManager.mk.injEq] at h
  tauto

theorem call_of_storeCore {a b : State} (h : storeCore a = storeCore b) :
    a.cm.call.state = b.cm.call.state ∧ a.cm.call.role = b.cm.call.role
      ∧ a.cm.call.callAddr = b.cm.call.callAddr ∧ a.cm.call.partyAddr = b.cm.call.partyAddr
      ∧ a.cm.call.partyStation = b.cm.call.partyStation ∧ a.cm.call.answer = b.cm.call.answer
      ∧ a.cm.call.route = b.cm.call.route ∧ a.cm.call.sendSeq = b.cm.call.sendSeq
      ∧ a.cm.call.recvSeq = b.cm.call.recvSeq ∧ a.cm.call.holdSet = b.cm.call.holdSet
      ∧ a.cm.call.fileLink = b.cm.call.fileLink ∧ a.cm.call.readerLink = b.cm.call.readerLink
      ∧ a.cm.call.answerback = b.cm.call.answerback := by
  have := (cm_of_storeCore h).2.2
  simp only [CallRecord.mk.injEq] at this
  tauto

theorem rest_of_storeCore {a b : State} (h : storeCore a = storeCore b) :
    a.ku.editStack = b.ku.editStack ∧ a.pu = b.pu ∧ a.tu.run = b.tu.run ∧ a.tu.cycle = b.tu.cycle ∧ a.mt = b.mt
      ∧ a.lu.text = b.lu.text ∧ a.au.file = b.au.file ∧ a.au.cursor = b.au.cursor ∧ a.au.ring = b.au.ring
      ∧ a.au.ringTimer = b.au.ringTimer ∧ a.au.pending = b.au.pending ∧ a.au.attendance = b.au.attendance
      ∧ a.au.attendTimer = b.au.attendTimer ∧ a.au.autoAnswered = b.au.autoAnswered ∧ a.au.clock = b.au.clock
      ∧ a.au.nextNumber = b.au.nextNumber := by
  simp only [storeCore, State.mk.injEq, KeyboardUnit.mk.injEq, TapeUnit.mk.injEq, LineUnit.mk.injEq,
    AnsweringUnit.mk.injEq] at h
  tauto

/-! ### A withdrawal (R43) -/

@[simp] theorem withdraw_joinState (k : Kind) (l : LineUnit) : (withdraw k l).joinState = l.joinState := rfl
@[simp] theorem withdraw_restartClear (k : Kind) (l : LineUnit) : (withdraw k l).restartClear = l.restartClear := rfl
@[simp] theorem withdraw_slot (k : Kind) (l : LineUnit) : (withdraw k l).slot = l.slot := rfl
@[simp] theorem inSlot_withdraw (j k : Kind) (l : LineUnit) : inSlot j (withdraw k l) = inSlot j l := rfl

/-- The control list after a withdrawal: the slot's entry marked, or the entry gone (R43). -/
theorem withdraw_control (k : Kind) (l : LineUnit) :
    (withdraw k l).control =
      if inSlot k l then
        l.control.map fun e => if e.content.kind = k then { e with withdrawn := true, beside := none } else e
      else l.control.filter fun e => e.content.kind ≠ k := rfl

/-- A second withdrawal of a kind finds nothing more to do. -/
@[simp] theorem withdraw_withdraw (k : Kind) (l : LineUnit) : withdraw k (withdraw k l) = withdraw k l := by
  have h : (withdraw k (withdraw k l)).control = (withdraw k l).control := by
    rw [withdraw_control k (withdraw k l), inSlot_withdraw, withdraw_control]
    by_cases slot : inSlot k l = true
    · simp only [slot, if_true, List.map_map]
      refine List.map_congr_left fun e _ => ?_
      by_cases kind : e.content.kind = k <;> simp [kind]
    · simp [slot]
  rw [show withdraw k (withdraw k l) = { withdraw k l with control := (withdraw k (withdraw k l)).control } from rfl, h]

/-! ### The file's operations -/

/-- The state with all that the Answering Unit's operations may change hidden. -/
def fileCore (s : State) : State :=
  { s with
    cs := Store.reset Limits.default
    lu.control := []
    cm.sendTimer := .stopped
    cm.call.heldByMe := false
    cm.call.heldSince := none
    ku.retryDue := false
    tu.resumeDue := false
    pu.source := .queue
    pu.work := none
    au := AnsweringUnit.reset }

theorem fileCore_of_storeCore {a b : State} (h : storeCore a = storeCore b) : fileCore a = fileCore b := by
  have := congrArg fileCore h
  exact this

theorem fileCore_au (s : State) (a : AnsweringUnit) : fileCore { s with au := a } = fileCore s := rfl

@[simp] theorem fileCore_signal (r t : Bool) (s : State) : fileCore (signal r t s) = fileCore s :=
  fileCore_of_storeCore (storeCore_signal r t s)
@[simp] theorem fileCore_flowTest (s : State) : fileCore (flowTest s) = fileCore s :=
  fileCore_of_storeCore (storeCore_flowTest s)
@[simp] theorem fileCore_notice (n : Notice) (s : State) : fileCore (notice n s) = fileCore s :=
  fileCore_of_storeCore (storeCore_notice n s)
@[simp] theorem fileCore_placeNotice (n : Notice) (s : State) : fileCore (placeNotice n s).1 = fileCore s :=
  fileCore_of_storeCore (storeCore_placeNotice n s)
@[simp] theorem fileCore_noticeIf (n : Option Notice) (s : State) : fileCore (noticeIf n s) = fileCore s :=
  fileCore_of_storeCore (storeCore_noticeIf n s)
@[simp] theorem fileCore_updateRecord (i : Fin 24) (f : FileRecord → FileRecord) (s : State) :
    fileCore (updateRecord i f s) = fileCore s := rfl
@[simp] theorem fileCore_dropRecord (r : FileRecord) (s : State) : fileCore (dropRecord r s) = fileCore s := rfl
@[simp] theorem fileCore_dropPrinted (r : FileRecord) (s : State) : fileCore (dropPrinted r s) = fileCore s := by
  unfold dropPrinted; split_ifs <;> simp
@[simp] theorem fileCore_fileChange (w : Bool) (s : State) : fileCore (fileChange w s) = fileCore s := by
  unfold fileChange; split_ifs <;> simp
@[simp] theorem fileCore_freeCursor (e : Bool) (s : State) : fileCore (freeCursor e s) = fileCore s := rfl

@[simp] theorem fileCore_endCursor (s : State) : fileCore (endCursor s) = fileCore s := by
  unfold endCursor
  split
  · rfl
  · split
    · rfl
    · simp

@[simp] theorem fileCore_abandonCursor (s : State) : fileCore (abandonCursor s) = fileCore s := by
  unfold abandonCursor; split <;> simp

@[simp] theorem fileCore_tryHeader (s : State) : fileCore (tryHeader s) = fileCore s := by
  unfold tryHeader
  split
  · rfl
  · split
    · split
      · rfl
      · split
        · rename_i s1 h
          have h1 := (fileCore_of_storeCore (storeCore_appendRun h)).trans (fileCore_au s _)
          exact (fileCore_au s1 _).trans h1
        · rfl
    · rfl

@[simp] theorem fileCore_startReplay (r : FileRecord) (s : State) : fileCore (startReplay r s) = fileCore s := by
  have h : fileCore (tryHeader { updateRecord r.slot (fun x => { x with printStarted := true }) s with
      au.cursor := some ⟨r.slot, 0, .replay, true, r.printStarted⟩ }) = fileCore s := by
    rw [fileCore_tryHeader]; rfl
  unfold startReplay
  dsimp only
  split_ifs
  · rw [fileCore_endCursor]; exact h
  · exact h

@[simp] theorem fileCore_followTest (s : State) : fileCore (followTest s) = fileCore s := by
  unfold followTest; split <;> rfl

@[simp] theorem fileCore_auTestsFor (n : Nat) (s : State) : fileCore (auTestsFor n s) = fileCore s := by
  induction n generalizing s with
  | zero => simp [auTestsFor]
  | succ n ih =>
    unfold auTestsFor
    dsimp only
    split
    · split_ifs <;> simp [ih]
    · simp

@[simp] theorem fileCore_auTests (s : State) : fileCore (auTests s) = fileCore s := fileCore_auTestsFor _ _

@[simp] theorem fileCore_finishCursor (s : State) : fileCore (finishCursor s) = fileCore s := by
  unfold finishCursor; split_ifs <;> simp

@[simp] theorem fileCore_becomeAttendance (a : Attendance) (s : State) :
    fileCore (becomeAttendance a s) = fileCore s := by
  unfold becomeAttendance
  split_ifs
  · rfl
  · rw [fileCore_auTests]; rfl
  · rw [fileCore_auTests]; rfl

@[simp] theorem fileCore_attendRequest (a : Attendance) (c : AttendCause) (s : State) :
    fileCore (attendRequest a c s) = fileCore s := by
  unfold attendRequest
  split_ifs
  · rw [fileCore_becomeAttendance]; rfl
  · rfl
  · rfl

@[simp] theorem fileCore_applyPending (s : State) : fileCore (applyPending s) = fileCore s := by
  unfold applyPending
  split
  · rw [fileCore_becomeAttendance]; rfl
  · rfl

@[simp] theorem fileCore_pressReport (s : State) : fileCore (pressReport s) = fileCore s := rfl

@[simp] theorem fileCore_tellIdle (s : State) : fileCore (tellIdle s) = fileCore s := by
  unfold tellIdle
  rw [fileCore_auTests, fileCore_applyPending]; rfl

/-! ### What an equation of `fileCore` says -/

theorem call_of_fileCore {a b : State} (h : fileCore a = fileCore b) :
    a.cm.call.state = b.cm.call.state ∧ a.cm.call.role = b.cm.call.role
      ∧ a.cm.call.callAddr = b.cm.call.callAddr ∧ a.cm.call.partyAddr = b.cm.call.partyAddr
      ∧ a.cm.call.partyStation = b.cm.call.partyStation ∧ a.cm.call.answer = b.cm.call.answer
      ∧ a.cm.call.route = b.cm.call.route ∧ a.cm.call.sendSeq = b.cm.call.sendSeq
      ∧ a.cm.call.recvSeq = b.cm.call.recvSeq ∧ a.cm.call.holdSet = b.cm.call.holdSet
      ∧ a.cm.call.fileLink = b.cm.call.fileLink ∧ a.cm.call.readerLink = b.cm.call.readerLink
      ∧ a.cm.call.answerback = b.cm.call.answerback := by
  simp only [fileCore, State.mk.injEq, CallManager.mk.injEq, CallRecord.mk.injEq] at h
  tauto

theorem rest_of_fileCore {a b : State} (h : fileCore a = fileCore b) :
    a.cm.view = b.cm.view ∧ a.cm.breakTimer = b.cm.breakTimer ∧ a.ku.editStack = b.ku.editStack
      ∧ a.tu.run = b.tu.run ∧ a.tu.cycle = b.tu.cycle ∧ a.mt = b.mt ∧ a.lu.text = b.lu.text := by
  simp only [fileCore, State.mk.injEq, CallManager.mk.injEq, KeyboardUnit.mk.injEq, TapeUnit.mk.injEq,
    LineUnit.mk.injEq] at h
  tauto

/-! ### The record's state -/

theorem leaveOpen_state (c : CallState) (f : Bool) (s : State) : (leaveOpen c f s).cm.call.state = c := by
  unfold leaveOpen
  dsimp only
  have hc : ∀ x : State, (closeFile f x).cm.call.state = x.cm.call.state := by
    intro x; unfold closeFile; split <;> rfl
  have he : ∀ (n : QueueName) (x : State), (appendEnd n x).cm.call.state = x.cm.call.state :=
    fun n x => (call_of_storeCore (storeCore_appendEnd n x)).1
  have hf : ∀ x : State, (flushSend x).cm.call.state = x.cm.call.state :=
    fun x => (call_of_storeCore (storeCore_flushSend x)).1
  have hd : ∀ x : State, (discardEdit x).cm.call.state = x.cm.call.state := by
    intro x; unfold discardEdit; split_ifs
    · rfl
    · exact (call_of_storeCore (storeCore_notice _ _)).1
  have hs : ∀ x : State, (stopSendRun x).cm.call.state = x.cm.call.state := by
    intro x; unfold stopSendRun; split_ifs
    · split
      · split_ifs
        · unfold endRun; split <;> rfl
        · rfl
      · rfl
    · rfl
  rw [hc, he, he, hf, hd, hs]
  rfl

theorem toIdle_state (f : Bool) (n : Option Notice) (s : State) : (toIdle f n s).cm.call.state = .idle := by
  unfold toIdle
  dsimp only
  rw [(call_of_fileCore (fileCore_tellIdle _)).1, (call_of_fileCore (fileCore_finishCursor _)).1,
    (call_of_fileCore (fileCore_noticeIf n _)).1]
  split_ifs
  · exact leaveOpen_state _ _ _
  · rfl

theorem sendRequest_state {r : Request} {s : State} (h : entersRequests s.lu = true) :
    sendRequest r s = { s with lu := enterRequest r s.lu } := by
  simp [sendRequest, luRequest, h]

theorem requestOrDrop_entered {r : Request} {s : State} (h : entersRequests s.lu = true) :
    requestOrDrop r s = { s with lu := enterRequest r s.lu } := by
  simp [requestOrDrop, luRequest, h]

theorem requestOrDrop_refused {r : Request} {s : State} (h : entersRequests s.lu = false) :
    requestOrDrop r s = s := by
  simp [requestOrDrop, luRequest, h]

/-! ### The queue records through the file's operations -/

/-- What a notice, a replay or a deletion leaves of the queue records: all of SEND and PUNCH, PRINT's limit and mark. -/
def queueCore (s : State) : Queue × Queue × Nat × Option Station :=
  (s.cs.send, s.cs.punch, s.cs.print.limit, s.cs.print.openMark)

theorem queueCore_store (s : State) (st : Store) (h1 : st.send = s.cs.send) (h2 : st.punch = s.cs.punch)
    (h3 : st.print.limit = s.cs.print.limit) (h4 : st.print.openMark = s.cs.print.openMark) :
    queueCore { s with cs := st } = queueCore s := by simp [queueCore, h1, h2, h3, h4]

theorem cs_requestOrDrop (r : Request) (s : State) : (requestOrDrop r s).cs = s.cs := by
  unfold requestOrDrop luRequest; split_ifs <;> rfl

theorem cs_flowTest (s : State) : (flowTest s).cs = s.cs := by
  unfold flowTest setHeld clearHeld queueHold
  split_ifs <;> simp [cs_requestOrDrop]

theorem cs_signal (r t : Bool) (s : State) : (signal r t s).cs = s.cs := by
  cases r <;> cases t <;> simp [signal, blockReleased, blockTaken, cs_flowTest]

theorem cs_startSendTimer (n : QueueName) (run : List Cell) (s : State) : (startSendTimer n run s).cs = s.cs := by
  unfold startSendTimer; split_ifs <;> rfl

/-- What an append leaves in the store: the run pushed (R18). -/
theorem cs_appendRun {n : QueueName} {c : ReserveClass} {run : List Cell} {s t : State}
    (h : appendRun n c run s = some t) : t.cs = s.cs.pushRun n run := by
  unfold appendRun at h
  split at h
  · cases h; rw [cs_signal]; rfl
  · cases h

theorem queueCore_pushPrint (s t : State) (run : List Cell) (h : t.cs = s.cs.pushRun .print run) :
    queueCore t = queueCore s := by
  have h1 : (s.cs.pushRun .print run).send = s.cs.send :=
    Store.queue_pushRun_ne (n := .print) (m := .send) run (by decide)
  have h2 : (s.cs.pushRun .print run).punch = s.cs.punch :=
    Store.queue_pushRun_ne (n := .print) (m := .punch) run (by decide)
  obtain ⟨h3, h4, _⟩ := Store.pushRun_fixed s.cs .print run
  have h3' : (s.cs.pushRun .print run).print.limit = s.cs.print.limit := h3
  have h4' : (s.cs.pushRun .print run).print.openMark = s.cs.print.openMark := h4
  simp [queueCore, h, h1, h2, h3', h4']

@[simp] theorem queueCore_signal (r t : Bool) (s : State) : queueCore (signal r t s) = queueCore s := by
  simp [queueCore, cs_signal]
@[simp] theorem queueCore_flowTest (s : State) : queueCore (flowTest s) = queueCore s := by
  simp [queueCore, cs_flowTest]
@[simp] theorem queueCore_requestOrDrop (r : Request) (s : State) : queueCore (requestOrDrop r s) = queueCore s := by
  simp [queueCore, cs_requestOrDrop]

@[simp] theorem queueCore_placeNotice (n : Notice) (s : State) : queueCore (placeNotice n s).1 = queueCore s := by
  unfold placeNotice
  split_ifs
  · exact queueCore_pushPrint s _ _ rfl
  · rfl

@[simp] theorem queueCore_notice (n : Notice) (s : State) : queueCore (notice n s) = queueCore s := by
  unfold notice
  split_ifs
  · cases h : appendRun .print .mayUse n.run s with
    | none => rfl
    | some t => exact queueCore_pushPrint s t _ (cs_appendRun h)
  · rfl

@[simp] theorem queueCore_noticeIf (n : Option Notice) (s : State) : queueCore (noticeIf n s) = queueCore s := by
  cases n <;> simp [noticeIf]

@[simp] theorem queueCore_dropRecord (r : FileRecord) (s : State) : queueCore (dropRecord r s) = queueCore s := by
  have h (m : QueueName) := Store.queue_flushChain s.cs r.chain m
  have h1 : (s.cs.flushChain r.chain).send = s.cs.send := h .send
  have h2 : (s.cs.flushChain r.chain).print = s.cs.print := h .print
  have h3 : (s.cs.flushChain r.chain).punch = s.cs.punch := h .punch
  simp [queueCore, dropRecord, h1, h2, h3]

@[simp] theorem queueCore_dropPrinted (r : FileRecord) (s : State) : queueCore (dropPrinted r s) = queueCore s := by
  unfold dropPrinted; split_ifs <;> simp
@[simp] theorem queueCore_updateRecord (i : Fin 24) (f : FileRecord → FileRecord) (s : State) :
    queueCore (updateRecord i f s) = queueCore s := rfl
@[simp] theorem queueCore_fileChange (w : Bool) (s : State) : queueCore (fileChange w s) = queueCore s := by
  unfold fileChange; split_ifs <;> simp
@[simp] theorem queueCore_freeCursor (e : Bool) (s : State) : queueCore (freeCursor e s) = queueCore s := rfl

@[simp] theorem queueCore_endCursor (s : State) : queueCore (endCursor s) = queueCore s := by
  unfold endCursor
  split
  · rfl
  · split
    · rfl
    · simp

@[simp] theorem queueCore_abandonCursor (s : State) : queueCore (abandonCursor s) = queueCore s := by
  unfold abandonCursor; split <;> simp

@[simp] theorem queueCore_tryHeader (s : State) : queueCore (tryHeader s) = queueCore s := by
  unfold tryHeader
  split
  · rfl
  · split
    · split
      · rfl
      · split
        · rename_i s1 h
          have h1 := queueCore_pushPrint _ _ _ (cs_appendRun h)
          exact h1
        · rfl
    · rfl

@[simp] theorem queueCore_startReplay (r : FileRecord) (s : State) : queueCore (startReplay r s) = queueCore s := by
  have h : queueCore (tryHeader { updateRecord r.slot (fun x => { x with printStarted := true }) s with
      au.cursor := some ⟨r.slot, 0, .replay, true, r.printStarted⟩ }) = queueCore s := by
    rw [queueCore_tryHeader]; rfl
  unfold startReplay
  dsimp only
  split_ifs
  · rw [queueCore_endCursor]; exact h
  · exact h

@[simp] theorem queueCore_followTest (s : State) : queueCore (followTest s) = queueCore s := by
  unfold followTest; split <;> rfl

@[simp] theorem queueCore_auTestsFor (n : Nat) (s : State) : queueCore (auTestsFor n s) = queueCore s := by
  induction n generalizing s with
  | zero => simp [auTestsFor]
  | succ n ih =>
    unfold auTestsFor
    dsimp only
    split
    · split_ifs <;> simp [ih]
    · simp

@[simp] theorem queueCore_auTests (s : State) : queueCore (auTests s) = queueCore s := queueCore_auTestsFor _ _

@[simp] theorem queueCore_finishCursor (s : State) : queueCore (finishCursor s) = queueCore s := by
  unfold finishCursor; split_ifs <;> simp

@[simp] theorem queueCore_becomeAttendance (a : Attendance) (s : State) :
    queueCore (becomeAttendance a s) = queueCore s := by
  unfold becomeAttendance
  split_ifs
  · rfl
  · rw [queueCore_auTests]; rfl
  · rw [queueCore_auTests]; rfl

@[simp] theorem queueCore_attendRequest (a : Attendance) (c : AttendCause) (s : State) :
    queueCore (attendRequest a c s) = queueCore s := by
  unfold attendRequest
  split_ifs
  · rw [queueCore_becomeAttendance]; rfl
  · rfl
  · rfl

@[simp] theorem queueCore_applyPending (s : State) : queueCore (applyPending s) = queueCore s := by
  unfold applyPending
  split
  · rw [queueCore_becomeAttendance]; rfl
  · rfl

@[simp] theorem queueCore_tellIdle (s : State) : queueCore (tellIdle s) = queueCore s := by
  unfold tellIdle
  rw [queueCore_auTests, queueCore_applyPending]; rfl

/-- A flush empties SEND and stops the send timer (R25, R79). -/
theorem flushSend_send (s : State) :
    (flushSend s).cs.send = { s.cs.send.emptied with inFlight := 0 } ∧ (flushSend s).cs.print = s.cs.print
      ∧ (flushSend s).cs.punch = s.cs.punch := by
  have h1 : (s.cs.flushQueue .send).send = { s.cs.send.emptied with inFlight := 0 } := Store.queue_flushQueue s.cs .send
  have h2 : (s.cs.flushQueue .send).print = s.cs.print :=
    Store.queue_flushQueue_ne (n := .send) (m := .print) (by decide)
  have h3 : (s.cs.flushQueue .send).punch = s.cs.punch :=
    Store.queue_flushQueue_ne (n := .send) (m := .punch) (by decide)
  unfold flushSend
  dsimp only
  rw [cs_signal]
  exact ⟨h1, h2, h3⟩

/-! ### Outside OPEN nothing tests the flow levels (R28) -/

theorem flowTest_of_not_open {s : State} (h : s.cm.call.state ≠ .opened) : flowTest s = s := by
  simp [flowTest, flowApplies, h]

/-- All that a test of the flow levels can change: held-by-me with its timer, and the LU, by a request (R83, R84). -/
theorem flowTest_changes (s : State) :
    ∃ (held : Bool) (since : Option Tick) (l : LineUnit),
      flowTest s = { s with cm.call.heldByMe := held, cm.call.heldSince := since, lu := l } := by
  have asked (r : Request) : ∃ l, requestOrDrop r s = { s with lu := l } := by
    unfold requestOrDrop luRequest; split_ifs <;> exact ⟨_, rfl⟩
  have same : ∃ (held : Bool) (since : Option Tick) (l : LineUnit),
      s = { s with cm.call.heldByMe := held, cm.call.heldSince := since, lu := l } := ⟨_, _, _, rfl⟩
  unfold flowTest
  split_ifs
  · exact same
  · obtain ⟨l, h⟩ := asked (request s .hold (talkingParty s.cm.call) [] .cm)
    exact ⟨true, some (sec 120), l, by simp only [setHeld, queueHold, h]⟩
  · obtain ⟨l, h⟩ := asked (request s .go (talkingParty s.cm.call) [] .cm)
    exact ⟨false, none, l, by simp only [clearHeld, h]⟩
  · exact same
  · exact same

/-- Outside OPEN a block event leaves the CM and the LU alone. -/
theorem signal_of_not_open {s : State} (r t : Bool) (h : s.cm.call.state ≠ .opened) :
    (signal r t s).cm = s.cm ∧ (signal r t s).lu = s.lu := by
  cases r <;> cases t <;> simp [signal, blockReleased, blockTaken, flowTest, flowApplies, h]

/-- What a run placed elsewhere than in SEND changes: the store alone (R18, R79). -/
theorem placeRun_of_not_send {n : QueueName} {run : List Cell} {s : State} (hn : n ≠ .send) :
    placeRun n run s = { s with cs := s.cs.pushRun n run } := by simp [placeRun, startSendTimer, hn]

theorem appendRun_of_not_open {n : QueueName} {c : ReserveClass} {run : List Cell} {s : State} (hn : n ≠ .send)
    (h : s.cm.call.state ≠ .opened) :
    ((appendRun n c run s).getD s).cm = s.cm ∧ ((appendRun n c run s).getD s).lu = s.lu := by
  unfold appendRun
  split
  · rw [placeRun_of_not_send hn]
    exact signal_of_not_open (s := { s with cs := s.cs.pushRun n run }) _ _ h
  · exact ⟨rfl, rfl⟩

theorem placeNotice_of (n : Notice) (s : State) :
    (placeNotice n s).1.cm = s.cm ∧ (placeNotice n s).1.lu = s.lu := by
  unfold placeNotice
  split_ifs
  · rw [placeRun_of_not_send (by decide)]; exact ⟨rfl, rfl⟩
  · exact ⟨rfl, rfl⟩

theorem notice_of_not_open {n : Notice} {s : State} (h : s.cm.call.state ≠ .opened) :
    (notice n s).cm = s.cm ∧ (notice n s).lu = s.lu := by
  unfold notice
  split_ifs
  · exact appendRun_of_not_open (by decide) h
  · exact ⟨rfl, rfl⟩

theorem flushSend_of_not_open {s : State} (h : s.cm.call.state ≠ .opened) :
    (flushSend s).cm = { s.cm with sendTimer := .stopped } ∧ (flushSend s).lu = s.lu := by
  unfold flushSend
  dsimp only
  exact signal_of_not_open (s := { s with cs := s.cs.flushQueue .send, cm.sendTimer := .stopped }) _ _ h

theorem appendEnd_of_not_open {n : QueueName} {s : State} (hn : n ≠ .send) (h : s.cm.call.state ≠ .opened) :
    (appendEnd n s).cm = s.cm ∧ (appendEnd n s).lu = s.lu := by
  unfold appendEnd
  split
  · exact ⟨rfl, rfl⟩
  · exact appendRun_of_not_open hn h

/-- The store after END: the queue's mark is absent, every other queue and this one's limit as before (R26). -/
theorem appendEnd_queues (n : QueueName) (s : State) :
    ((appendEnd n s).cs.queue n).openMark = none
      ∧ ∀ m, m ≠ n → (appendEnd n s).cs.queue m = s.cs.queue m := by
  unfold appendEnd
  split
  · rename_i h
    exact ⟨h, fun _ _ => rfl⟩
  · dsimp only
    refine ⟨by simp, fun m hm => ?_⟩
    rw [Store.queue_setQueue_ne hm]
    cases h : appendRun n .mayUse [.boundary .finish _] s with
    | none => rfl
    | some t => simp [cs_appendRun h, Store.queue_pushRun_ne _ hm]

theorem endRun_keeps (s : State) :
    (endRun s).cs = s.cs ∧ (endRun s).lu = s.lu ∧ (endRun s).ku = s.ku ∧ (endRun s).au = s.au
      ∧ (endRun s).cm.view = s.cm.view ∧ (endRun s).cm.call = { s.cm.call with
          readerLink := (endRun s).cm.call.readerLink } ∧ (endRun s).cm.sendTimer = s.cm.sendTimer
      ∧ (endRun s).cm.breakTimer = s.cm.breakTimer ∧ (endRun s).tu.run = none := by
  unfold endRun
  split
  · rename_i h; exact ⟨rfl, rfl, rfl, rfl, rfl, rfl, rfl, rfl, h⟩
  · exact ⟨rfl, rfl, rfl, rfl, rfl, rfl, rfl, rfl, rfl⟩

theorem stopSendRun_keeps (s : State) :
    (stopSendRun s).cs = s.cs ∧ (stopSendRun s).lu = s.lu ∧ (stopSendRun s).ku = s.ku ∧ (stopSendRun s).au = s.au
      ∧ (stopSendRun s).cm.view = s.cm.view ∧ (stopSendRun s).cm.call = { s.cm.call with
          readerLink := (stopSendRun s).cm.call.readerLink } ∧ (stopSendRun s).cm.sendTimer = s.cm.sendTimer
      ∧ (stopSendRun s).cm.breakTimer = s.cm.breakTimer := by
  unfold stopSendRun
  split_ifs
  · split
    · split_ifs
      · obtain ⟨h1, h2, h3, h4, h5, h6, h7, h8, _⟩ := endRun_keeps s
        exact ⟨h1, h2, h3, h4, h5, h6, h7, h8⟩
      · exact ⟨rfl, rfl, rfl, rfl, rfl, rfl, rfl, rfl⟩
    · exact ⟨rfl, rfl, rfl, rfl, rfl, rfl, rfl, rfl⟩
  · exact ⟨rfl, rfl, rfl, rfl, rfl, rfl, rfl, rfl⟩

/-- Leaving OPEN, as R95 lists it. -/
theorem leaveOpen_spec {c : CallState} (f : Bool) (s : State) (hc : c ≠ .opened) :
    let t := leaveOpen c f s
    t.cm.call.state = c ∧ t.cm.call.holdSet = [] ∧ t.cm.call.heldByMe = false ∧ t.cm.call.heldSince = none
      ∧ t.cm.call.fileLink = none ∧ t.cm.sendTimer = .stopped ∧ t.cm.view = s.cm.view
      ∧ t.cm.breakTimer = s.cm.breakTimer
      ∧ t.lu = withdraw .brk (withdraw .go (withdraw .hold (withdrawText s.lu)))
      ∧ t.cs.send = { s.cs.send.emptied with inFlight := 0 }
      ∧ t.cs.print.openMark = none ∧ t.cs.punch.openMark = none ∧ t.ku.editStack = []
      ∧ t.cm.call.partyAddr = s.cm.call.partyAddr ∧ t.cm.call.partyStation = s.cm.call.partyStation
      ∧ t.cm.call.role = s.cm.call.role := by
  have close (x : State) : closeFile f x = x ∨ ∃ i a, closeFile f x =
      { x with au := a, cm.call.fileLink := none } ∧ x.cm.call.fileLink = some i := by
    unfold closeFile
    cases h : x.cm.call.fileLink with
    | none => exact Or.inl rfl
    | some i => exact Or.inr ⟨i, _, rfl, rfl⟩
  have link (x : State) : (closeFile f x).cm.call.fileLink = none := by
    unfold closeFile
    cases h : x.cm.call.fileLink with
    | none => exact h
    | some i => rfl
  unfold leaveOpen
  dsimp only
  generalize h0 : clearHolds (withdrawOpen (setCallState c s)) = s0
  have a0 : s0.cm.call.state = c ∧ s0.cm.call.holdSet = [] ∧ s0.cm.call.heldByMe = false ∧ s0.cm.call.heldSince = none
      ∧ s0.cm.view = s.cm.view ∧ s0.cm.breakTimer = s.cm.breakTimer
      ∧ s0.lu = withdraw .brk (withdraw .go (withdraw .hold (withdrawText s.lu))) ∧ s0.cs = s.cs
      ∧ s0.cm.call.partyAddr = s.cm.call.partyAddr ∧ s0.cm.call.partyStation = s.cm.call.partyStation
      ∧ s0.cm.call.role = s.cm.call.role := by
    subst h0; exact ⟨rfl, rfl, rfl, rfl, rfl, rfl, rfl, rfl, rfl, rfl, rfl⟩
  obtain ⟨e1, e2, e3, _, e5, e6, _, e8⟩ := stopSendRun_keeps s0
  generalize stopSendRun s0 = s1 at e1 e2 e3 e5 e6 e8 ⊢
  have n1 : s1.cm.call.state ≠ .opened := by rw [e6]; exact fun h => hc (a0.1.symm.trans h)
  have d : (discardEdit s1).cm = s1.cm ∧ (discardEdit s1).lu = s1.lu ∧ (discardEdit s1).ku.editStack = []
      ∧ queueCore (discardEdit s1) = queueCore s1 := by
    unfold discardEdit
    split_ifs with hE
    · exact ⟨rfl, rfl, hE, rfl⟩
    · obtain ⟨x1, x2⟩ := notice_of_not_open (n := .lineDiscarded) (s := { s1 with ku.editStack := [] }) n1
      refine ⟨x1, x2, (rest_of_storeCore (storeCore_notice _ _)).1, ?_⟩
      rw [queueCore_notice]; rfl
  obtain ⟨d1, d2, d3, d4⟩ := d
  generalize discardEdit s1 = s2 at d1 d2 d3 d4 ⊢
  have n2 : s2.cm.call.state ≠ .opened := by rw [d1]; exact n1
  obtain ⟨f1, f2⟩ := flushSend_of_not_open n2
  obtain ⟨g1, g2, g3⟩ := flushSend_send s2
  have g4 : (flushSend s2).ku.editStack = [] := (rest_of_storeCore (storeCore_flushSend s2)).1.trans d3
  generalize flushSend s2 = s3 at f1 f2 g1 g2 g3 g4 ⊢
  have n3 : s3.cm.call.state ≠ .opened := by rw [f1]; exact n2
  obtain ⟨p1, p2⟩ := appendEnd_of_not_open (n := .print) (by decide) n3
  obtain ⟨q1, q2⟩ := appendEnd_queues .print s3
  have p3 : (appendEnd .print s3).ku.editStack = [] := (rest_of_storeCore (storeCore_appendEnd _ s3)).1.trans g4
  generalize appendEnd .print s3 = s4 at p1 p2 p3 q1 q2 ⊢
  have n4 : s4.cm.call.state ≠ .opened := by rw [p1]; exact n3
  obtain ⟨r1, r2⟩ := appendEnd_of_not_open (n := .punch) (by decide) n4
  obtain ⟨u1, u2⟩ := appendEnd_queues .punch s4
  have r3 : (appendEnd .punch s4).ku.editStack = [] := (rest_of_storeCore (storeCore_appendEnd _ s4)).1.trans p3
  generalize appendEnd .punch s4 = s5 at r1 r2 r3 u1 u2 ⊢
  have hsend : s5.cs.send = { s.cs.send.emptied with inFlight := 0 } := by
    have x1 : s5.cs.send = s4.cs.send := u2 .send (by decide)
    have x2 : s4.cs.send = s3.cs.send := q2 .send (by decide)
    have x3 : s2.cs.send = s1.cs.send := by
      simp only [queueCore, Prod.mk.injEq] at d4; exact d4.1
    rw [x1, x2, g1, x3, e1, a0.2.2.2.2.2.2.2.1]
  have hprint : s5.cs.print.openMark = none := by
    have x1 : s5.cs.print = s4.cs.print := u2 .print (by decide)
    rw [x1]; exact q1
  have hcm : s5.cm = { s1.cm with sendTimer := .stopped } := by rw [r1, p1, f1, d1]
  have hlu : s5.lu = s0.lu := by rw [r2, p2, f2, d2, e2]
  have hl := link s5
  obtain ⟨b1, b2, b3, b4, b5, b6, b7, b8, b9, b10, b11⟩ := a0
  have c1 : s5.cm.call.state = c := by rw [hcm]; exact (congrArg CallRecord.state e6).trans b1
  have c2 : s5.cm.call.holdSet = [] := by rw [hcm]; exact (congrArg CallRecord.holdSet e6).trans b2
  have c3 : s5.cm.call.heldByMe = false := by rw [hcm]; exact (congrArg CallRecord.heldByMe e6).trans b3
  have c4 : s5.cm.call.heldSince = none := by rw [hcm]; exact (congrArg CallRecord.heldSince e6).trans b4
  have c5 : s5.cm.call.partyAddr = s.cm.call.partyAddr := by
    rw [hcm]; exact (congrArg CallRecord.partyAddr e6).trans b9
  have c6 : s5.cm.call.partyStation = s.cm.call.partyStation := by
    rw [hcm]; exact (congrArg CallRecord.partyStation e6).trans b10
  have c7 : s5.cm.call.role = s.cm.call.role := by rw [hcm]; exact (congrArg CallRecord.role e6).trans b11
  have c8 : s5.cm.view = s.cm.view := by rw [hcm]; exact e5.trans b5
  have c9 : s5.cm.breakTimer = s.cm.breakTimer := by rw [hcm]; exact e8.trans b6
  have c10 : s5.cm.sendTimer = .stopped := by rw [hcm]
  rcases close s5 with h | ⟨i, a, h, _⟩
  · rw [h] at hl ⊢
    exact ⟨c1, c2, c3, c4, hl, c10, c8, c9, hlu.trans b7, hsend, hprint, u1, r3, c5, c6, c7⟩
  · rw [h]
    exact ⟨c1, c2, c3, c4, rfl, c10, c8, c9, hlu.trans b7, hsend, hprint, u1, r3, c5, c6, c7⟩

/-! ### The file's operations outside OPEN leave the CM and the LU alone -/

/-- The CM and the LU of two states agree. -/
def SameLine (t s : State) : Prop := t.cm = s.cm ∧ t.lu = s.lu

theorem SameLine.refl (s : State) : SameLine s s := ⟨rfl, rfl⟩

theorem SameLine.trans {a b c : State} (h : SameLine a b) (k : SameLine b c) : SameLine a c :=
  ⟨h.1.trans k.1, h.2.trans k.2⟩

theorem SameLine.notOpen {t s : State} (h : SameLine t s) (k : s.cm.call.state ≠ .opened) :
    t.cm.call.state ≠ .opened := by rw [h.1]; exact k

section
variable {s : State} (h : s.cm.call.state ≠ .opened)
include h

theorem SameLine.signal (r t : Bool) : SameLine (signal r t s) s := signal_of_not_open r t h

omit h in
theorem SameLine.placeNotice (n : Notice) : SameLine (placeNotice n s).1 s := placeNotice_of n s

omit h in
theorem SameLine.dropPrinted (r : FileRecord) : SameLine (dropPrinted r s) s := by
  unfold Machine.dropPrinted; split_ifs <;> exact ⟨rfl, rfl⟩

theorem SameLine.fileChange (w : Bool) : SameLine (fileChange w s) s := by
  unfold Machine.fileChange
  split_ifs
  · rw [flowTest_of_not_open h]; exact SameLine.refl s
  · exact SameLine.refl s

theorem SameLine.notice (n : Notice) : SameLine (notice n s) s := notice_of_not_open h

omit h in
theorem SameLine.ofUpdateRecord (i : Fin 24) (f : FileRecord → FileRecord) : SameLine (updateRecord i f s) s := ⟨rfl, rfl⟩

omit h in
theorem SameLine.ofFreeCursor (e : Bool) : SameLine (freeCursor e s) s := ⟨rfl, rfl⟩

theorem SameLine.endCursor : SameLine (endCursor s) s := by
  unfold Machine.endCursor
  split
  · exact SameLine.refl s
  · split
    · exact SameLine.ofFreeCursor true
    · rename_i c _ _ r _
      dsimp only
      have n1 : SameLine (Machine.placeNotice (.endMsg r.number)
          (updateRecord c.record (fun x => { x with printed := true }) s)).1 s :=
        (SameLine.placeNotice _).trans (SameLine.ofUpdateRecord _ _)
      have n2 := (SameLine.dropPrinted r).trans ((SameLine.ofFreeCursor true).trans n1)
      have n3 {p q : Bool} := (SameLine.signal (n2.notOpen h) p q).trans n2
      exact (SameLine.fileChange (n3.notOpen h) _).trans n3

omit h in
theorem SameLine.abandonCursor : SameLine (abandonCursor s) s := by
  unfold Machine.abandonCursor; split <;> exact ⟨rfl, rfl⟩

theorem SameLine.tryHeader : SameLine (tryHeader s) s := by
  unfold Machine.tryHeader
  split
  · exact SameLine.refl s
  · split
    · split
      · exact SameLine.refl s
      · rename_i c _ _ _ r _
        have k := appendRun_of_not_open (n := .print) (c := .mayUse) (run := Notice.run (.header (headerOf r c.again)))
          (s := { s with au.headerRetryDue := false }) (by decide) h
        split
        · rename_i t ht
          rw [ht] at k
          exact k
        · exact ⟨rfl, rfl⟩
    · exact SameLine.refl s

theorem SameLine.startReplay (r : FileRecord) : SameLine (startReplay r s) s := by
  have k : SameLine (Machine.tryHeader { updateRecord r.slot (fun x => { x with printStarted := true }) s with
      au.cursor := some ⟨r.slot, 0, .replay, true, r.printStarted⟩ }) s :=
    SameLine.tryHeader (s := { updateRecord r.slot (fun x => { x with printStarted := true }) s with
      au.cursor := some ⟨r.slot, 0, .replay, true, r.printStarted⟩ }) h
  unfold Machine.startReplay
  dsimp only
  split_ifs
  · exact (SameLine.endCursor (k.notOpen h)).trans k
  · exact k

omit h in
theorem SameLine.followTest : SameLine (followTest s) s := by
  unfold Machine.followTest; split <;> exact ⟨rfl, rfl⟩

theorem SameLine.auTestsFor (n : Nat) : SameLine (auTestsFor n s) s := by
  induction n generalizing s with
  | zero => exact SameLine.followTest
  | succ n ih =>
    have k : SameLine (Machine.followTest s) s := SameLine.followTest
    unfold Machine.auTestsFor
    dsimp only
    split
    · rename_i r _
      have k2 := (SameLine.startReplay (k.notOpen h) r).trans k
      split_ifs
      · exact (ih (k2.notOpen h)).trans k2
      · exact k2
    · exact k

theorem SameLine.auTests : SameLine (auTests s) s := SameLine.auTestsFor h _

theorem SameLine.finishCursor : SameLine (finishCursor s) s := by
  unfold Machine.finishCursor
  split_ifs
  · have k := SameLine.endCursor h
    exact (SameLine.auTests (k.notOpen h)).trans k
  · exact SameLine.refl s

theorem SameLine.becomeAttendance (a : Attendance) : SameLine (becomeAttendance a s) s := by
  unfold Machine.becomeAttendance
  split_ifs
  · exact SameLine.refl s
  · exact SameLine.auTests (s := { s with au.attendance := a, au.attendTimer := attendTimerFull s }) h
  · exact SameLine.auTests (s := { s with au.attendance := a, au.attendTimer := none }) h

theorem SameLine.applyPending : SameLine (applyPending s) s := by
  unfold Machine.applyPending
  split
  · exact SameLine.becomeAttendance (s := { s with au.pending := none }) h _
  · exact SameLine.refl s

theorem SameLine.tellIdle : SameLine (tellIdle s) s := by
  unfold Machine.tellIdle
  have k : SameLine (Machine.applyPending { s with au.autoAnswered := false }) s :=
    SameLine.applyPending (s := { s with au.autoAnswered := false }) h
  exact (SameLine.auTests (k.notOpen h)).trans k

theorem SameLine.noticeIf (n : Option Notice) : SameLine (noticeIf n s) s := by
  cases n with
  | none => exact SameLine.refl s
  | some n => exact notice_of_not_open h

end

/-- What follows the record's arrival in IDLE, and in CLEARING, leaves the CM and the LU alone (R95). -/
theorem SameLine.afterEnd {s : State} (h : s.cm.call.state ≠ .opened) (n : Option Notice) :
    SameLine (Machine.finishCursor (Machine.noticeIf n s)) s := by
  have k := SameLine.noticeIf h n
  exact (SameLine.finishCursor (k.notOpen h)).trans k

/-- The record's way to IDLE from a state other than OPEN: nothing else of the CM, and nothing of the LU (R95). -/
theorem toIdle_of_not_open {s : State} (f : Bool) (n : Option Notice) (h : s.cm.call.state ≠ .opened) :
    (toIdle f n s).cm = { s.cm with call.state := .idle } ∧ (toIdle f n s).lu = s.lu
      ∧ queueCore (toIdle f n s) = queueCore s ∧ (toIdle f n s).ku.editStack = s.ku.editStack := by
  have hi : (setCallState .idle s).cm.call.state ≠ .opened := by
    show CallState.idle ≠ .opened
    decide
  have e : toIdle f n s = tellIdle (finishCursor (noticeIf n (setCallState .idle s))) := by simp [toIdle, h]
  have k := SameLine.afterEnd hi n
  have k2 := (SameLine.tellIdle (k.notOpen hi)).trans k
  rw [e]
  refine ⟨k2.1, k2.2, ?_, ?_⟩
  · simp only [queueCore_tellIdle, queueCore_finishCursor, queueCore_noticeIf]; rfl
  · rw [(rest_of_fileCore (fileCore_tellIdle _)).2.2.1, (rest_of_fileCore (fileCore_finishCursor _)).2.2.1,
      (rest_of_fileCore (fileCore_noticeIf n _)).2.2.1]
    rfl

/-- The record's way from OPEN to IDLE (R95). -/
theorem toIdle_of_open {s : State} (f : Bool) (n : Option Notice) (h : s.cm.call.state = .opened) :
    let t := toIdle f n s
    t.cm.call.state = .idle ∧ t.cm.call.holdSet = [] ∧ t.cm.call.heldByMe = false ∧ t.cm.call.heldSince = none
      ∧ t.cm.call.fileLink = none ∧ t.cm.sendTimer = .stopped ∧ t.cm.view = s.cm.view
      ∧ t.cm.breakTimer = s.cm.breakTimer
      ∧ t.lu = withdraw .brk (withdraw .go (withdraw .hold (withdrawText s.lu)))
      ∧ t.cs.send = { s.cs.send.emptied with inFlight := 0 }
      ∧ t.cs.print.openMark = none ∧ t.cs.punch.openMark = none ∧ t.ku.editStack = [] := by
  have e : toIdle f n s = tellIdle (finishCursor (noticeIf n (leaveOpen .idle f s))) := by simp [toIdle, h]
  obtain ⟨a1, a2, a3, a4, a5, a6, a7, a8, a9, a10, a11, a12, a13, _⟩ := leaveOpen_spec (c := .idle) f s (by decide)
  have hi : (leaveOpen .idle f s).cm.call.state ≠ .opened := by rw [a1]; decide
  have k := SameLine.afterEnd hi n
  have k2 := (SameLine.tellIdle (k.notOpen hi)).trans k
  have q : queueCore (tellIdle (finishCursor (noticeIf n (leaveOpen .idle f s)))) = queueCore (leaveOpen .idle f s) := by
    simp
  have ed : (tellIdle (finishCursor (noticeIf n (leaveOpen .idle f s)))).ku.editStack = [] := by
    rw [(rest_of_fileCore (fileCore_tellIdle _)).2.2.1, (rest_of_fileCore (fileCore_finishCursor _)).2.2.1,
      (rest_of_fileCore (fileCore_noticeIf n _)).2.2.1]
    exact a13
  rw [e]
  simp only [queueCore, Prod.mk.injEq] at q
  obtain ⟨q1, q2, q3, q4⟩ := q
  refine ⟨?_, ?_, ?_, ?_, ?_, ?_, ?_, ?_, ?_, ?_, ?_, ?_, ed⟩
  · rw [k2.1, a1]
  · rw [k2.1, a2]
  · rw [k2.1, a3]
  · rw [k2.1, a4]
  · rw [k2.1, a5]
  · rw [k2.1, a6]
  · rw [k2.1, a7]
  · rw [k2.1, a8]
  · rw [k2.2, a9]
  · rw [q1, a10]
  · rw [q4, a11]
  · rw [q2, a12]

end Sys2Proof.Machine
end

