-- ==== Sys2Proof/Laws/Events.lean ====
section
/-!
SUPPORT. What the events bring to the shared operations: the samples of a key position, the receive side when this station
stops driving, the run of space, TELEGRAM_HAND_ON as the call's part of the hand-on over `handedBase`, the control list by
kind, and ATTEMPT_END over `attemptEnds`.
-/

namespace Sys2Proof.Machine

/-! ### Samples (R99) -/

@[simp] theorem KeyScan.samples_nil (k : KeyScan) : KeyScan.samples [] k = k := rfl

theorem KeyScan.samples_cons (b : Bool) (bs : List Bool) (k : KeyScan) :
    KeyScan.samples (b :: bs) k =
      if (k.sample b).level = k.level then KeyScan.samples bs (k.sample b) else k.sample b := rfl

theorem KeyScan.sample_count {k : KeyScan} (h : k.count ≤ 2) (b : Bool) : (k.sample b).count ≤ 2 := by
  unfold KeyScan.sample
  split_ifs <;> simp
  omega

/-- Samples leave the count of a position in its range. -/
theorem KeyScan.samples_count (bs : List Bool) {k : KeyScan} (h : k.count ≤ 2) : (KeyScan.samples bs k).count ≤ 2 := by
  induction bs generalizing k with
  | nil => exact h
  | cons b bs ih =>
    rw [KeyScan.samples_cons]
    split_ifs
    · exact ih (KeyScan.sample_count h b)
    · exact KeyScan.sample_count h b

/-! ### The receive side (R36, R47) -/

@[simp] theorem stopDriving_own (w : Bool) : stopDriving (.framing true w none) = .framing false false none := rfl
@[simp] theorem stopDriving_other (w : Bool) (f : Option Framed) :
    stopDriving (.framing false w f) = .framing false w f := rfl
@[simp] theorem stopDriving_decided (own w : Bool) (f : Framed) :
    stopDriving (.framing own w (some f)) = .framing own w (some f) := by cases own <;> rfl
@[simp] theorem stopDriving_hunting : stopDriving .hunting = .hunting := rfl

theorem spaceRunOn_of_quiet {l : LineUnit} (h : l.quiet ≠ 0) : spaceRunOn l = 1 := by simp [spaceRunOn, h]

theorem spaceRunOn_of_space {l : LineUnit} (h : l.quiet = 0) : spaceRunOn l = l.spaceRun + 1 := by simp [spaceRunOn, h]

/-- While the space unit read last goes on, time that passes leaves the run of space and the quiet timer as they are (R32,
R47). -/
theorem LineUnit.elapse_in_space {d : Tick} {l : LineUnit} (h : d ≤ l.spaceLeft) :
    (l.elapse d).spaceRun = l.spaceRun ∧ (l.elapse d).quiet = l.quiet := by
  have none : d - l.spaceLeft = 0 := Nat.sub_eq_zero_of_le h
  simp [LineUnit.elapse, Nat.not_lt.mpr h, none]

/-- Past the space unit read last the line is at mark: the run of space ends, and the quiet timer counts the rest. -/
theorem LineUnit.elapse_to_mark {d : Tick} {l : LineUnit} (h : l.spaceLeft < d) (counting : l.counting = true) :
    (l.elapse d).spaceRun = 0 ∧ (l.elapse d).quiet = l.quiet + (d - l.spaceLeft) := by
  simp [LineUnit.elapse, h, counting]

@[simp] theorem LineUnit.untilMark_zero (l : LineUnit) : l.untilMark 0 = 0 := rfl

/-- The time until the line has been at mark for `d` more brings `d` to the quiet timer. -/
theorem LineUnit.quiet_untilMark (d : Tick) {l : LineUnit} (counting : l.counting = true) :
    (l.elapse (l.untilMark d)).quiet = l.quiet + d := by
  unfold LineUnit.untilMark
  split_ifs with h
  · simp [LineUnit.elapse, counting, h]
  · simp [LineUnit.elapse, counting]

@[simp] theorem spaceRunThrough_nil (n : Nat) : spaceRunThrough [] n = n := rfl

theorem spaceRunThrough_cons (mark : Bool) (rest : List Bool) (n : Nat) :
    spaceRunThrough (mark :: rest) n = if 48 ≤ n then n else spaceRunThrough rest (if mark then 0 else n + 1) := rfl

/-- A run that has not reached the line break is never counted past it. -/
theorem spaceRunThrough_le (units : List Bool) {n : Nat} (h : n ≤ 48) : spaceRunThrough units n ≤ 48 := by
  induction units generalizing n with
  | nil => exact h
  | cons mark rest ih =>
    rw [spaceRunThrough_cons]
    split_ifs
    · exact h
    · exact ih (by omega)
    · exact ih (by omega)

/-- After the ACK slot of an unbroken Turn the run is below the line break. -/
theorem runAfterSlot_lt {u : SlotUnits} {taken : Bool} {n : Nat} (h : spaceRunThrough (turnUnits u) n < 48) :
    runAfterSlot u taken n < 48 := by
  unfold runAfterSlot
  split_ifs
  · exact h
  · omega

theorem breaksLine_eq_false {units : List Bool} {s : State} (h : unbroken units s) : breaksLine units s = false := by
  exact decide_eq_false (Nat.not_le.mpr h)

/-- Units read in a telegram in which the line does not break: they are counted, and the command acts. -/
theorem readUnits_of_unbroken {units : List Bool} {f : State → State} {s : State} (h : unbroken units s) :
    readUnits units f s = acted (f (countUnits units s)) := by simp [readUnits, breaksLine_eq_false h]

/-! ### The hand-on (R37) -/

/-- The line view reads neither whose the telegram was nor whether it was withdrawn. -/
theorem viewAfter_fields (v : LineView) (h : Handed) :
    viewAfter v h = viewAfter v ⟨h.kind, h.telegram, h.run, h.ack, false, false, h.taken, h.result⟩ := rfl

/-- TELEGRAM_HAND_ON of another station's telegram in a JOINED station, the line not broken in its Turn: the call's part of it
over `handedBase`. -/
theorem execTelegramHandOn_heard {s : State} {f : Framed} {k : Kind} {w : Bool} {u : SlotUnits}
    (hr : s.lu.receive = .framing false w (some f)) (hk : validKind f.telegram = some k)
    (hj : s.lu.joinState = .joined) (hs : f.telegram.source ≠ s.cl.station) (hu : unbroken (turnUnits u) s) :
    execTelegramHandOn u s =
      let h : Handed := ⟨k, f.telegram, f.run, heldSpace u || f.taken, false, w, f.taken, f.result⟩
      let b := handedBase false u k f s
      let freed := freesView s.cm.view b.cm.view
      acted (endFreed freed h (cmHandOn (takesView s.cm.view b.cm.view) freed h b)) := by
  simp [execTelegramHandOn, framedNow, hr, handedOf, hk, breaksLine_eq_false hu, handOn, luHandOn, luAfterSlot, hj,
    duplicateHeard, hs, handedBase, viewAfter]

/-- Which dialing an outcome other than glare undoes: that of the Turn, wherever keys have moved the record, and that begun
since on a record then IDLE (R76, R111). -/
theorem dialingToUndo_iff {o : AnswerOutcome} (ho : o ≠ .glare) {was : CallState} {s : State} :
    dialingToUndo o was s = true ↔
      was = .dialing ∧ (s.cm.call.state = .idle ∨ s.cm.call.state = .dialing ∨ s.cm.call.state = .calling)
        ∨ was = .idle ∧ (s.cm.call.state = .dialing ∨ s.cm.call.state = .calling) := by
  cases was <;> simp [dialingToUndo, dials, ho]

/-- A CALL taken here goes by its outcome alone where the CALL does not overtake this station's attempt (R73, R76). -/
theorem heardCall_of_spared {tookView : Bool} {h : Handed} {s : State} {o : AnswerOutcome} {w : Fin 8} {was : CallState}
    (ht : h.taken = true) (hr : h.result = .call o w was)
    (hs : s.cm.call.state = .calling → tookView = true → sparesAttempt h s = true) :
    heardCall tookView h s = takenCall o w was h.telegram s := by
  have : (tookView && decide (s.cm.call.state = .calling) && !sparesAttempt h s) = false := by
    cases tookView
    · rfl
    · by_cases hc : s.cm.call.state = .calling
      · simp [hs hc rfl]
      · simp [hc]
  simp [heardCall, ht, hr, this]

/-- A CALL frees no line view (R68). -/
theorem not_freesView_call {v : LineView} {h : Handed} (hk : h.kind = .call) : freesView v (viewAfter v h) = false := by
  cases hv : v.state <;> simp [viewAfter, hv, hk, freesView]
  all_goals split_ifs <;> simp [hv]

/-- TELEGRAM_HAND_ON of a CALL taken here, where it does not overtake this station's attempt: its outcome applied over
`handedBase` (R73, R76). -/
theorem execTelegramHandOn_takenCall {s : State} {f : Framed} {v : Bool} {u : SlotUnits} {o : AnswerOutcome}
    {i : Fin 8} {was : CallState} (hr : s.lu.receive = .framing false v (some f)) (hk : validKind f.telegram = some .call)
    (hj : s.lu.joinState = .joined) (hs : f.telegram.source ≠ s.cl.station) (hu : unbroken (turnUnits u) s)
    (ht : f.taken = true) (ho : f.result = .call o i was)
    (hc : s.cm.call.state = .calling → s.cm.view.state = .free → o = .glare ∨ dialingToUndo o was s = true) :
    execTelegramHandOn u s = acted (takenCall o i was f.telegram (handedBase false u .call f s)) := by
  have free : freesView s.cm.view (handedBase false u .call f s).cm.view = false := not_freesView_call rfl
  rw [execTelegramHandOn_heard hr hk hj hs hu]
  simp only [free, cmHandOn, endFreed, Bool.false_eq_true, false_and, if_false]
  rw [heardCall_of_spared ht ho]
  intro calling taken
  have isFree : s.cm.view.state = .free := by
    simp only [takesView, Bool.and_eq_true, decide_eq_true_eq] at taken
    exact taken.1
  rcases hc calling isFree with rfl | undone
  · simp [sparesAttempt, ht, ho]
  · have : dialingToUndo o was (handedBase false u .call f s) = true := undone
    cases o <;> simp [sparesAttempt, ht, ho, this]

/-- TELEGRAM_HAND_ON of this station's own telegram in a JOINED station, the line not broken in its Turn. -/
theorem execTelegramHandOn_own {s : State} {f : Framed} {k : Kind} {w : Bool} {u : SlotUnits}
    (hr : s.lu.receive = .framing true w (some f)) (hk : validKind f.telegram = some k)
    (hj : s.lu.joinState = .joined) (hu : unbroken (turnUnits u) s) :
    execTelegramHandOn u s =
      let read := s.lu.ackRead.getD (heldSpace u)
      let h : Handed := ⟨k, f.telegram, f.run, read, true, w || slotWithdrawn s, f.taken, f.result⟩
      let b := handedBase true u k f s
      let freed := freesView s.cm.view b.cm.view
      acted (endFreed freed h (cmHandOn (takesView s.cm.view b.cm.view) freed h b)) := by
  simp [execTelegramHandOn, framedNow, hr, handedOf, hk, breaksLine_eq_false hu, handOn, luHandOn, luAfterSlot, hj,
    handedBase, viewAfter]

/-! ### The control list by kind, and the end of an attempt (R41, R43, log 12) -/

/-- A withdrawal leaves the list that the statements speak of. -/
theorem withdraw_list (k : Kind) (s : State) : (withdraw k s.lu).control = listWithdrawn k s := by
  have h : inSlot k s.lu = decide (s.lu.slot.map Slot.source = some (.control k)) := by
    unfold inSlot; cases s.lu.slot <;> simp
  simp [withdraw, listWithdrawn, h]

/-- Found in a list in which the entries of a kind have changed, but not their content. -/
theorem find_changed (k : Kind) (f : ControlEntry → ControlEntry) (hf : ∀ e, (f e).content = e.content)
    (l : List ControlEntry) :
    (l.map fun e => if e.content.kind = k then f e else e).find? (fun e => e.content.kind = k) =
      (l.find? fun e => e.content.kind = k).map f := by
  induction l with
  | nil => rfl
  | cons a l ih => by_cases h : a.content.kind = k <;> simp [h, hf, ih]

/-- The entries of the other kinds are as they were. -/
theorem others_changed (k : Kind) (f : ControlEntry → ControlEntry) (hf : ∀ e, (f e).content = e.content)
    (l : List ControlEntry) :
    (l.map fun e => if e.content.kind = k then f e else e).filter (fun e => e.content.kind ≠ k) =
      l.filter fun e => e.content.kind ≠ k := by
  induction l with
  | nil => rfl
  | cons a l ih =>
    by_cases h : a.content.kind = k <;> simp only [List.map_cons, h, if_true, if_false]
    · rw [List.filter_cons_of_neg (by simp [hf, h]), List.filter_cons_of_neg (by simp [h]), ih]
    · rw [List.filter_cons_of_pos (by simp [h]), List.filter_cons_of_pos (by simp [h]), ih]

theorem slotWithdrawn_control {s : State} {k : Kind} {tel : Telegram} {e : ControlEntry}
    (slot : s.lu.slot = some ⟨.control k, tel⟩)
    (entry : s.lu.control.find? (fun x => x.content.kind = k) = some e) : slotWithdrawn s = e.withdrawn := by
  simp [slotWithdrawn, slot, entryOf, entry]

theorem slotWithdrawn_text {s : State} {tel : Telegram} {p : TextPlace} (slot : s.lu.slot = some ⟨.text, tel⟩)
    (text : s.lu.text = some p) : slotWithdrawn s = p.withdrawn := by simp [slotWithdrawn, slot, text]

/-- A function key at the head: its act, and the entry leaves the FIFO (R101). -/
theorem keyAct_of_head {k : Key} {f : State → State} {s : State} {rest : List Key} (load : loaded s = true)
    (head : s.ku.fifo = k :: rest) : keyAct k f s = acted (dropHead (f s)) := by
  simp [keyAct, headKey, load, head, actIf]

/-! What an owner does with a request whose key was read in a state that it finds, or no longer finds (R101, R165). -/

theorem requestDialing_idle {s : State} (h : s.cm.call.state = .idle) : requestDialing s = beginDialing s := if_pos h

theorem requestDialing_refused {s : State} (h : s.cm.call.state ≠ .idle) : requestDialing s = refuseKey s := if_neg h

theorem takenRinging_ringing {s : State} (f : State → State) (h : s.cm.call.state = .ringing) :
    takenRinging f s = f s := if_pos h

theorem takenRinging_refused {s : State} (f : State → State) (h : s.cm.call.state ≠ .ringing) :
    takenRinging f s = refuseKey s := if_neg h

theorem takenDialing_dialing {s : State} (f : State → State) (h : s.cm.call.state = .dialing) :
    takenDialing f s = f s := if_pos h

theorem takenDialing_moved {s : State} (f : State → State) (h : s.cm.call.state ≠ .dialing) :
    takenDialing f s = { s with ku.dial := [] } := if_neg h

/-- ATTEMPT_END, in either order with the hand-on: the attempt's outcome by its source and its reading, then the restart
CLEAR's end, over the LU with the slot empty and the collision count 0 (R40, R41, R54). -/
theorem execAttemptEnd_of_ends {s : State} {x : Slot} {sent ack : Bool} {l : LineUnit} (slot : s.lu.slot = some x)
    (ends : attemptEnds s sent ack (slotWithdrawn s) l) :
    exec (.attemptEnd sent) s =
      acted (endRestartClear x.source (attemptOutcome x.source ack { s with lu := setCollisions 0 x.source l })) := by
  rcases ends with ⟨w, f, read, framed, rfl, rfl⟩ | ⟨read, hunts, rfl⟩
  · simp [exec, execAttemptEnd, slot, actIf, attemptOver, read, framed, endAttempt, noteWithdrawn]
  · simp [exec, execAttemptEnd, slot, actIf, attemptOver, read, hunts, endAttempt, noteWithdrawn]

end Sys2Proof.Machine
end

