-- ==== Sys2Proof/Laws/State.lean ====
section
/-!
SUPPORT. What the shared updates of State leave: one lemma for each field of each update, true by definition (or by the
one case of RESET held low in `elapse`), tagged for simp, so that no proof unfolds a record update.
-/

namespace Sys2Proof.Machine

/-! ### Time -/

@[simp] theorem elapse_cs (d : Tick) (s : State) : (elapse d s).cs = s.cs := by unfold elapse; split <;> rfl
@[simp] theorem elapse_ku (d : Tick) (s : State) : (elapse d s).ku = s.ku := by unfold elapse; split <;> rfl
@[simp] theorem elapse_pending (d : Tick) (s : State) : (elapse d s).pending = s.pending := by
  unfold elapse; split <;> rfl
@[simp] theorem elapse_resetLow (d : Tick) (s : State) : (elapse d s).cl.resetLow = s.cl.resetLow := by
  unfold elapse; split <;> rfl
@[simp] theorem elapse_load (d : Tick) (s : State) : (elapse d s).cl.load = s.cl.load := by
  unfold elapse; split <;> rfl
@[simp] theorem elapse_fault (d : Tick) (s : State) : (elapse d s).cl.fault = s.cl.fault := by
  unfold elapse; split <;> rfl
@[simp] theorem elapse_station (d : Tick) (s : State) : (elapse d s).cl.station = s.cl.station := by
  unfold elapse; split <;> rfl
@[simp] theorem elapse_config (d : Tick) (s : State) : (elapse d s).cl.config = s.cl.config := by
  unfold elapse; split <;> rfl
@[simp] theorem loaded_elapse (d : Tick) (s : State) : loaded (elapse d s) = loaded s := by simp [loaded]
@[simp] theorem unitTime_elapse (d : Tick) (s : State) : unitTime (elapse d s) = unitTime s := by simp [unitTime]
@[simp] theorem unshift_elapse (d : Tick) (s : State) : unshift (elapse d s) = unshift s := by simp [unshift]
@[simp] theorem elapse_joinState (d : Tick) (s : State) : (elapse d s).lu.joinState = s.lu.joinState := by
  unfold elapse; split <;> rfl
@[simp] theorem elapse_condition (d : Tick) (s : State) : (elapse d s).lu.condition = s.lu.condition := by
  unfold elapse; split <;> rfl
@[simp] theorem elapse_receive (d : Tick) (s : State) : (elapse d s).lu.receive = s.lu.receive := by
  unfold elapse; split <;> rfl
@[simp] theorem elapse_slot (d : Tick) (s : State) : (elapse d s).lu.slot = s.lu.slot := by
  unfold elapse; split <;> rfl
@[simp] theorem elapse_restartClear (d : Tick) (s : State) : (elapse d s).lu.restartClear = s.lu.restartClear := by
  unfold elapse; split <;> rfl
@[simp] theorem elapse_ackRead (d : Tick) (s : State) : (elapse d s).lu.ackRead = s.lu.ackRead := by
  unfold elapse; split <;> rfl
@[simp] theorem elapse_lastOwn (d : Tick) (s : State) : (elapse d s).lu.lastOwn = s.lu.lastOwn := by
  unfold elapse; split <;> rfl
@[simp] theorem elapse_callState (d : Tick) (s : State) : (elapse d s).cm.call.state = s.cm.call.state := by
  unfold elapse; split <;> rfl
@[simp] theorem elapse_role (d : Tick) (s : State) : (elapse d s).cm.call.role = s.cm.call.role := by
  unfold elapse; split <;> rfl
@[simp] theorem elapse_partyStation (d : Tick) (s : State) :
    (elapse d s).cm.call.partyStation = s.cm.call.partyStation := by unfold elapse; split <;> rfl
@[simp] theorem elapse_partyAddr (d : Tick) (s : State) : (elapse d s).cm.call.partyAddr = s.cm.call.partyAddr := by
  unfold elapse; split <;> rfl
@[simp] theorem elapse_route (d : Tick) (s : State) : (elapse d s).cm.call.route = s.cm.call.route := by
  unfold elapse; split <;> rfl
@[simp] theorem elapse_answer (d : Tick) (s : State) : (elapse d s).cm.call.answer = s.cm.call.answer := by
  unfold elapse; split <;> rfl
@[simp] theorem elapse_fileLink (d : Tick) (s : State) : (elapse d s).cm.call.fileLink = s.cm.call.fileLink := by
  unfold elapse; split <;> rfl
@[simp] theorem elapse_heldByMe (d : Tick) (s : State) : (elapse d s).cm.call.heldByMe = s.cm.call.heldByMe := by
  unfold elapse; split <;> rfl
@[simp] theorem elapse_viewState (d : Tick) (s : State) : (elapse d s).cm.view.state = s.cm.view.state := by
  unfold elapse; split <;> rfl
@[simp] theorem elapse_present (d : Tick) (s : State) : (elapse d s).pu.present = s.pu.present := by
  unfold elapse; split <;> rfl
@[simp] theorem elapse_paper (d : Tick) (s : State) : (elapse d s).pu.paper = s.pu.paper := by
  unfold elapse; split <;> rfl
@[simp] theorem elapse_heat (d : Tick) (s : State) : (elapse d s).pu.heat = s.pu.heat := by
  unfold elapse; split <;> rfl
@[simp] theorem elapse_throttle (d : Tick) (s : State) : (elapse d s).pu.throttle = s.pu.throttle := by
  unfold elapse; split <;> rfl
@[simp] theorem elapse_printOp (d : Tick) (s : State) : (elapse d s).pu.op = s.pu.op := by
  unfold elapse; split <;> rfl
@[simp] theorem elapse_printWork (d : Tick) (s : State) : (elapse d s).pu.work = s.pu.work := by
  unfold elapse; split <;> rfl
@[simp] theorem elapse_column (d : Tick) (s : State) : (elapse d s).pu.column = s.pu.column := by
  unfold elapse; split <;> rfl
@[simp] theorem elapse_run (d : Tick) (s : State) : (elapse d s).tu.run = s.tu.run := by
  unfold elapse; split <;> rfl
@[simp] theorem elapse_punchPresent (d : Tick) (s : State) : (elapse d s).tu.punchPresent = s.tu.punchPresent := by
  unfold elapse; split <;> rfl
@[simp] theorem elapse_tape (d : Tick) (s : State) : (elapse d s).tu.tape = s.tu.tape := by
  unfold elapse; split <;> rfl
@[simp] theorem elapse_punchOp (d : Tick) (s : State) : (elapse d s).tu.punchOp = s.tu.punchOp := by
  unfold elapse; split <;> rfl
@[simp] theorem elapse_punchWork (d : Tick) (s : State) : (elapse d s).tu.punchWork = s.tu.punchWork := by
  unfold elapse; split <;> rfl
@[simp] theorem elapse_punchShift (d : Tick) (s : State) : (elapse d s).tu.punchShift = s.tu.punchShift := by
  unfold elapse; split <;> rfl
@[simp] theorem elapse_motor (d : Tick) (s : State) : (elapse d s).mt.motor = s.mt.motor := by
  unfold elapse; split <;> rfl
@[simp] theorem elapse_senseRunning (d : Tick) (s : State) : (elapse d s).mt.senseRunning = s.mt.senseRunning := by
  unfold elapse; split <;> rfl
@[simp] theorem demandHeld_elapse (d : Tick) (s : State) : demandHeld (elapse d s).mt = demandHeld s.mt := by
  unfold elapse; split <;> rfl
@[simp] theorem elapse_attendance (d : Tick) (s : State) : (elapse d s).au.attendance = s.au.attendance := by
  unfold elapse; split <;> rfl
@[simp] theorem elapse_attendPending (d : Tick) (s : State) : (elapse d s).au.pending = s.au.pending := by
  unfold elapse; split <;> rfl
@[simp] theorem elapse_ring (d : Tick) (s : State) : (elapse d s).au.ring = s.au.ring := by
  unfold elapse; split <;> rfl
@[simp] theorem elapse_file (d : Tick) (s : State) : (elapse d s).au.file = s.au.file := by
  unfold elapse; split <;> rfl
@[simp] theorem elapse_cursor (d : Tick) (s : State) : (elapse d s).au.cursor = s.au.cursor := by
  unfold elapse; split <;> rfl
@[simp] theorem elapse_clock (d : Tick) (s : State) : (elapse d s).au.clock = s.au.clock := by
  unfold elapse; split <;> rfl
@[simp] theorem elapse_nextNumber (d : Tick) (s : State) : (elapse d s).au.nextNumber = s.au.nextNumber := by
  unfold elapse; split <;> rfl

/-! ### The bell -/

@[simp] theorem bellPulse_lu (b : BellSource) (s : State) : (bellPulse b s).lu = s.lu := rfl
@[simp] theorem bellPulse_cm (b : BellSource) (s : State) : (bellPulse b s).cm = s.cm := rfl
@[simp] theorem bellPulse_cs (b : BellSource) (s : State) : (bellPulse b s).cs = s.cs := rfl
@[simp] theorem bellPulse_ku (b : BellSource) (s : State) : (bellPulse b s).ku = s.ku := rfl
@[simp] theorem bellPulse_pu (b : BellSource) (s : State) : (bellPulse b s).pu = s.pu := rfl
@[simp] theorem bellPulse_tu (b : BellSource) (s : State) : (bellPulse b s).tu = s.tu := rfl
@[simp] theorem bellPulse_au (b : BellSource) (s : State) : (bellPulse b s).au = s.au := rfl
@[simp] theorem bellPulse_cl (b : BellSource) (s : State) : (bellPulse b s).cl = s.cl := rfl
@[simp] theorem bellPulse_pending (b : BellSource) (s : State) : (bellPulse b s).pending = s.pending := rfl
@[simp] theorem bellPulse_pulses (b : BellSource) (s : State) :
    (bellPulse b s).mt.pulses = s.mt.pulses ++ [⟨b, ms 100⟩] := rfl
@[simp] theorem bellPulse_motor (b : BellSource) (s : State) : (bellPulse b s).mt.motor = s.mt.motor := rfl

/-! ### The call record and the line view -/

@[simp] theorem setCallState_state (c : CallState) (s : State) : (setCallState c s).cm.call.state = c := rfl
@[simp] theorem setCallState_view (c : CallState) (s : State) : (setCallState c s).cm.view = s.cm.view := rfl
@[simp] theorem setCallState_cs (c : CallState) (s : State) : (setCallState c s).cs = s.cs := rfl
@[simp] theorem setCallState_lu (c : CallState) (s : State) : (setCallState c s).lu = s.lu := rfl
@[simp] theorem setCallState_pu (c : CallState) (s : State) : (setCallState c s).pu = s.pu := rfl
@[simp] theorem setCallState_tu (c : CallState) (s : State) : (setCallState c s).tu = s.tu := rfl
@[simp] theorem setCallState_cl (c : CallState) (s : State) : (setCallState c s).cl = s.cl := rfl
@[simp] theorem setCallState_file (c : CallState) (s : State) : (setCallState c s).au.file = s.au.file := rfl
@[simp] theorem freeView_view (s : State) : (freeView s).cm.view = LineView.reset := rfl
@[simp] theorem freeView_call (s : State) : (freeView s).cm.call = s.cm.call := rfl
@[simp] theorem freeView_lu (s : State) : (freeView s).lu = s.lu := rfl
@[simp] theorem freeView_cs (s : State) : (freeView s).cs = s.cs := rfl
@[simp] theorem freeView_ku (s : State) : (freeView s).ku = s.ku := rfl
@[simp] theorem freeView_pu (s : State) : (freeView s).pu = s.pu := rfl
@[simp] theorem freeView_tu (s : State) : (freeView s).tu = s.tu := rfl
@[simp] theorem freeView_mt (s : State) : (freeView s).mt = s.mt := rfl
@[simp] theorem freeView_au (s : State) : (freeView s).au = s.au := rfl
@[simp] theorem freeView_cl (s : State) : (freeView s).cl = s.cl := rfl
@[simp] theorem ringView_call (s : State) : (ringView s).cm.call = s.cm.call := rfl
@[simp] theorem ringView_state (s : State) : (ringView s).cm.view.state = .ringing := rfl
@[simp] theorem engageView_call (s : State) : (engageView s).cm.call = s.cm.call := rfl
@[simp] theorem engageView_state (s : State) : (engageView s).cm.view.state = .engaged := rfl

/-! ### The demands -/

@[simp] theorem reportDemands_lu (s : State) : (reportDemands s).lu = s.lu := rfl
@[simp] theorem reportDemands_cm (s : State) : (reportDemands s).cm = s.cm := rfl
@[simp] theorem reportDemands_cs (s : State) : (reportDemands s).cs = s.cs := rfl
@[simp] theorem reportDemands_ku (s : State) : (reportDemands s).ku = s.ku := rfl
@[simp] theorem reportDemands_pu (s : State) : (reportDemands s).pu = s.pu := rfl
@[simp] theorem reportDemands_tu (s : State) : (reportDemands s).tu = s.tu := rfl
@[simp] theorem reportDemands_au (s : State) : (reportDemands s).au = s.au := rfl
@[simp] theorem reportDemands_cl (s : State) : (reportDemands s).cl = s.cl := rfl
@[simp] theorem reportDemands_pending (s : State) : (reportDemands s).pending = s.pending := rfl
@[simp] theorem reportDemands_motor (s : State) : (reportDemands s).mt.motor = s.mt.motor := rfl
@[simp] theorem reportDemands_pulses (s : State) : (reportDemands s).mt.pulses = s.mt.pulses := rfl
@[simp] theorem reportDemands_cadence (s : State) : (reportDemands s).mt.cadence = s.mt.cadence := rfl
@[simp] theorem reportDemands_flash (s : State) : (reportDemands s).mt.flash = s.mt.flash := rfl

end Sys2Proof.Machine
end

