-- ==== Sys2Proof/Laws/Settle.lean ====
section
/-!
SUPPORT. What follows every act: forming a TEXT touches SEND's in-flight count, the send timer and the TEXT place only;
reporting the demands touches the motor only. One lemma for each field, for `formText` and for `settle`.
-/

namespace Sys2Proof.Machine

/-! ### Forming a TEXT -/

theorem formText_cases (s : State) :
    formText s = s ∨ ∃ (n : Nat) (b : SendTimer) (x : TextPlace),
      formText s = { s with cs.send.inFlight := n, cm.sendTimer := b, lu.text := some x } := by
  unfold formText
  split
  · exact Or.inr ⟨_, _, _, rfl⟩
  · exact Or.inl rfl

@[simp] theorem formText_ku (s : State) : (formText s).ku = s.ku := by
  rcases formText_cases s with h | ⟨n, b, x, h⟩ <;> rw [h]
@[simp] theorem formText_pu (s : State) : (formText s).pu = s.pu := by
  rcases formText_cases s with h | ⟨n, b, x, h⟩ <;> rw [h]
@[simp] theorem formText_tu (s : State) : (formText s).tu = s.tu := by
  rcases formText_cases s with h | ⟨n, b, x, h⟩ <;> rw [h]
@[simp] theorem formText_mt (s : State) : (formText s).mt = s.mt := by
  rcases formText_cases s with h | ⟨n, b, x, h⟩ <;> rw [h]
@[simp] theorem formText_au (s : State) : (formText s).au = s.au := by
  rcases formText_cases s with h | ⟨n, b, x, h⟩ <;> rw [h]
@[simp] theorem formText_cl (s : State) : (formText s).cl = s.cl := by
  rcases formText_cases s with h | ⟨n, b, x, h⟩ <;> rw [h]
@[simp] theorem formText_pending (s : State) : (formText s).pending = s.pending := by
  rcases formText_cases s with h | ⟨n, b, x, h⟩ <;> rw [h]
@[simp] theorem formText_call (s : State) : (formText s).cm.call = s.cm.call := by
  rcases formText_cases s with h | ⟨n, b, x, h⟩ <;> rw [h]
@[simp] theorem formText_view (s : State) : (formText s).cm.view = s.cm.view := by
  rcases formText_cases s with h | ⟨n, b, x, h⟩ <;> rw [h]
@[simp] theorem formText_breakTimer (s : State) : (formText s).cm.breakTimer = s.cm.breakTimer := by
  rcases formText_cases s with h | ⟨n, b, x, h⟩ <;> rw [h]
@[simp] theorem formText_cells (s : State) : (formText s).cs.cells = s.cs.cells := by
  rcases formText_cases s with h | ⟨n, b, x, h⟩ <;> rw [h]
@[simp] theorem formText_links (s : State) : (formText s).cs.links = s.cs.links := by
  rcases formText_cases s with h | ⟨n, b, x, h⟩ <;> rw [h]
@[simp] theorem formText_free (s : State) : (formText s).cs.free = s.cs.free := by
  rcases formText_cases s with h | ⟨n, b, x, h⟩ <;> rw [h]
@[simp] theorem formText_print (s : State) : (formText s).cs.print = s.cs.print := by
  rcases formText_cases s with h | ⟨n, b, x, h⟩ <;> rw [h]
@[simp] theorem formText_punch (s : State) : (formText s).cs.punch = s.cs.punch := by
  rcases formText_cases s with h | ⟨n, b, x, h⟩ <;> rw [h]
@[simp] theorem formText_sendCells (s : State) : (formText s).cs.send.cellCount = s.cs.send.cellCount := by
  rcases formText_cases s with h | ⟨n, b, x, h⟩ <;> rw [h]
@[simp] theorem formText_sendLimit (s : State) : (formText s).cs.send.limit = s.cs.send.limit := by
  rcases formText_cases s with h | ⟨n, b, x, h⟩ <;> rw [h]

/-- The LU with the TEXT place hidden. -/
def LineUnit.bare (l : LineUnit) : LineUnit := { l with text := none }

theorem formText_lu (s : State) : (formText s).lu.bare = s.lu.bare := by
  rcases formText_cases s with h | ⟨n, b, x, h⟩ <;> rw [h]
  rfl

/-- No TEXT is formed in a record that is not OPEN. -/
theorem formText_of_not_open {s : State} (h : s.cm.call.state ≠ .opened) : formText s = s := by
  unfold formText
  rw [if_neg]
  intro hc
  have := hc.2.2.1
  simp [permitsText, maySend, h] at this

/-- No TEXT is formed while the place is filled. -/
theorem formText_of_text {s : State} (h : s.lu.text ≠ none) : formText s = s := by
  unfold formText
  rw [if_neg]
  exact fun hc => h hc.1

/-! ### The demands -/

theorem refreshDemand_eq (s : State) : ∃ m, refreshDemand s = { s with mt := m } := by
  unfold refreshDemand
  split
  · unfold demandBegins; split <;> exact ⟨_, rfl⟩
  · unfold demandEnds; split <;> exact ⟨_, rfl⟩
  · exact ⟨_, rfl⟩

@[simp] theorem refreshDemand_lu (s : State) : (refreshDemand s).lu = s.lu := by
  obtain ⟨m, h⟩ := refreshDemand_eq s; rw [h]
@[simp] theorem refreshDemand_cm (s : State) : (refreshDemand s).cm = s.cm := by
  obtain ⟨m, h⟩ := refreshDemand_eq s; rw [h]
@[simp] theorem refreshDemand_cs (s : State) : (refreshDemand s).cs = s.cs := by
  obtain ⟨m, h⟩ := refreshDemand_eq s; rw [h]
@[simp] theorem refreshDemand_ku (s : State) : (refreshDemand s).ku = s.ku := by
  obtain ⟨m, h⟩ := refreshDemand_eq s; rw [h]
@[simp] theorem refreshDemand_pu (s : State) : (refreshDemand s).pu = s.pu := by
  obtain ⟨m, h⟩ := refreshDemand_eq s; rw [h]
@[simp] theorem refreshDemand_tu (s : State) : (refreshDemand s).tu = s.tu := by
  obtain ⟨m, h⟩ := refreshDemand_eq s; rw [h]
@[simp] theorem refreshDemand_au (s : State) : (refreshDemand s).au = s.au := by
  obtain ⟨m, h⟩ := refreshDemand_eq s; rw [h]
@[simp] theorem refreshDemand_cl (s : State) : (refreshDemand s).cl = s.cl := by
  obtain ⟨m, h⟩ := refreshDemand_eq s; rw [h]
@[simp] theorem refreshDemand_pending (s : State) : (refreshDemand s).pending = s.pending := by
  obtain ⟨m, h⟩ := refreshDemand_eq s; rw [h]

theorem refreshDemand_bell (s : State) :
    (refreshDemand s).mt.pulses = s.mt.pulses ∧ (refreshDemand s).mt.cadence = s.mt.cadence
      ∧ (refreshDemand s).mt.flash = s.mt.flash ∧ (refreshDemand s).mt.senseRunning = s.mt.senseRunning
      ∧ (refreshDemand s).mt.switchAttended = s.mt.switchAttended := by
  unfold refreshDemand
  split
  · unfold demandBegins; split <;> exact ⟨rfl, rfl, rfl, rfl, rfl⟩
  · unfold demandEnds; split <;> exact ⟨rfl, rfl, rfl, rfl, rfl⟩
  · exact ⟨rfl, rfl, rfl, rfl, rfl⟩

/-! ### What follows every act -/

@[simp] theorem settle_ku (s : State) : (settle s).ku = s.ku := by unfold settle; split <;> simp
@[simp] theorem settle_pu (s : State) : (settle s).pu = s.pu := by unfold settle; split <;> simp
@[simp] theorem settle_tu (s : State) : (settle s).tu = s.tu := by unfold settle; split <;> simp
@[simp] theorem settle_au (s : State) : (settle s).au = s.au := by unfold settle; split <;> simp
@[simp] theorem settle_cl (s : State) : (settle s).cl = s.cl := by unfold settle; split <;> simp
@[simp] theorem settle_pending (s : State) : (settle s).pending = s.pending := by unfold settle; split <;> simp
@[simp] theorem settle_call (s : State) : (settle s).cm.call = s.cm.call := by unfold settle; split <;> simp
@[simp] theorem settle_view (s : State) : (settle s).cm.view = s.cm.view := by unfold settle; split <;> simp
@[simp] theorem settle_breakTimer (s : State) : (settle s).cm.breakTimer = s.cm.breakTimer := by
  unfold settle; split <;> simp
@[simp] theorem settle_cells (s : State) : (settle s).cs.cells = s.cs.cells := by unfold settle; split <;> simp
@[simp] theorem settle_links (s : State) : (settle s).cs.links = s.cs.links := by unfold settle; split <;> simp
@[simp] theorem settle_free (s : State) : (settle s).cs.free = s.cs.free := by unfold settle; split <;> simp
@[simp] theorem settle_print (s : State) : (settle s).cs.print = s.cs.print := by unfold settle; split <;> simp
@[simp] theorem settle_punch (s : State) : (settle s).cs.punch = s.cs.punch := by unfold settle; split <;> simp
@[simp] theorem settle_sendCells (s : State) : (settle s).cs.send.cellCount = s.cs.send.cellCount := by
  unfold settle; split <;> simp
@[simp] theorem settle_sendLimit (s : State) : (settle s).cs.send.limit = s.cs.send.limit := by
  unfold settle; split <;> simp

theorem settle_bare (s : State) : (settle s).lu.bare = s.lu.bare := by
  unfold settle; split
  · rw [refreshDemand_lu, formText_lu]
  · rfl

@[simp] theorem settle_joinState (s : State) : (settle s).lu.joinState = s.lu.joinState := by
  have := congrArg LineUnit.joinState (settle_bare s); exact this
@[simp] theorem settle_condition (s : State) : (settle s).lu.condition = s.lu.condition := by
  have := congrArg LineUnit.condition (settle_bare s); exact this
@[simp] theorem settle_receive (s : State) : (settle s).lu.receive = s.lu.receive := by
  have := congrArg LineUnit.receive (settle_bare s); exact this
@[simp] theorem settle_slot (s : State) : (settle s).lu.slot = s.lu.slot := by
  have := congrArg LineUnit.slot (settle_bare s); exact this
@[simp] theorem settle_control (s : State) : (settle s).lu.control = s.lu.control := by
  have := congrArg LineUnit.control (settle_bare s); exact this
@[simp] theorem settle_quiet (s : State) : (settle s).lu.quiet = s.lu.quiet := by
  have := congrArg LineUnit.quiet (settle_bare s); exact this
@[simp] theorem settle_lastOwn (s : State) : (settle s).lu.lastOwn = s.lu.lastOwn := by
  have := congrArg LineUnit.lastOwn (settle_bare s); exact this
@[simp] theorem settle_listenWindow (s : State) : (settle s).lu.listenWindow = s.lu.listenWindow := by
  have := congrArg LineUnit.listenWindow (settle_bare s); exact this
@[simp] theorem settle_restartClear (s : State) : (settle s).lu.restartClear = s.lu.restartClear := by
  have := congrArg LineUnit.restartClear (settle_bare s); exact this
@[simp] theorem settle_markRun (s : State) : (settle s).lu.markRun = s.lu.markRun := by
  have := congrArg LineUnit.markRun (settle_bare s); exact this
@[simp] theorem settle_probeCollisions (s : State) : (settle s).lu.probeCollisions = s.lu.probeCollisions := by
  have := congrArg LineUnit.probeCollisions (settle_bare s); exact this

theorem settle_bell (s : State) :
    (settle s).mt.pulses = s.mt.pulses ∧ (settle s).mt.cadence = s.mt.cadence ∧ (settle s).mt.flash = s.mt.flash
      ∧ (settle s).mt.senseRunning = s.mt.senseRunning ∧ (settle s).mt.switchAttended = s.mt.switchAttended := by
  unfold settle; split
  · have := refreshDemand_bell (formText s)
    simpa using this
  · exact ⟨rfl, rfl, rfl, rfl, rfl⟩

theorem settle_of_not_loaded {s : State} (h : loaded s = false) : settle s = s := by simp [settle, h]

/-- Nothing but the motor changes where no TEXT can be formed. -/
theorem settle_eq_of_formText {s : State} (h : formText s = s) : ∃ m, settle s = { s with mt := m } := by
  unfold settle; split
  · rw [h]; exact refreshDemand_eq s
  · exact ⟨s.mt, rfl⟩

end Sys2Proof.Machine
end

