-- ==== Sys2Proof/WellFormed.lean ====
section
/-!
DEFINITION. Well-formed commands: the operands that the event a command stands for can carry. An ill-formed command
is no event of the part; what `exec` answers on one bears on nothing.
-/

namespace Sys2Proof

/-- A command whose operands its event can carry: a telegram at its Turn is valid (R37), a discarded one is not (R35), a
complete read has 61 bytes (R180), and the samples that press RESTART are the command RESTART (R100, log 22). -/
def Instr.wf : Instr → Bool
  | .telegramTurn t => (Machine.validKind t).isSome
  | .malformedDiscard t => (Machine.validKind t).isNone
  | .configReadDone image _ => image.length == 61
  | .keyPress key => key.position != Machine.restartPosition || (Machine.KeyScan.samples key.samples ⟨.up, 0⟩).level == .up
  | _ => true

end Sys2Proof
end

