-- ==== Sys2Proof/Tests/Slice0.lean ====
section
/-!
SUPPORT. Tests: ill-formed commands are refused, the words and numbers the spec works out, and, for each statement, states
and operands that meet its hypotheses (one theorem for a statement, its clauses in their order, at the ends of a range
where a clause has one).
-/

namespace Sys2Proof.Machine

/-! ### Small states -/

/-- Every line high. -/
def highInputs : InputLines :=
  ⟨.high, .high, .high, .high, .high, #v[.high, .high, .high, .high, .high, .high]⟩

/-- Station 5 with the default set, its load ended, all its units present, in LISTEN. -/
def upState : State :=
  { State.reset with
    cl := { State.reset.cl with resetLow := false, load := .done, station := 5, config := Configuration.default 5 }
    pu.present := true
    tu.punchPresent := true
    tu.readerPresent := true
    tu.tapeIn := true
    lu.joinState := .listen
    lu.listenWindow := some (sec 30) }

/-- The same, JOINED, its motor RUNNING, the quiet timer far on. -/
def joinedState : State :=
  { upState with
    lu.joinState := .joined
    lu.listenWindow := none
    lu.quiet := sec 1
    mt.motor := .running
    mt.hold := some (sec 20) }

/-- A record of an individual call with station 7. -/
def callWith (st : CallState) (role : Role) : CallRecord :=
  { CallRecord.reset with
    state := st
    role := some role
    callAddr := if role = .caller then 7 else 5
    partyAddr := 7
    partyStation := some 7
    route := ⟨true, false, true⟩ }

/-- An OPEN call with station 7. -/
def openState (role : Role) : State :=
  { joinedState with
    cm.call := callWith .opened role
    cm.view := ⟨.engaged, some (if role = .caller then 5 else 7), some (if role = .caller then 7 else 5), none, some (sec 120)⟩ }

/-- A call of station 7's or to it that waits for its answer. -/
def waitState (st : CallState) (role : Role) : State :=
  { joinedState with
    cm.call := callWith st role
    cm.view := ⟨.ringing, some (if role = .caller then 5 else 7), some (if role = .caller then 7 else 5), some (sec 40), none⟩ }

/-- A call that rings here. -/
def ringState : State :=
  { waitState .ringing .called with
    au.ring := .ringing
    au.ringTimer := some (sec 25)
    mt.cadence := some ⟨true, sec 1⟩
    mt.flash := some ⟨true, ms 500⟩ }

/-- A group call of this station's. -/
def groupState : State :=
  { openState .caller with cm.call.callAddr := 40, cm.call.partyAddr := 40, cm.call.partyStation := none }

/-- A key at the head of the FIFO, read as the record stands. -/
def keyed (k : Key) (s : State) : State := { s with ku.fifo := [k], ku.headRead := s.cm.call.state }

/-- A telegram from station 7 to this one. -/
def fromSeven (k : Kind) (text : List Code) : Telegram := makeTelegram k 7 0 5 text

/-- A TEXT from station 7 to this one. -/
def textFromSeven (q : Seq) : Telegram := makeTelegram .text 7 q 5 [3, 4]

/-- That telegram framed through its Turn, and taken. -/
def takenFromSeven (k : Kind) (text : List Code) (s : State) : State :=
  { s with lu.receive := .framing false false (some ⟨fromSeven k text, [], true, .plain⟩) }

/-- A telegram framed through Check. -/
def atTurn (s : State) : State := { s with lu.receive := .framing false false none }

/-- A cell at the head of PRINT, SEND or PUNCH. -/
def holding (n : QueueName) (c : Cell) (s : State) : State := { s with cs := s.cs.pushRun n [c] }

/-- A TEXT in the place and in the slot, its attempt running. -/
def textOut (collisions retries : Nat) (s : State) : State :=
  { s with
    lu.text := some ⟨7, 1, [3, 4], retries, collisions, .ready, false⟩
    lu.slot := some ⟨.text, makeTelegram .text 5 1 7 [3, 4]⟩
    lu.receive := .framing true false none }

/-- A closed record that is printed or not. -/
def record (slot : Fin 24) (printed : Bool) : FileRecord :=
  ⟨slot, 1, 7, 5, 0, 0, some 0, .filed, printed, printed, ⟨some 127, some 127, 1⟩, 0, none⟩

/-- Windows of which only W0 is enabled. -/
def onlyOwn (r : Route) (calls : Bool) : Vector Window 8 :=
  #v[ownWindow 5 r calls, Window.disabled, Window.disabled, Window.disabled, Window.disabled, Window.disabled,
     Window.disabled, Window.disabled]

/-- A valid image of 61 bytes: rate 1200, W 40, two characters of answerback, W1 and W7 enabled. -/
def image : List Byte :=
  [0xA5, 0x3C, 1, 0x57, 40, 2, 60, 1, 1, 4, 8, 96, 1, 2, 3, 4, 5, 6, 0x36, 0x47]
    ++ List.replicate 18 0
    ++ [13, 40, 56, 0x89] ++ [32, 63, 0] ++ [32, 63, 0] ++ [32, 63, 0] ++ [32, 63, 0] ++ [32, 63, 0]
    ++ [63, 63, 0x85, 141]

/-! ### Ill-formed commands -/

theorem test_turn_of_a_malformed_telegram_is_refused :
    Instr.wf (.telegramTurn { fromSeven .hold [] with precedence := 3 }) = false ∧ Instr.wf (.telegramTurn (fromSeven .hold [])) = true := by
  decide

theorem test_discard_of_a_valid_telegram_is_refused :
    Instr.wf (.malformedDiscard (fromSeven .hold [])) = false
      ∧ Instr.wf (.malformedDiscard { fromSeven .hold [] with check := 0 }) = true := by decide

theorem test_read_of_sixty_bytes_is_refused :
    Instr.wf (.configReadDone (image.take 60) highInputs) = false ∧ Instr.wf (.configReadDone image highInputs) = true := by
  decide

theorem test_press_of_restart_as_a_key_is_refused :
    Instr.wf (.keyPress ⟨45, [true, true, true]⟩) = false ∧ Instr.wf (.keyPress ⟨45, [true, true, false]⟩) = true
      ∧ Instr.wf (.keyPress ⟨44, [true, true, true]⟩) = true := by decide

/-! ### What the spec works out -/

theorem test_check_of_station_12s_hold : (makeTelegram .hold 12 0 5 []).check = 232 := by decide

theorem test_every_other_check_is_malformed :
    validKind { makeTelegram .hold 12 0 5 [] with check := 231 } = none
      ∧ validKind (makeTelegram .hold 12 0 5 []) = some .hold := by decide

theorem test_no_word_spells_a_command :
    Sys2Proof.decodeTableWord 8 0 = none ∧ State.withFetchWord State.reset 8 0 = State.reset := ⟨rfl, rfl⟩

theorem test_reset_then_release_then_load :
    ∃ a b, exec (.resetRelease 5 ⟨.high, .high, .high⟩) State.reset = .next a
      ∧ exec (.configReadDone image highInputs) a = .next b ∧ b.cl.load = .done ∧ b.lu.joinState = .listen :=
  ⟨_, _, rfl, rfl, by decide, by decide⟩

theorem test_first_step_is_the_queues :
    step { State.reset with pending := [.resetAssert] } = exec .resetAssert State.reset := rfl

/-! ### Witnesses: the step and what follows every act -/

theorem test_witness_an_empty_queue : State.reset.pending = [] := rfl

theorem test_witness_time_passes : upState.cl.resetLow = false ∧ State.reset.cl.resetLow = true := ⟨rfl, rfl⟩

theorem test_witness_settle_before_the_load : loaded State.reset = false ∧ loaded upState = true := by decide

theorem test_witness_settle_demand_begins :
    let s := { upState with tu.cycle := some ⟨ms 100, false⟩ }
    let r := { joinedState with tu.cycle := some ⟨ms 100, false⟩ }
    (s.mt.motor = .stopped ∧ demandHeld s.mt = false ∧ demandHeld (settle s).mt = true)
      ∧ (r.mt.motor = .running ∧ demandHeld r.mt = false ∧ demandHeld (settle r).mt = true) := by decide

theorem test_witness_settle_demand_ends :
    let s := { joinedState with mt.readerDemand := true }
    (s.mt.motor = .running ∧ demandHeld s.mt = true ∧ demandHeld (settle s).mt = false)
      ∧ demandHeld joinedState.mt = demandHeld (settle joinedState).mt := by decide

/-- A motor that starts, and one that is FAULTED; one STOPPED with a demand that stands. -/
theorem test_witness_settle_leaves_the_motor :
    ({ upState with mt.motor := .starting } : State).mt.motor = .starting
      ∧ ({ upState with mt.motor := .faulted } : State).mt.motor = .faulted
      ∧ (let s := { upState with mt.readerDemand := true }
        s.mt.motor = .stopped ∧ demandHeld s.mt = true) := by decide

/-- A TEXT may be formed of one CR; and of 48 letters with none. -/
theorem test_witness_text_is_formed :
    let s := holding .send (.character .cr .keyboard) (openState .caller)
    s.lu.text = none ∧ s.lu.slot = none ∧ s.lu.condition = .clear ∧ s.lu.restartClear = false
      ∧ (∀ e ∈ s.lu.control, e.readiness.isReady = false)
      ∧ s.lu.joinState = .joined ∧ s.cm.call.state = .opened
      ∧ (s.cm.call.role = some .caller ∨ s.cm.call.role = some .called)
      ∧ s.cm.call.holdSet = [] ∧ s.cs.send.inFlight = 0
      ∧ unsentChars s ≠ [] ∧ .cr ∈ unsentChars s := by decide

theorem test_witness_text_of_48_letters :
    let s := { openState .called with
      cs := (openState .called).cs.pushRun .send (List.replicate 48 (.character (.letter 3) .keyboard)) }
    encodedLength (unshift s) (unsentChars s) = 48 := by decide +kernel

theorem test_witness_nothing_to_send : unsentChars (openState .caller) = [] := by decide

/-! ### Witnesses: the invariants, in a state that is busy with each -/

/-- An OPEN call with characters in the edit stack, a hold entry, held, and a motor that runs with no demand. -/
def busyState : State :=
  { openState .caller with
    ku.mode := .line
    ku.editStack := [.letter 3]
    pu.heat := 1000
    pu.throttle := true
    cm.call.holdSet := [⟨7, sec 30⟩]
    cm.call.heldByMe := true
    cm.call.heldSince := some (sec 120) }

theorem test_witness_stepping : ∃ t, step busyState = .next t := ⟨_, rfl⟩

theorem test_witness_invariants_of_keyboard_and_heat :
    storeCanonical busyState ∧ keyboardBounds busyState ∧ editOnlyInLineCall busyState ∧ heatInRange busyState := by
  refine ⟨⟨rfl, rfl⟩, ⟨?_, ?_, ?_, ?_⟩, fun _ => ⟨rfl, rfl⟩, ⟨?_, ?_, ?_⟩⟩ <;> decide

theorem test_witness_invariants_of_call_and_motor :
    motorFollowsDemand busyState ∧ holdsOnlyInOpen busyState ∧ callHoldsView busyState := by
  refine ⟨⟨?_, ?_, ?_, ?_, ?_⟩, ⟨?_, ?_, ?_⟩, ⟨?_, ?_, ?_, ?_, ?_⟩⟩ <;> decide

theorem test_witness_invariant_of_the_limits : queuesWithinLimits busyState ∧ queuesWithinLimits State.reset := by
  refine ⟨⟨?_, fun h => absurd h (by decide)⟩, ?_, fun _ => ⟨rfl, rfl, rfl, rfl, rfl, rfl, rfl, rfl⟩⟩ <;>
    (intro n; cases n <;> decide)

theorem test_witness_invariant_of_ringing : ringFollowsRecord ringState := by
  refine ⟨?_, ?_, ?_, ?_⟩ <;> decide

/-- One closed record of one cell in block 127, and a TEXT of one cell of SEND in flight. -/
def filedState : State :=
  { textOut 0 0 (holding .send (.character .cr .keyboard) (openState .caller)) with
    cs :=
      { (holding .send (.character .cr .keyboard) (openState .caller)).cs with
        free := (List.range 126).map (· + 1)
        cells := [(0, .character .cr .keyboard), (32 * 127, .character .bell .line)]
        send.inFlight := 1 }
    au.file := [record 0 false] }

theorem test_witness_invariant_of_the_file : fileInOrder filedState := by
  refine ⟨?_, ?_, ?_, ?_⟩ <;> decide

theorem test_witness_invariant_of_the_text : inFlightIsTheText filedState := by
  refine ⟨?_, ?_, ?_⟩ <;> decide

theorem test_witness_invariant_of_the_blocks : blocksHaveOneHolder filedState := by
  refine ⟨by decide, ?_, by decide, ?_⟩
  · intro n
    cases n <;> (refine ⟨?_, ?_, ?_, ?_, ?_, ?_, ?_⟩ <;> decide)
  · intro r hr
    obtain rfl : r = record 0 false := by simpa [filedState] using hr
    refine ⟨?_, ?_, ?_⟩ <;> decide

theorem test_witness_configuration_is_read_once :
    loaded upState = true ∧ Instr.stationClockTick ≠ .resetAssert ∧ upState.cl.loadLeft = none
      ∧ ∃ t, exec .stationClockTick upState = .next t :=
  ⟨rfl, by decide, rfl, _, rfl⟩

/-! ### Witnesses: code, telegrams, windows -/

/-- The ends of the code's ranges. -/
theorem test_witness_characters_of_the_code :
    ∀ r ∈ [Resolved.letter 3, .letter 15, .letter 17, .letter 29, .figure 3, .figure 25, .figure 27, .figure 29, .bell, .space, .cr, .lf],
      Resolved.isOfCode r := by
  simp [Resolved.isOfCode]

theorem test_witness_check :
    let t := makeTelegram .hold 12 0 5 []
    (checkSum t + (232 : Byte).toNat) % 256 = 0 ∧ (checkSum t + ({ t with check := 0 } : Telegram).check.toNat) % 256 ≠ 0 := by
  decide

/-- The shortest and the longest TEXT, and a WHO to the sender's own address. -/
theorem test_witness_telegrams_sent :
    ((Kind.text = .text ∨ (1 : Seq) = 0) ∧ (Kind.text = .who ∨ (7 : Addr) ≠ addrOf 5)
        ∧ lengthAllowed .text 1 = true ∧ lengthAllowed .text 48 = true ∧ textAllowed .text [31] = true)
      ∧ ((Kind.who = .text ∨ (0 : Seq) = 0) ∧ (Kind.who = .who ∨ (5 : Addr) ≠ addrOf 5)
        ∧ lengthAllowed .who 0 = true ∧ textAllowed .who [] = true)
      ∧ (lengthAllowed .refuse 1 = true ∧ textAllowed .refuse [1] = true ∧ textAllowed .refuse [6] = true) := by decide

/-- The own number; 31, the last single address; 32, the first of a group; 63. -/
theorem test_witness_window_of_an_address :
    let s := upState
    (5 : Addr) = addrOf s.cl.station ∧ ((31 : Addr) ≠ addrOf s.cl.station ∧ (31 : Addr).toNat < 32)
      ∧ 32 ≤ (32 : Addr).toNat ∧ windowFor s 32 = none ∧ 32 ≤ (63 : Addr).toNat ∧ windowFor s 63 = some 7 := by decide

theorem test_witness_effective_destinations :
    (openState .called).au.attendance = .attended
      ∧ ({ openState .called with au.attendance := .unattended } : State).au.attendance = .unattended := by decide

/-- 13 free blocks and 12, 20 and 19; PRINT 2 blocks from its limit of 16 and 3, 4 and 3; held and not. -/
theorem test_witness_flow_levels :
    let free (n : Nat) (s : State) : State := { s with cs.free := s.cs.free.take n }
    let full (n : Nat) (s : State) : State := { s with cs.print := { s.cs.print with limit := 16, blockCount := n } }
    let s := openState .called
    s.cm.call.state = .opened ∧ isGroupCaller s.cm.call = false ∧ s.cm.call.heldByMe = false
      ∧ busyState.cm.call.heldByMe = true ∧ isGroupCaller groupState.cm.call = true
      ∧ holdLevel (free 12 s) = true ∧ holdLevel (free 13 s) = false ∧ goLevel (free 20 s) = true
      ∧ goLevel (free 19 s) = false ∧ holdLevel (full 14 s) = true ∧ holdLevel (full 13 s) = false
      ∧ goLevel (full 12 s) = true ∧ goLevel (full 13 s) = false := by decide +kernel

/-- 32 cells need one block of an empty queue, 33 two; at its limit of 16 SEND takes no block more. -/
theorem test_witness_space_check :
    let q := upState.cs.send
    q.tail = none ∧ q.blockCount + (33 + 31) / 32 ≤ q.limit ∧ 2 + 5 ≤ upState.cs.free.length
      ∧ ¬ q.blockCount + (513 + 31) / 32 ≤ q.limit := by decide +kernel

/-- A queue in a store whose blocks have one holder each, with a cell at its head. -/
theorem test_witness_removal_and_flush :
    filedState.cs.headCell .send = some (.character .cr .keyboard) ∧ filedState.cs.headCell .print = none := by decide

/-- SEND with a cell at position 31 of its head block and one in the next, and the file's record of one block. -/
def lastOfBlockState : State :=
  { filedState with
    cs := { filedState.cs with
      free := (List.range 125).map (· + 2)
      cells := [(31, .character .cr .keyboard), (32, .character .bell .line), (32 * 127, .character .bell .line)]
      links := [(0, 1)]
      send := ⟨some 0, 31, some 1, 0, 2, 2, 16, 1, none⟩ } }

/-- A removal that empties a block at position 31, and one that takes the queue's last cell; a record to delete. -/
theorem test_witness_removal_at_position_31 :
    blocksHaveOneHolder lastOfBlockState ∧ lastOfBlockState.cs.headCell .send = some (.character .cr .keyboard)
      ∧ lastOfBlockState.cs.send.headIndex = 31 ∧ lastOfBlockState.cs.send.cellCount ≠ 1
      ∧ filedState.cs.send.cellCount = 1 ∧ record 0 false ∈ filedState.au.file := by
  refine ⟨⟨by decide, ?_, by decide, ?_⟩, by decide, by decide, by decide, by decide, by decide⟩
  · intro n
    cases n <;> (refine ⟨?_, ?_, ?_, ?_, ?_, ?_, ?_⟩ <;> decide)
  · intro r hr
    obtain rfl : r = record 0 false := by simpa [lastOfBlockState, filedState] using hr
    refine ⟨?_, ?_, ?_⟩ <;> decide

/-- A run to an empty SEND, and to one with an unsent cell; a notice with the printer PRESENT and ABSENT, passed and
refused. -/
theorem test_witness_send_timer_and_notice :
    let s := openState .caller
    (s.cs.send.cellCount ≤ s.cs.send.inFlight
        ∧ ¬ (holding .send (.character .bell .keyboard) s).cs.send.cellCount ≤ s.cs.send.inFlight)
      ∧ s.pu.present = true ∧ ({ s with pu.present := false } : State).pu.present = false
      ∧ (appendRun .print .mayUse Notice.lineFault.run s).isSome = true
      ∧ appendRun .print .mayUse Notice.lineFault.run { s with cs.free := [] } = none := by decide +kernel

/-! ### Witnesses: device reset and the load -/

theorem test_witness_reset_release : State.reset.cl.resetLow = true := rfl

/-- RESET released, the load begun. -/
def loadingState : State :=
  { State.reset with
    cl := { State.reset.cl with resetLow := false, loadLeft := some (ms 100), station := 5 } }

theorem test_witness_load_ends :
    loadingState.cl.resetLow = false ∧ loadingState.cl.load = .loading ∧ loadingState.cm.call.state = .idle
      ∧ loadingState.cl.loadLeft ≠ none := by decide

theorem test_witness_valid_image : ∃ ld, loadImage 5 image = some ld := ⟨_, rfl⟩

theorem test_witness_invalid_image : loadImage 5 (image.set 4 39) = none ∧ loadImage 5 [] = none := by decide

/-- 1 character of answerback and 20; an AUX byte of 12, a window flag of bit 6, a wrong sum. -/
theorem test_witness_images_at_their_bounds :
    let fix (im : List Byte) : List Byte := im.set 60 (im.getD 60 0 - BitVec.ofNat 8 ((im.map BitVec.toNat).sum % 256))
    loadImage 5 (fix (image.set 19 0)) ≠ none
      ∧ loadImage 5 (fix ((List.range 20).foldl (fun im i => im.set (18 + i) 0x23) image)) ≠ none
      ∧ loadImage 5 (fix (image.set 18 0)) = none ∧ loadImage 5 (fix (image.set 12 12)) = none
      ∧ loadImage 5 (fix (image.set 41 0x40)) = none ∧ loadImage 5 (image.set 12 0) = none
      ∧ loadImage 5 (fix image) ≠ none := by decide +kernel

/-! ### Witnesses: joining and receiving -/

theorem test_witness_joining :
    (loaded upState = true ∧ upState.lu.joinState = .listen ∧ upState.lu.condition = .clear ∧ upState.lu.receive = .hunting
        ∧ upState.lu.listenWindow = some (sec 30))
      ∧ (let s := { upState with lu.joinState := .probe, lu.probeWait := some (sec 1) }
        loaded s = true ∧ s.lu.joinState = .probe ∧ s.lu.probeWait = some (sec 1)) := by decide

/-- 8 u of quiet exactly, and one unit short of it; u is 20 ticks at 1200 Bd. -/
theorem test_witness_hunting :
    let s := { upState with lu.quiet := 20 }
    loaded s = true ∧ s.lu.joinState ≠ .offline ∧ s.lu.condition = .clear ∧ s.lu.receive = .hunting
      ∧ 8 * unitTime s ≤ s.lu.quiet + 7 * unitTime s ∧ s.lu.quiet + 6 * unitTime s < 8 * unitTime s := by decide

/-- The 47th space of a run, and the 48th. -/
theorem test_witness_run_of_space :
    let s (n : Nat) : State := { upState with lu.quiet := 0, lu.spaceRun := n }
    (s 46).lu.quiet = 0 ∧ ¬ 47 ≤ (s 46).lu.spaceRun ∧ (s 47).lu.quiet = 0 ∧ 47 ≤ (s 47).lu.spaceRun := by decide

/-- A timer's end within the space unit read last leaves the run of space as it is; one a tick past it finds the line at
mark. -/
theorem test_time_within_a_space_unit_keeps_the_run :
    let s (left : Tick) : State :=
      { upState with lu.spaceRun := 30, lu.quiet := 0, lu.spaceLeft := 20, pu.heatTimer := some left }
    (∃ t, exec .heatTimerExpiry (s 20) = .next t ∧ t.lu.spaceRun = 30 ∧ t.lu.quiet = 0 ∧ t.lu.spaceLeft = 0)
      ∧ ∃ t, exec .heatTimerExpiry (s 21) = .next t ∧ t.lu.spaceRun = 0 ∧ t.lu.quiet = 1 :=
  ⟨⟨_, rfl, by decide, by decide, by decide⟩, ⟨_, rfl, by decide, by decide⟩⟩

theorem test_witness_malformed :
    (atTurn joinedState).lu.receive = .framing false false none
      ∧ validKind { fromSeven .hold [] with check := 0 } = none := by decide

theorem test_witness_turn_by_kind :
    awaitsTurn (atTurn joinedState) ∧ validKind (fromSeven .clear [0]) = some .clear
      ∧ isProbe .clear (fromSeven .clear [0]) = false := ⟨⟨false, rfl⟩, by decide, by decide⟩

theorem test_witness_turn_of_a_probe :
    (let t := makeTelegram .who 5 0 5 [];
      validKind t = some .who ∧ t.destination = addrOf t.source ∧ t.source = joinedState.cl.station)
      ∧ (let t := makeTelegram .who 7 0 7 [];
        validKind t = some .who ∧ t.destination = addrOf t.source ∧ t.source ≠ joinedState.cl.station)
      ∧ joinedState.lu.joinState = .joined ∧ joinedState.lu.condition = .clear := by decide

/-- A CALL to the own number, and one to all. -/
theorem test_witness_turn_of_a_call :
    (validKind (fromSeven .call []) = some .call ∧ windowFor joinedState (fromSeven .call []).destination = some 0)
      ∧ (let t := makeTelegram .call 7 0 63 [];
        validKind t = some .call ∧ windowFor joinedState t.destination = some 7 ∧ 32 ≤ t.destination.toNat) := by decide

/-- This station's own CALL framed and in its slot, to one station and to all, withdrawn or not. -/
theorem test_witness_hand_on_of_an_own_call :
    let t (d : Addr) : Telegram := makeTelegram .call 5 0 d []
    let s (d : Addr) : State :=
      { waitState .calling .caller with
        lu.slot := some ⟨.control .call, t d⟩
        lu.receive := .framing true false (some ⟨t d, [], false, .plain⟩) }
    validKind (t 7) = some .call ∧ validKind (t 63) = some .call ∧ (s 7).lu.ackRead = none ∧ (s 7).lu.joinState = .joined
      ∧ (s 7).lu.restartClear = false ∧ slotWithdrawn (s 7) = false ∧ (s 7).cm.call.state = .calling
      ∧ (s 7).cm.call.role = some .caller ∧ (t 7).destination.toNat < 32 ∧ 32 ≤ (t 63).destination.toNat
      ∧ slotWithdrawn { s 7 with
          lu.control := [⟨⟨.call, 7, [], .cm, 3⟩, 0, 0, .ready, true, none⟩] } = true := by decide

/-- Another's CALL framed, decided with the record in one state, and met at its hand-on in another. -/
def calledState (o : AnswerOutcome) (was now : CallState) (s : State) : State :=
  { s with
    cm.call.state := now
    ku.dial := if now = .dialing then [7] else []
    lu.receive := .framing false false (some ⟨fromSeven .call [], [], decide (o ≠ .notTaken), .call o 0 was⟩) }

/-- Every outcome in IDLE; dialing undone in IDLE, DIALING and CALLING, and kept; glare; an attempt the CALL ends. -/
theorem test_witness_hand_on_of_anothers_call :
    let s := calledState
    let refused : AnswerOutcome := .refuse .busy
    validKind (fromSeven .call []) = some .call ∧ (fromSeven .call []).source ≠ joinedState.cl.station
      ∧ unbroken (turnUnits ⟨3, 0⟩) (s .ring .idle .idle joinedState)
      ∧ ((s .ring .idle .idle joinedState).lu.joinState = .joined ∧ (s .ring .idle .idle joinedState).lu.restartClear = false)
      ∧ (∀ o ∈ [AnswerOutcome.ring, .accept, .memberJoin, refused, .notTaken],
          (s o .idle .idle joinedState).cm.call.state = .idle)
      ∧ (∀ o ∈ [AnswerOutcome.ring, .accept, .memberJoin, refused], ∀ now ∈ [CallState.idle, .dialing, .calling],
          (s o .dialing now joinedState).cm.call.state = now)
      ∧ (s refused .opened .dialing joinedState).cm.call.state = .dialing
      ∧ ((s refused .calling .calling (waitState .calling .caller)).cm.call.state = .calling
        ∧ (s refused .calling .calling (waitState .calling .caller)).cm.view.state ≠ .free)
      ∧ (∀ now ∈ [CallState.idle, .dialing, .calling], (s .glare .calling now joinedState).cm.call.state = now)
      ∧ (let f := s .notTaken .calling .calling { joinedState with cm.call := callWith .calling .caller }
        f.cm.call.state = .calling ∧ f.cm.view.state = .free ∧ heldSpace ⟨3, 0⟩ = true) := by
  unfold unbroken; decide

/-- A CLEAR key between the Turn and the hand-on does not save the dialing from a CALL taken: the notice is printed. -/
theorem test_call_taken_abandons_dialing_a_key_has_cancelled :
    ∃ t, exec (.telegramHandOn ⟨3, 0⟩) (calledState (.refuse .notAccepting) .dialing .idle joinedState) = .next t
      ∧ t.cs.queueCells .print = Notice.dialingAbandoned.run ∧ t.cm.call.state = .idle ∧ t.lu.control.length = 1 :=
  ⟨_, rfl, by decide +kernel, by decide +kernel, by decide +kernel⟩

/-- Dialing that a key began since the Turn is undone, and the REFUSE sent. -/
theorem test_refused_call_abandons_dialing_begun_since :
    ∃ t, exec (.telegramHandOn ⟨3, 0⟩) (calledState (.refuse .notAccepting) .idle .dialing joinedState) = .next t
      ∧ t.cs.queueCells .print = Notice.dialingAbandoned.run ∧ t.cm.call.state = .idle ∧ t.ku.dial = []
      ∧ t.au.autoAnswered = false :=
  ⟨_, rfl, by decide +kernel, by decide +kernel, by decide +kernel, by decide +kernel⟩

theorem test_witness_answer_decision :
    (let c := (waitState .calling .caller).cm.call;
      c.state = .calling ∧ c.partyStation = some 7)
      ∧ (openState .called).cm.call.state ≠ .idle
      ∧ (let s := { joinedState with cl.config.windows := onlyOwn ⟨true, false, true⟩ false }
        s.cm.call.state = .idle ∧ s.cl.config.windows[0].acceptCalls = false)
      ∧ (joinedState.cm.call.state = .idle ∧ joinedState.cl.config.windows[0].acceptCalls = true
        ∧ joinedState.au.attendance = .attended)
      ∧ (let s := { joinedState with au.attendance := .unattended }
        s.au.attendance = .unattended ∧ s.cl.config.windows[0].route.file = true)
      ∧ (let s := { joinedState with au.attendance := .unattended, cl.config.windows := onlyOwn ⟨true, true, false⟩ true }
        s.au.attendance = .unattended ∧ s.cl.config.windows[0].route.file = false)
      ∧ (5 : Addr) = addrOf joinedState.cl.station ∧ (63 : Addr) ≠ addrOf joinedState.cl.station := by decide

/-- A TEXT while IDLE; its duplicate; with nothing effective; with no space; with a gap of 6, and with none. -/
theorem test_witness_turn_of_a_text_not_taken :
    (joinedState.cm.call.state ≠ .opened ∧ windowFor joinedState (textFromSeven 0).destination ≠ none
        ∧ validKind (textFromSeven 0) = some .text)
      ∧ (let s := openState .called;
        s.cm.call.state = .opened ∧ s.cm.call.partyStation = some (textFromSeven 0).source ∧ isGroupCaller s.cm.call = false
          ∧ (textFromSeven 0).destination = addrOf s.cl.station ∧ (textFromSeven 0).sequence = s.cm.call.recvSeq)
      ∧ effective { openState .called with cm.call.route := Route.none } = Route.none
      ∧ (let s := { openState .called with cs.free := [] }
        deliveryPasses s (effective s) (textRuns s (effective s) 7 0 [.letter 3]) = false) := by decide

theorem test_witness_turn_of_a_text_taken :
    let s := openState .called
    (textFromSeven 1).sequence ≠ s.cm.call.recvSeq ∧ ((textFromSeven 1).sequence - s.cm.call.recvSeq - 1).toNat = 0
      ∧ ((textFromSeven 7).sequence - s.cm.call.recvSeq - 1).toNat = 6
      ∧ effective s ≠ Route.none
      ∧ deliveryPasses s (effective s) (textRuns s (effective s) 7 6 [.letter 3]) = true
      ∧ (effective s).file = false := by decide +kernel

theorem test_witness_turn_of_a_text_to_the_file :
    let s := { openState .called with au.attendance := .unattended }
    (effective s).file = true ∧ s.cm.call.fileLink = none ∧ fileAvailable s = true
      ∧ deliveryPasses s (effective s) (textRuns s (effective s) 7 0 [.letter 3]) = true
      ∧ deliveryBlocks s (textRuns s (effective s) 7 0 [.letter 3]) + 5 ≤ s.cs.free.length := by decide +kernel

/-- The file's record linked and OPEN, and the store's blocks with one holder each; with no block to need. -/
theorem test_witness_turn_of_a_text_to_an_open_record :
    let s := { openState .called with
      cs := { (openState .called).cs with free := List.range 127, cells := [(32 * 127, .character .bell .line)] }
      au.file := [{ record 0 false with state := .opened }]
      au.attendance := .unattended
      cm.call.fileLink := some 0 }
    let r := textRuns s (effective s) 7 0 [.letter 3]
    (effective s).file = true ∧ s.cm.call.fileLink = some 0 ∧ ({ record 0 false with state := .opened } ∈ s.au.file)
      ∧ deliveryPasses s (effective s) r = true ∧ deliveryBlocks s r = 0 := by decide +kernel

/-- Printed records give their blocks: 4 free blocks and one held by the oldest printed record. -/
theorem test_witness_delivery_counts_reclaimable_blocks :
    let s := { openState .called with
      cs.free := [1, 2, 3, 4, 5]
      au.file := [record 0 true]
      au.attendance := .unattended }
    let r := textRuns s (effective s) 7 0 [.letter 3]
    deliveryPasses s (effective s) r = true ∧ deliveryBlocks s r = 1
      ∧ deliveryPasses { s with au.file := [record 0 false] } (effective s) r = false := by decide +kernel

/-- The hand-on of a TEXT with each of its results, held and not. -/
theorem test_witness_hand_on_of_a_text :
    let s (b : State) (x : TextResult) : State :=
      { b with lu.receive := .framing false false (some ⟨textFromSeven 1, [.letter 3], false, .text x⟩) }
    validKind (textFromSeven 1) = some .text ∧ (textFromSeven 1).source ≠ joinedState.cl.station
      ∧ ((s (openState .called) .noSpace).cm.call.state = .opened
        ∧ (s (openState .called) .noSpace).cm.call.heldByMe = false)
      ∧ (s busyState .noDestination).cm.call.heldByMe = true ∧ (s joinedState .noSpace).cm.call.state ≠ .opened
      ∧ (s joinedState .notForUs).lu.joinState = .joined ∧ joinedState.lu.restartClear = false := by decide

/-! ### Witnesses: the units of telegrams, at 47 and 48 -/

/-- A telegram's units after its Start: its run of space stays below 48; ten NULLs in a TEXT reach it. A Turn's two units,
after 45 of space, after 46, and after 47 with mark. -/
theorem test_witness_units :
    let s (n : Nat) : State := { atTurn joinedState with lu.spaceRun := n }
    unbroken (framedUnits (fromSeven .call [])) (s 1) ∧ unbroken (framedUnits (textFromSeven 1)) (s 1)
      ∧ ¬ unbroken (framedUnits (makeTelegram .text 7 1 5 (List.replicate 10 0))) (s 1)
      ∧ unbroken (framedUnits { fromSeven .hold [] with check := 0 }) (s 1)
      ∧ ¬ unbroken (framedUnits { fromSeven .hold [] with check := 0 }) (s 47)
      ∧ unbroken (turnUnits ⟨0, 0⟩) (s 45) ∧ ¬ unbroken (turnUnits ⟨0, 0⟩) (s 46) ∧ unbroken (turnUnits ⟨3, 0⟩) (s 47)
      ∧ heldSpace ⟨3, 3⟩ = false ∧ heldSpace ⟨3, 0⟩ = true ∧ heldSpace ⟨3, 1⟩ = true ∧ heldSpace ⟨3, 2⟩ = true := by
  unfold unbroken; decide

/-- A TEXT of ten NULLs breaks the line at its Turn. -/
theorem test_ten_nulls_break_the_line :
    ∃ t, exec (.telegramTurn (makeTelegram .text 7 1 5 (List.replicate 10 0))) { atTurn joinedState with lu.spaceRun := 1 }
        = .next t ∧ t.lu.condition = .broken ∧ t.lu.receive = .hunting :=
  ⟨_, rfl, by decide +kernel, by decide +kernel⟩

/-- The Turn and the hand-on of a telegram with a break in its units. -/
theorem test_witness_break_within_a_telegram :
    let s (n : Nat) : State := { atTurn joinedState with lu.spaceRun := n }
    let h : State := { takenFromSeven .clear [0] joinedState with lu.spaceRun := 46 }
    (s 1).lu.receive = .framing false false none ∧ validKind { fromSeven .hold [] with check := 0 } = none
      ∧ validKind (fromSeven .hold []) ≠ none ∧ (s 1).lu.joinState = .joined ∧ loaded (s 1) = true
      ∧ (s 1).lu.condition = .clear ∧ validKind (fromSeven .clear [0]) ≠ none
      ∧ h.lu.receive = .framing false false (some ⟨fromSeven .clear [0], [], true, .plain⟩) ∧ h.lu.spaceRun < 48
      ∧ ¬ unbroken (turnUnits ⟨0, 0⟩) h ∧ unbroken (turnUnits ⟨3, 0⟩) h := by
  unfold unbroken; decide

/-! ### Witnesses: the hand-on -/

theorem test_witness_line_view :
    LineView.reset.state = .free
      ∧ (let v := (waitState .awaiting .caller).cm.view;
        v.state = .ringing ∧ v.caller = some 5 ∧ v.destination = some 7)
      ∧ (let v := (openState .called).cm.view;
        v.state = .engaged ∧ v.caller = some 7 ∧ v.destination = some 5)
      ∧ (joinedState.cm.call.state = .idle ∧ (Kind.clear = .call → true = false)) := by decide

theorem test_witness_hand_on :
    let f : Framed := ⟨fromSeven .clear [0], [], true, .plain⟩
    (takenFromSeven .clear [0] joinedState).lu.receive = .framing false false (some f)
      ∧ validKind f.telegram = some .clear ∧ validKind f.telegram ≠ none := by decide

theorem test_witness_accept_opens :
    let s := takenFromSeven .accept [] (waitState .awaiting .caller)
    holdsTaken s .accept ⟨fromSeven .accept [], [], true, .plain⟩ ∧ s.cm.call.state = .awaiting
      ∧ s.cm.call.role = some .caller ∧ s.lu.condition = .clear := by unfold holdsTaken; decide

theorem test_witness_refuse_and_clear :
    (let s := takenFromSeven .refuse [1] (waitState .awaiting .caller);
      holdsTaken s .refuse ⟨fromSeven .refuse [1], [], true, .plain⟩ ∧ s.cm.call.partyStation = some 7
        ∧ s.cm.call.state = .awaiting)
      ∧ (let s := takenFromSeven .clear [0] (openState .called);
        holdsTaken s .clear ⟨fromSeven .clear [0], [], true, .plain⟩ ∧ s.cm.call.partyStation = some 7
          ∧ s.cm.call.state = .opened) := by unfold holdsTaken; decide

/-- In CLEARING: the party's CLEAR taken; the party's to a third station, which is not, and frees that call's view. -/
def clearingState (taken : Bool) : State :=
  let t := if taken then fromSeven .clear [0] else makeTelegram .clear 7 0 9 [0]
  { waitState .clearing .caller with
    cm.view := ⟨.engaged, some 7, some 9, none, some (sec 120)⟩
    lu.control := [⟨⟨.clear, 7, [0], .cm, 3⟩, 0, 0, .ready, false, none⟩]
    lu.receive := .framing false false (some ⟨t, [], taken, .plain⟩) }

theorem test_witness_clear_in_clearing :
    ∀ taken ∈ [true, false],
      let s := clearingState taken
      let t := if taken then fromSeven .clear [0] else makeTelegram .clear 7 0 9 [0]
      s.lu.receive = .framing false false (some ⟨t, [], taken, .plain⟩) ∧ validKind t = some .clear
        ∧ s.lu.joinState = .joined ∧ t.source ≠ s.cl.station ∧ spaceRunThrough (turnUnits ⟨3, 3⟩) s.lu.spaceRun < 48
        ∧ s.cm.call.state = .clearing ∧ isGroupCaller s.cm.call = false ∧ s.cm.call.partyStation = some t.source := by
  decide

/-- R92: only a CLEAR that is taken ends CLEARING; the other frees the view it belongs to (R68) and no more. -/
theorem test_clearing_ends_by_a_clear_taken :
    (∃ t, exec (.telegramHandOn ⟨3, 3⟩) (clearingState true) = .next t ∧ t.cm.call.state = .idle ∧ t.lu.control = [])
      ∧ ∃ t, exec (.telegramHandOn ⟨3, 3⟩) (clearingState false) = .next t ∧ t.cm.call.state = .clearing
        ∧ t.lu.control.length = 1 ∧ t.cm.view = LineView.reset :=
  ⟨⟨_, rfl, by decide, by decide⟩, _, rfl, by decide, by decide, by decide⟩

theorem test_witness_hold_go_and_break :
    holdsTaken (takenFromSeven .hold [] busyState) .hold ⟨fromSeven .hold [], [], true, .plain⟩
      ∧ holdsTaken (takenFromSeven .go [] busyState) .go ⟨fromSeven .go [], [], true, .plain⟩
      ∧ holdsTaken (takenFromSeven .brk [] busyState) .brk ⟨fromSeven .brk [], [], true, .plain⟩
      ∧ busyState.cm.call.state = .opened ∧ busyState.cm.view.state = .engaged := by unfold holdsTaken; decide

/-- A WHO, a probe, a HEREIS and a POLL taken; the call OPEN, with a record linked; the reader ready and not. -/
theorem test_witness_who_hereis_and_poll :
    let probe := makeTelegram .who 7 0 7 []
    holdsTaken (takenFromSeven .who [] joinedState) .who ⟨fromSeven .who [], [], true, .plain⟩
      ∧ holdsTaken { joinedState with lu.receive := .framing false false (some ⟨probe, [], true, .plain⟩) } .who
          ⟨probe, [], true, .plain⟩
      ∧ holdsTaken (takenFromSeven .hereis [4] (openState .called)) .hereis ⟨fromSeven .hereis [4], [], true, .plain⟩
      ∧ holdsTaken (takenFromSeven .poll [3] (openState .called)) .poll ⟨fromSeven .poll [3], [], true, .plain⟩
      ∧ (openState .called).cm.call.state = .opened ∧ (openState .called).cm.call.partyStation = some 7
      ∧ (openState .called).tu.run = none ∧ (openState .called).tu.readerPresent = true
      ∧ (openState .called).tu.tapeIn = true ∧ (openState .called).lu.restartClear = false
      ∧ joinedState.cm.call.state ≠ .opened := by unfold holdsTaken; decide

/-- This station's own ACCEPT handed on in RINGING, answered by a key, and by the AU with auto-WHO. -/
theorem test_witness_own_accept_opens :
    let t := makeTelegram .accept 5 0 7 []
    let s : State :=
      { ringState with
        cm.call.answer := .acceptSent
        lu.slot := some ⟨.control .accept, t⟩
        lu.control := [⟨⟨.accept, 7, [], .cm, 3⟩, 0, 0, .ready, false, none⟩]
        lu.receive := .framing true false (some ⟨t, [], false, .plain⟩) }
    s.lu.receive = .framing true false (some ⟨t, [], false, .plain⟩) ∧ validKind t = some .accept
      ∧ slotWithdrawn s = false ∧ s.lu.joinState = .joined ∧ s.lu.restartClear = false
      ∧ s.cm.call.role = some .called ∧ s.lu.ackRead.getD (heldSpace ⟨3, 0⟩) = true ∧ s.cm.call.state = .ringing
      ∧ s.cm.call.answer = .acceptSent ∧ s.cl.config.autoWho = true ∧ s.au.autoAnswered = false
      ∧ unbroken (turnUnits ⟨3, 0⟩) s := by unfold unbroken; decide

/-- An OPEN call's record linked in the file, and a START in PRINT and PUNCH with their marks. -/
def markedState : State :=
  { openState .called with
    cs := { (openState .called).cs with
      free := (List.range 125).map (· + 2)
      cells := [(0, .boundary .start 7), (32, .boundary .start 7), (32 * 127, .character .bell .line)]
      print := ⟨some 0, 0, some 0, 0, 1, 1, 64, 0, some 7⟩
      punch := ⟨some 1, 0, some 1, 0, 1, 1, 32, 0, some 7⟩ }
    au.file := [{ record 0 false with state := .opened, completedAt := none }]
    cm.call.fileLink := some 0
    cl.config.keepPrinted := true }

theorem test_witness_end_of_an_open_call :
    blocksHaveOneHolder markedState ∧ fileInOrder markedState
      ∧ (∃ x ∈ markedState.au.file, markedState.cm.call.fileLink = some x.slot)
      ∧ markedState.cs.punch.blocksNeeded [.boundary .finish 7] = 0
      ∧ markedState.cs.print.blocksNeeded [.boundary .finish 7] = 0 ∧ markedState.ku.editStack = []
      ∧ (markedState.cs.punch.blockCount ≤ markedState.cs.punch.limit
        ∧ markedState.cs.print.blockCount ≤ markedState.cs.print.limit)
      ∧ (openState .called).cs.punch.openMark = none
      ∧ holdsTaken (takenFromSeven .clear [0] markedState) .clear ⟨fromSeven .clear [0], [], true, .plain⟩
      ∧ telegramCause (fromSeven .clear [0]) = some .normal ∧ telegramCause (fromSeven .clear [2]) ≠ some .normal
      ∧ markedState.cl.config.keepPrinted = true := by
  refine ⟨⟨by decide, ?_, by decide, ?_⟩, ⟨by decide, ?_, by decide, ?_⟩, by decide, by decide, by decide, by decide,
    by decide, by decide, ?_, by decide, by decide, by decide⟩
  · intro n
    cases n <;> (refine ⟨?_, ?_, ?_, ?_, ?_, ?_, ?_⟩ <;> decide)
  · intro r hr
    obtain rfl : r = { record 0 false with state := .opened, completedAt := none } := by simpa [markedState] using hr
    refine ⟨?_, ?_, ?_⟩ <;> decide
  · decide
  · decide
  · unfold holdsTaken; decide

/-- A BREAK with a reader run to SEND, the TEXT in the slot, and room in PRINT for its notice. -/
theorem test_witness_break_with_a_reader_run :
    let r : ReaderRun := ⟨.send, 0, 0, 0, .ltrs, none, .running⟩
    let s : State :=
      { takenFromSeven .brk [] markedState with
        cm.call.readerLink := true
        tu.run := some r
        lu.text := some ⟨7, 1, [3, 4], 0, 0, .ready, false⟩
        lu.slot := some ⟨.text, makeTelegram .text 5 1 7 [3, 4]⟩ }
    holdsTaken s .brk ⟨fromSeven .brk [], [], true, .plain⟩ ∧ s.cm.call.state = .opened ∧ s.cm.call.readerLink = true
      ∧ s.tu.run = some r ∧ r.destination = .send ∧ s.lu.slot.map Slot.source = some .text
      ∧ markedState.cm.call.readerLink = false ∧ markedState.lu.slot.map Slot.source ≠ some .text
      ∧ s.pu.present = true ∧ s.cs.spaceCheck .print .mayUse (Notice.breakFrom 7).run = true := by
  unfold holdsTaken; decide +kernel

/-! ### Witnesses: sending -/

/-- A control entry that is ready. -/
def entry (k : Kind) (r : Readiness) : ControlEntry := ⟨⟨k, 7, [], .cm, 3⟩, 0, 0, r, false, none⟩

theorem test_witness_transmit_break :
    let s := { joinedState with lu.control := [entry .who .ready, entry .brk (.retryReady 0)] }
    loaded s = true ∧ s.lu.joinState = .joined ∧ s.lu.condition = .clear ∧ s.lu.receive = .hunting ∧ s.lu.slot = none
      ∧ s.lu.control.find? (fun x => x.readiness.isReady && x.content.kind = .brk) = some (entry .brk (.retryReady 0)) := by
  decide

theorem test_witness_transmit_the_oldest :
    let s := { joinedState with lu.control := [entry .brk (.waiting 1), entry .who .ready, entry .go .ready] }
    (∀ x ∈ s.lu.control, x.content.kind = .brk → x.readiness.isReady = false)
      ∧ s.lu.control.find? (fun x => x.readiness.isReady) = some (entry .who .ready) := by decide

/-- A GO asked for with a HOLD to the same destination in the list, and with one in the slot; an entry of its own kind. -/
theorem test_witness_control_list :
    let l (x : Option Slot) : LineUnit := { joinedState.lu with control := [entry .hold .ready, entry .go .ready], slot := x }
    let inSlotNow : Option Slot := some ⟨.control .hold, makeTelegram .hold 5 0 7 []⟩
    (∃ e ∈ (l none).control, e.content.kind = .hold ∧ e.content.destination = 7)
      ∧ (l inSlotNow).slot.map Slot.source = some (.control .hold)
      ∧ (l none).slot.map Slot.source ≠ some (.control .hold)
      ∧ (∃ e ∈ (l none).control, e.content.kind = .go) ∧ (∀ e ∈ joinedState.lu.control, e.content.kind ≠ .go) := by decide

/-- No collision yet and the last retry but one used; one collision. -/
theorem test_witness_arbitration_and_collision :
    (let s := textOut 0 2 (openState .caller);
      loaded s = true ∧ s.lu.receive = .framing true false none
        ∧ s.lu.slot = some ⟨.text, makeTelegram .text 5 1 7 [3, 4]⟩
        ∧ s.lu.text = some ⟨7, 1, [3, 4], 2, 0, .ready, false⟩ ∧ s.lu.restartClear = false ∧ 2 < s.cl.config.retryLimit)
      ∧ (textOut 1 0 (openState .caller)).lu.text = some ⟨7, 1, [3, 4], 0, 1, .ready, false⟩ := by decide

/-- The attempt's telegram framed: with the last retry but one used, and with the last. -/
theorem test_witness_attempt_ends :
    let f : Framed := ⟨makeTelegram .text 5 1 7 [3, 4], [], false, .text .notForUs⟩
    let s := { textOut 0 2 (openState .caller) with lu.receive := .framing true false (some f) }
    loaded s = true ∧ s.lu.receive = .framing true false (some f) ∧ s.lu.ackRead = none ∧ s.lu.restartClear = false
      ∧ 2 < s.cl.config.retryLimit ∧ s.cl.config.retryLimit ≤ 3 ∧ s.cm.call.state = .opened ∧ s.lu.joinState = .joined := by
  decide

/-- A control entry's attempt at its end: with its last retry but one used; a CLEAR's that the CM waits on. -/
theorem test_witness_attempt_of_a_control_entry :
    let e (k : Kind) : ControlEntry := { entry k .ready with retriesUsed := 2 }
    let t (k : Kind) : Telegram := makeTelegram k 5 0 7 (if k = .clear then [0] else [])
    let s (k : Kind) : State :=
      { joinedState with
        lu.slot := some ⟨.control k, t k⟩
        lu.control := [entry .go .ready, e k]
        lu.receive := .framing true false (some ⟨t k, [], false, .plain⟩)
        cm.call.state := .clearing }
    loaded (s .who) = true ∧ (s .who).lu.control.find? (fun x => x.content.kind = .who) = some (e .who)
      ∧ (e .who).withdrawn = false ∧ (e .who).beside = none ∧ (s .who).lu.ackRead = none
      ∧ (s .who).lu.restartClear = false ∧ (e .who).retriesUsed < (e .who).content.allowance
      ∧ (s .clear).lu.control.find? (fun x => x.content.kind = .clear) = some (e .clear)
      ∧ (e .clear).content.requester = .cm ∧ (s .clear).cm.call.state = .clearing := by decide

/-- The attempt of a TEXT at its end in either order with its hand-on: ATTEMPT_END first, and after a reading of mark. -/
theorem test_witness_attempt_ends_in_either_order :
    let f : Framed := ⟨makeTelegram .text 5 1 7 [3, 4], [], false, .text .notForUs⟩
    let s (r : Receive) (read : Option Bool) : State :=
      { textOut 0 2 (openState .caller) with lu.receive := r, lu.ackRead := read }
    (∀ ack w, ∃ l, attemptEnds (s (.framing true false (some f)) none) ack ack w l)
      ∧ ∀ sent ack w, ∃ l, attemptEnds (s .hunting (some ack)) sent ack w l :=
  ⟨fun _ _ => ⟨_, .inl ⟨_, _, rfl, rfl, rfl, rfl⟩⟩, fun _ _ _ => ⟨_, .inr ⟨rfl, rfl, rfl⟩⟩⟩

/-- SEND whole in a store with one holder for each block. -/
theorem test_witness_cells_of_a_text :
    (filedState.cs.queueCells .send).length = filedState.cs.send.cellCount ∧ filedState.cs.send.inFlight = 1 := by decide

theorem test_witness_retry_waits :
    let p : TextPlace := ⟨7, 1, [3], 1, 0, .waiting 800, false⟩
    ({ joinedState with lu.text := some p } : State).lu.text = some p ∧ p.readiness = .waiting 800
      ∧ ({ joinedState with lu.control := [entry .go .ready, entry .who (.waiting 800)] } : State).lu.control.find?
          (fun x => x.content.kind = .who) = some (entry .who (.waiting 800))
      ∧ (entry .who (.waiting 800)).readiness = .waiting 800 := by decide

theorem test_witness_line_break :
    (loaded joinedState = true ∧ joinedState.lu.joinState ≠ .offline ∧ joinedState.lu.condition = .clear)
      ∧ (joinedState.lu.restartClear = false ∧ joinedState.lu.slot = none)
      ∧ (textOut 1 0 (openState .caller)).lu.slot = some ⟨.text, makeTelegram .text 5 1 7 [3, 4]⟩
      ∧ ({ joinedState with lu.condition := .broken } : State).lu.condition = .broken := by decide

/-- The TEXT of the place, ready, after a telegram of another's and of its own; the probe, with no wait. -/
theorem test_witness_transmit_text_and_probe :
    (let s := { openState .caller with lu.text := some ⟨7, 1, [3, 4], 0, 0, .ready, false⟩ };
      loaded s = true ∧ s.lu.joinState = .joined ∧ s.lu.condition = .clear ∧ s.lu.receive = .hunting ∧ s.lu.slot = none
        ∧ s.lu.restartClear = false ∧ (∀ e ∈ s.lu.control, e.readiness.isReady = false) ∧ s.lu.text.isSome = true
        ∧ s.cm.call.state = .opened ∧ s.cm.call.role = some .caller ∧ s.cm.call.holdSet = [])
      ∧ (let s := { upState with lu.joinState := .probe }
        loaded s = true ∧ s.lu.joinState = .probe ∧ s.lu.condition = .clear ∧ s.lu.receive = .hunting ∧ s.lu.slot = none
          ∧ s.lu.probeWait = none) := by decide

/-- The Turn of the telegram in the slot, of a TEXT. -/
theorem test_witness_own_turn :
    let s := textOut 0 0 (openState .caller)
    let x : Slot := ⟨.text, makeTelegram .text 5 1 7 [3, 4]⟩
    s.lu.receive = .framing true false none ∧ s.lu.slot = some x ∧ validKind x.telegram = some .text
      ∧ unbroken (framedUnits x.telegram) s := by unfold unbroken; decide

/-- A control entry in the slot, its attempt running or framed through its Turn. -/
def controlOut (e : ControlEntry) (f : Option Framed) (s : State) : State :=
  let t := makeTelegram e.content.kind 5 0 e.content.destination e.content.text
  { s with
    lu.slot := some ⟨.control e.content.kind, t⟩
    lu.control := [e]
    lu.receive := .framing true e.withdrawn f }

/-- A WHO in the slot when the line breaks: withdrawn and not, with content beside it and with none. -/
theorem test_witness_line_break_in_an_attempt :
    ∀ w ∈ [true, false], ∀ b ∈ [none, some (entry .who .ready).content],
      let e : ControlEntry := { entry .who .ready with withdrawn := w, beside := b }
      let s := controlOut e none joinedState
      loaded s = true ∧ s.lu.joinState ≠ .offline ∧ s.lu.condition = .clear ∧ s.lu.restartClear = false
        ∧ s.lu.slot = some ⟨.control .who, makeTelegram .who 5 0 7 []⟩
        ∧ s.lu.control.find? (fun x => x.content.kind = .who) = some e := by decide

/-- A WHO: with a retry left and none, with a collision, withdrawn, with content beside it. -/
theorem test_witness_control_attempt_stopped :
    let e := entry .who .ready
    let s (e : ControlEntry) : State := controlOut e none joinedState
    (s e).lu.control.find? (fun x => x.content.kind = .who) = some e ∧ (s e).lu.receive = .framing true false none
      ∧ (s e).lu.restartClear = false ∧ e.withdrawn = false ∧ e.beside = none ∧ e.collisions = 0
      ∧ e.retriesUsed < e.content.allowance ∧ ({ e with collisions := 1 } : ControlEntry).collisions = 1
      ∧ ({ e with withdrawn := true } : ControlEntry).withdrawn = true
      ∧ ({ e with beside := some e.content } : ControlEntry).beside = some e.content := by decide

/-- The restart CLEAR in the slot: its Start alone read, its 4th unit, its last, and a run that its third unit breaks. -/
theorem test_witness_restart_clear_collides :
    let e : ControlEntry := ⟨⟨.clear, 7, [4], .cmNoOutcome, 0⟩, 0, 0, .ready, false, none⟩
    let units := framedUnits (makeTelegram .clear 5 0 7 [4])
    let s (time : Tick) (run : Nat) : State :=
      { controlOut e none joinedState with lu.restartClear := true, lu.frameTime := time, lu.spaceRun := run }
    let read (place : Nat) : List Bool :=
      if place = 0 then [] else units.take (place - 1) ++ ((units[place - 1]?).map fun u => !u).toList
    (s 0 1).lu.receive = .framing true false none ∧ (s 0 1).lu.control.find? (fun x => x.content.kind = .clear) = some e
      ∧ (s 0 1).lu.restartClear = true ∧ e.collisions = 0 ∧ loaded (s 0 1) = true ∧ (s 0 1).lu.joinState = .joined
      ∧ (s 0 1).lu.condition = .clear ∧ unitTime (s 0 1) = 20
      ∧ (s 19 1).lu.frameTime / 20 = 0 ∧ read 0 = [] ∧ (s 95 1).lu.frameTime / 20 = 4 ∧ (read 4).length = 4
      ∧ units.length = 39 ∧ (s 799 1).lu.frameTime / 20 = 39 ∧ (read 39).length = 39 ∧ unbroken (read 39) (s 799 1)
      ∧ (s 79 47).lu.frameTime / 20 = 3 ∧ ¬ unbroken (read 3) (s 79 47) := by unfold unbroken; decide +kernel

/-- The restart CLEAR in the slot, its telegram framed through its Turn. -/
def restartClearOut : State :=
  let e : ControlEntry := ⟨⟨.clear, 7, [4], .cmNoOutcome, 0⟩, 0, 0, .ready, false, none⟩
  { controlOut e (some ⟨makeTelegram .clear 5 0 7 [4], [], false, .plain⟩) joinedState with lu.restartClear := true }

/-- The same after its hand-on, which read space in the ACK slot. -/
def restartClearHandedOn : State := { restartClearOut with lu.receive := .hunting, lu.ackRead := some true }

theorem test_witness_restart_clear_ends :
    let e : ControlEntry := ⟨⟨.clear, 7, [4], .cmNoOutcome, 0⟩, 0, 0, .ready, false, none⟩
    (∀ ack, ∃ l, attemptEnds restartClearOut ack ack e.withdrawn l)
      ∧ (∀ sent, ∃ l, attemptEnds restartClearHandedOn sent true e.withdrawn l)
      ∧ ∀ s ∈ [restartClearOut, restartClearHandedOn],
        s.lu.slot = some ⟨.control .clear, makeTelegram .clear 5 0 7 [4]⟩
          ∧ s.lu.control.find? (fun x => x.content.kind = .clear) = some e ∧ s.lu.restartClear = true
          ∧ e.content.requester ≠ .cm ∧ e.content.allowance ≤ e.retriesUsed ∧ e.beside = none :=
  ⟨fun _ => ⟨_, .inl ⟨_, _, rfl, rfl, rfl, rfl⟩⟩, fun _ => ⟨_, .inr ⟨rfl, rfl, rfl⟩⟩, by decide⟩

/-- R54: the restart CLEAR, unanswered and taken, sends the LU to LISTEN. -/
theorem test_restart_clear_ends_in_listen :
    (∃ t, exec (.attemptEnd false) restartClearOut = .next t ∧ t.lu.joinState = .listen ∧ t.lu.control = []
        ∧ t.lu.listenWindow = some (sec 30) ∧ t.lu.quiet = 0 ∧ t.lu.lastOwn = false)
      ∧ ∃ t, exec (.attemptEnd false) restartClearHandedOn = .next t ∧ t.lu.joinState = .listen ∧ t.lu.control = []
        ∧ t.lu.receive = .hunting ∧ t.lu.ackRead = none :=
  ⟨⟨_, rfl, by decide, by decide, by decide, by decide, by decide⟩, _, rfl, by decide, by decide, by decide, by decide⟩

/-- A probe in the slot, before and after its Turn: its first collision and its second, its three counts. -/
theorem test_witness_probe_attempt :
    let t := makeTelegram .who 5 0 5 []
    let f : Framed := ⟨t, [], false, .plain⟩
    let s (n c : Nat) (f : Option Framed) : State :=
      { upState with
        lu.joinState := .probe
        lu.slot := some ⟨.probe, t⟩
        lu.probeCount := n
        lu.probeCollisions := c
        lu.receive := .framing true false f }
    (s 0 0 none).lu.receive = .framing true false none ∧ (s 0 0 none).lu.slot = some ⟨.probe, t⟩
      ∧ (s 0 0 none).lu.probeCollisions = 0 ∧ (s 0 1 none).lu.probeCollisions = 1
      ∧ (s 1 0 (some f)).lu.receive = .framing true false (some f) ∧ (s 1 0 (some f)).lu.ackRead = none
      ∧ (s 1 0 (some f)).lu.restartClear = false ∧ (s 1 0 (some f)).lu.probeCount < 2
      ∧ (s 2 0 (some f)).lu.probeCount = 2 ∧ (s 2 0 (some f)).lu.control = [] := by decide

/-- A withdrawn TEXT at its attempt's end. -/
theorem test_witness_withdrawn_text_ends :
    let f : Framed := ⟨makeTelegram .text 5 1 7 [3, 4], [], false, .text .notForUs⟩
    let s : State :=
      { textOut 0 2 (openState .caller) with
        lu.receive := .framing true false (some f), lu.text := some ⟨7, 1, [3, 4], 2, 0, .ready, true⟩ }
    s.lu.receive = .framing true false (some f) ∧ s.lu.slot = some ⟨.text, makeTelegram .text 5 1 7 [3, 4]⟩
      ∧ s.lu.text = some ⟨7, 1, [3, 4], 2, 0, .ready, true⟩ ∧ s.lu.ackRead = none := by decide

/-- A control entry exhausted, of each kind whose end the record waits for; one withdrawn, one with content beside it. -/
theorem test_witness_control_entry_exhausted :
    let e (k : Kind) : ControlEntry := { entry k .ready with retriesUsed := 3 }
    let f (k : Kind) : Framed := ⟨makeTelegram k 5 0 7 [], [], false, .plain⟩
    let s (k : Kind) (b : State) : State := controlOut (e k) (some (f k)) b
    (∀ k ∈ [Kind.call, .accept, .clear, .who, .refuse, .hold, .go, .brk, .hereis, .poll],
        (s k joinedState).lu.control.find? (fun x => x.content.kind = k) = some (e k)
          ∧ (e k).content.allowance ≤ (e k).retriesUsed ∧ (e k).withdrawn = false ∧ (e k).beside = none
          ∧ (s k joinedState).lu.receive = .framing true false (some (f k)) ∧ (s k joinedState).lu.ackRead = none
          ∧ (s k joinedState).lu.restartClear = false ∧ (e k).content.requester = .cm)
      ∧ (s .call (waitState .calling .caller)).cm.call.state = .calling
      ∧ (s .accept ringState).cm.call.state = .ringing
      ∧ (s .clear (waitState .clearing .caller)).cm.call.state = .clearing
      ∧ (s .call joinedState).pu.present = true
      ∧ (s .call joinedState).cs.spaceCheck .print .mayUse (Notice.noAnswer 7).run = true
      ∧ joinedState.cm.call.state ≠ .calling := by decide +kernel

/-! ### Witnesses: the call's timers -/

theorem test_witness_call_timers :
    ({ joinedState with cm.sendTimer := .running 1 } : State).cm.sendTimer = .running 1
      ∧ ((openState .caller).cm.view.silence = some (sec 120) ∧ (openState .caller).cm.call.state = .opened
        ∧ (openState .caller).lu.joinState = .joined ∧ (openState .caller).lu.restartClear = false)
      ∧ (let s := waitState .awaiting .caller;
        s.cm.view.ringWait = some (sec 40) ∧ s.cm.call.state = .awaiting)
      ∧ (ringState.cm.view.ringWait = some (sec 40) ∧ ringState.cm.call.state = .ringing)
      ∧ (let s := { openState .caller with cm.breakTimer := some (sec 5) }
        s.cm.breakTimer = some (sec 5) ∧ s.cm.call.state ≠ .idle ∧ s.cm.call.state ≠ .dialing)
      ∧ (let s := { joinedState with cm.breakTimer := some (sec 5), cm.call.state := .dialing }
        s.cm.breakTimer = some (sec 5) ∧ s.cm.call.state = .dialing)
      ∧ (let s := { busyState with cm.call.holdSet := [⟨9, 1⟩, ⟨7, sec 30⟩] }
        s.cm.call.holdSet.find? (fun h => h.station = 7) = some ⟨7, sec 30⟩
          ∧ s.cm.call.holdSet.find? (fun h => h.station = 9) = some ⟨9, 1⟩)
      ∧ (busyState.cm.call.heldSince = some (sec 120) ∧ busyState.lu.joinState = .joined)
      ∧ (let s := { markedState with cm.call.heldByMe := true, cm.call.heldSince := some 1 }
        s.cm.call.heldSince = some 1 ∧ s.lu.restartClear = false
          ∧ ∃ x ∈ s.au.file, s.cm.call.fileLink = some x.slot) := by decide

/-- Both timers of the view where the record is no party to the call it holds; the silence timer in AWAITING and RINGING. -/
theorem test_witness_view_timers_outside_the_call :
    (∀ st ∈ [CallState.idle, .dialing, .calling, .clearing],
        let s (v : LineView) : State := { joinedState with cm.call.state := st, cm.view := v }
        (s ⟨.engaged, some 7, some 9, none, some 1⟩).cm.view.silence = some 1
          ∧ (s ⟨.ringing, some 7, some 9, some 0, none⟩).cm.view.ringWait = some 0
          ∧ (s LineView.reset).cm.call.state ≠ .awaiting ∧ (s LineView.reset).cm.call.state ≠ .ringing
          ∧ (s LineView.reset).cm.call.state ≠ .opened)
      ∧ ∀ s ∈ [waitState .awaiting .caller, ringState],
        ({ s with cm.view := ⟨.engaged, some 5, some 7, none, some 1⟩ } : State).cm.view.silence = some 1
          ∧ (s.cm.call.state = .awaiting ∨ s.cm.call.state = .ringing) := by decide

/-- An OPEN call with a mark in PRINT and PUNCH and characters in the edit stack: all that leaving it prints has room. -/
def editingMarked : State := { markedState with ku.editStack := [.letter 3], cm.view.silence := some 0 }

theorem test_witness_notice_of_an_end :
    editingMarked.pu.present = true ∧ editingMarked.cm.call.state = .opened
      ∧ editingMarked.cs.spaceCheck .print .mayUse (leavingRun editingMarked ++ (Notice.cleared 7 .silence).run) = true
      ∧ editingMarked.cs.punch.blocksNeeded [.boundary .finish 7] = 0
      ∧ editingMarked.cs.punch.openMark = some 7 := by decide +kernel

/-- R93, R95, R109, R134: LINE DISCARDED, the END, and CLEARED 07 SILENCE, in that order (log 5). -/
theorem test_silence_prints_what_ends :
    ∃ t, exec .silenceExpiry editingMarked = .next t
      ∧ t.cs.queueCells .print =
        .boundary .start 7 :: Notice.lineDiscarded.run ++ .boundary .finish 7 :: (Notice.cleared 7 .silence).run :=
  ⟨_, rfl, by decide +kernel⟩

/-! ### Witnesses: the keyboard -/

theorem test_witness_case_mode_and_backspace :
    (loaded (keyed .ltrs joinedState) = true ∧ (keyed .ltrs joinedState).ku.fifo = [.ltrs])
      ∧ joinedState.ku.editStack = [] ∧ (keyed .line busyState).ku.editStack ≠ []
      ∧ (let s := { keyed .backspace busyState with cl.config.edit := true }
        s.ku.editStack = [] ++ [.letter 3] ∧ s.ku.mode = .line ∧ s.cl.config.edit = true ∧ s.cm.call.state = .opened
          ∧ s.cm.call.role = some .caller)
      ∧ (keyed .backspace joinedState).ku.mode ≠ .line := by decide

/-- Positions 46 and 47, 7 entries held and 8; position 0 pressed and released. -/
theorem test_witness_press_and_release :
    let full := { joinedState with ku.fifo := List.replicate 8 .cr }
    (joinedState.ku.scan[47]?.map KeyScan.level = some .up ∧ (47 : BitVec 6).toNat ≠ 45 ∧ 46 < (47 : BitVec 6).toNat)
      ∧ ((46 : BitVec 6).toNat ≤ 46 ∧ 8 ≤ full.ku.fifo.length)
      ∧ ({ joinedState with ku.fifo := List.replicate 7 .cr } : State).ku.fifo.length < 8
      ∧ ({ joinedState with ku.scan := joinedState.ku.scan.set 0 ⟨.down, 0⟩ } : State).ku.scan[0]?.map KeyScan.level
          = some .down
      ∧ KeyScan.samples [true] ⟨.up, 2⟩ = ⟨.down, 0⟩ ∧ KeyScan.samples [true, false, true, true] ⟨.up, 0⟩ = ⟨.up, 2⟩
      ∧ KeyScan.samples [true, true, true] ⟨.up, 0⟩ = ⟨.down, 0⟩ ∧ KeyScan.samples [false, false, false] ⟨.down, 0⟩ = ⟨.up, 0⟩
      ∧ joinedState.ku.scan[46]? = some ⟨.up, 0⟩ := by decide

theorem test_witness_character_key :
    let s := keyed (.code 3) joinedState
    loaded s = true ∧ s.ku.fifo = [.code 3] ∧ keyChar s.ku.case (.code 3) = some (.letter 3) ∧ s.ku.headWaiting = false
      ∧ keyDigit (.code 3) = some 1 ∧ s.ku.dial.length < 2 ∧ s.ku.mode = .localMode ∧ s.pu.present = true
      ∧ s.cs.print.limitPasses [.character (.letter 3) .keyboard] = true := by decide

theorem test_witness_character_key_in_local_mode :
    let cell := [Cell.character (.letter 3) .keyboard]
    let s := keyed (.code 3) joinedState
    (appendRun .print .mayUse cell s).isSome = true
      ∧ ({ s with cs.print.limit := 0 } : State).cs.print.limitPasses cell = false
      ∧ ({ s with pu.present := false } : State).pu.present = false
      ∧ ({ s with cm.call.state := .dialing } : State).cm.call.state = .dialing
      ∧ (let r := { s with ku.headWaiting := true, ku.retryDue := true }
        r.ku.headWaiting = true ∧ r.ku.retryDue = true) := by decide +kernel

/-- 71 characters in the stack, and 72. -/
theorem test_witness_character_key_in_line_mode :
    let s := { keyed (.code 3) busyState with cl.config.edit := true }
    let fill (n : Nat) : State := { s with ku.editStack := List.replicate n .space }
    s.ku.mode = .line ∧ maySend s.cm.call = true ∧ s.cl.config.edit = true ∧ (fill 71).ku.editStack.length < 72
      ∧ 72 ≤ (fill 72).ku.editStack.length
      ∧ maySend ({ s with cm.call.state := .clearing } : State).cm.call = false := by decide

/-- In DIALING: one digit held and two, CR with none and with an address, SPACE. -/
theorem test_witness_character_key_in_dialing :
    let s (k : Key) (dial : List Nat) : State := { keyed k joinedState with cm.call.state := .dialing, ku.dial := dial }
    ((s (.code 3) [0]).ku.dial.length < 2 ∧ 2 ≤ (s (.code 3) [0, 7]).ku.dial.length ∧ keyDigit (.code 3) = some 1)
      ∧ (keyDigit .space = none ∧ Key.space ≠ .cr ∧ keyChar .ltrs .space = some .space)
      ∧ ((s .cr []).ku.dial = [] ∧ keyChar .ltrs .cr = some .cr)
      ∧ (let d := s .cr [0, 7]
        dialed d.ku.dial = some (7 : Addr).toNat ∧ (7 : Addr) ≠ addrOf d.cl.station ∧ d.cm.view.state = .free
          ∧ d.lu.joinState = .joined ∧ d.lu.restartClear = false) := by decide

/-- LINE mode with the edit option off, and TAPE mode: room, SEND at its limit, no free block; the echo refused. -/
theorem test_witness_character_key_with_echo :
    let cell := [Cell.character (.letter 3) .keyboard]
    let s := { keyed (.code 3) (openState .caller) with ku.mode := .line }
    let none' : State := { s with cs.free := [] }
    s.cl.config.edit = false ∧ (appendRun .send .mayUse cell s).isSome = true
      ∧ ((appendRun .send .mayUse cell s).bind (appendRun .print .mayUse cell)).isSome = true
      ∧ ({ s with cs.send.limit := 0 } : State).cs.send.limitPasses cell = false
      ∧ (none'.cs.send.limitPasses cell = true ∧ appendRun .send .mayUse cell none' = none)
      ∧ (let one : State := { s with cs.free := [0] }
        ((appendRun .send .mayUse cell one).map fun u => (appendRun .print .mayUse cell u).isSome) = some false)
      ∧ (let p := { keyed (.code 3) joinedState with ku.mode := .tape }
        p.ku.mode = .tape ∧ p.tu.punchPresent = true ∧ (appendRun .punch .mayUse cell p).isSome = true) := by decide +kernel

/-- CR with two characters in the stack: it passes, and with one free block and two to need it does not; LF with none. -/
theorem test_witness_character_key_commits :
    let s := { keyed .cr busyState with cl.config.edit := true }
    let run := (s.ku.editStack ++ [Resolved.cr]).map fun r => Cell.character r .keyboard
    keyChar s.ku.case .cr = some .cr ∧ s.cs.send.limitPasses run = true ∧ s.cs.print.limitPasses run = true
      ∧ s.cs.send.blocksNeeded run + s.cs.print.blocksNeeded run = 2 ∧ 2 ≤ s.cs.free.length
      ∧ ¬ 2 ≤ ({ s with cs.free := [0] } : State).cs.free.length
      ∧ (let l := { keyed .lf (openState .caller) with ku.mode := .line, cl.config.edit := true }
        l.ku.editStack = [] ∧ keyChar l.ku.case .lf = some .lf) := by decide +kernel

theorem test_witness_call_key :
    ((keyed .call joinedState).ku.fifo = [.call] ∧ (keyed .call joinedState).cm.call.state = .idle)
      ∧ (let s := keyed .call { joinedState with cm.call.state := .dialing, ku.dial := [0, 7] }
        s.ku.headRead = .dialing ∧ dialed s.ku.dial = some (7 : Addr).toNat ∧ (7 : Addr) ≠ addrOf s.cl.station ∧ s.cm.view.state = .free
          ∧ s.lu.joinState = .joined ∧ s.lu.restartClear = false ∧ s.lu.control = [])
      ∧ (ringState.cm.call.state = .ringing ∧ ringState.au.ring = .ringing ∧ ringState.lu.joinState = .joined)
      ∧ ({ ringState with au.ring := .answered } : State).au.ring ≠ .ringing
      ∧ (dialed [6, 4] = some 64 ∧ 63 < 64 ∧ dialed [5] = some 5 ∧ joinedState.cl.station.toNat = 5
        ∧ dialed [6, 3] = some (63 : Addr).toNat)
      ∧ (let s := { keyed .call (waitState .dialing .caller) with ku.dial := [7] }
        s.cm.call.state = .dialing ∧ dialed s.ku.dial = some (7 : Addr).toNat ∧ s.cm.view.state ≠ .free
          ∧ s.pu.present = true ∧ s.cs.spaceCheck .print .mayUse Notice.lineEngaged.run = true)
      ∧ ((openState .caller).cm.call.state ≠ .idle ∧ (openState .caller).cm.call.state ≠ .dialing
        ∧ (openState .caller).cm.call.state ≠ .ringing) := by decide +kernel

theorem test_witness_clear_key :
    (keyed .clear (openState .caller)).ku.fifo = [.clear] ∧ (openState .caller).cm.call.state = .opened
      ∧ (waitState .calling .caller).cm.call.state = .calling ∧ ringState.au.ring = .ringing
      ∧ joinedState.cm.call.state = .idle ∧ (keyed .clear (waitState .dialing .caller)).cm.call.state = .dialing := by decide

/-- The CLEAR key with the CALL outside the slot and in it. -/
theorem test_clear_key_withdraws_the_call :
    let s (f : Option Framed) : State := controlOut (entry .call .ready) f (keyed .clear (waitState .calling .caller))
    (∃ t, exec .clearKey { s none with lu.slot := none, lu.receive := .hunting } = .next t ∧ t.lu.control = []
        ∧ t.cm.call.state = .idle)
      ∧ ∃ t, exec .clearKey (s none) = .next t ∧ t.lu.control = [{ entry .call .ready with withdrawn := true }]
        ∧ t.cm.call.state = .idle := ⟨⟨_, rfl, by decide, by decide⟩, _, rfl, by decide, by decide⟩

/-- A key at the head of the FIFO, read in a state that the record has left or not. -/
def readIn (r : CallState) (k : Key) (s : State) : State := { keyed k s with ku.headRead := r }

/-- A key read in RINGING that meets another state: the bell, and nothing else (R165). A key read in another state: the
CM's rule for the state it finds (R72, R92, R101). -/
theorem test_key_read_before_its_owner_acts :
    let rung (t : State) := t.mt.pulses = [⟨.keyboard, ms 100⟩] ∧ t.ku.fifo = []
    (∃ t, exec .callKey (readIn .ringing .call joinedState) = .next t ∧ t.cm.call.state = .idle ∧ rung t)
      ∧ (∃ t, exec .clearKey (readIn .ringing .clear joinedState) = .next t ∧ t.cm.call.state = .idle ∧ rung t)
      ∧ (∃ t, exec .clearKey (readIn .ringing .clear (openState .called)) = .next t ∧ t.cm.call.state = .opened ∧ rung t)
      ∧ (∃ t, exec .callKey (readIn .idle .call ringState) = .next t ∧ t.au.ring = .ringing ∧ rung t)
      ∧ (∃ t, exec .callKey (readIn .calling .call joinedState) = .next t ∧ t.cm.call.state = .dialing)
      ∧ ∃ t, exec .clearKey (readIn .calling .clear (waitState .awaiting .caller)) = .next t
        ∧ t.cm.call.state = .clearing :=
  ⟨⟨_, rfl, by decide, by decide⟩, ⟨_, rfl, by decide, by decide⟩, ⟨_, rfl, by decide, by decide⟩,
    ⟨_, rfl, by decide, by decide⟩, ⟨_, rfl, by decide⟩, _, rfl, by decide⟩

/-- The record is read when a press finds the FIFO empty, and again when the head leaves it (R101). -/
theorem test_head_is_read_when_taken :
    let s := enterFifo .clear (enterFifo .call { ringState with ku.fifo := [] })
    s.ku.fifo = [.call, .clear] ∧ s.ku.headRead = .ringing
      ∧ (enterFifo .who { s with cm.call.state := .opened }).ku.headRead = .ringing
      ∧ (dropHead { s with cm.call.state := .opened }).ku.headRead = .opened := by decide

theorem test_witness_key_read_before :
    let asks := readIn .opened .call joinedState
    (loaded asks = true ∧ asks.ku.fifo = [.call] ∧ asks.ku.headRead = .opened ∧ asks.cm.call.state = .idle)
      ∧ (let r := readIn .ringing .call joinedState
        r.ku.headRead = .ringing ∧ r.cm.call.state ≠ .ringing)
      ∧ (let r := readIn .dialing .call ringState
        r.ku.headRead = .dialing ∧ r.cm.call.state ≠ .dialing)
      ∧ (let r := keyed .clear { ringState with au.ring := .answered }
        r.ku.headRead = .ringing ∧ r.cm.call.state = .ringing ∧ r.au.ring ≠ .ringing)
      ∧ (let r := readIn .calling .clear (openState .caller)
        loaded r = true ∧ r.ku.fifo = [.clear] ∧ r.ku.headRead = .calling ∧ r.cm.call.state = .opened)
      ∧ (readIn .clearing .clear joinedState).ku.headRead = .clearing
      ∧ (waitState .awaiting .caller).cm.call.state = .awaiting
      ∧ (waitState .clearing .caller).cm.call.state = .clearing := by decide

theorem test_witness_who_break_and_poll :
    (keyed .who (openState .caller)).ku.fifo = [.who] ∧ (openState .caller).cm.call.state = .opened
      ∧ (openState .caller).lu.joinState = .joined ∧ isIndividual (openState .caller).cm.call = true
      ∧ isGroupCaller (openState .caller).cm.call = false
      ∧ (groupState.cm.call.state = .opened ∧ isGroupCaller groupState.cm.call = true
        ∧ isIndividual groupState.cm.call = false)
      ∧ joinedState.cm.call.state = .idle ∧ (waitState .awaiting .caller).cm.call.state ≠ .opened := by decide

theorem test_witness_hereis_key :
    let s := { keyed .hereis (openState .caller) with ku.mode := .line }
    let run := s.cl.config.answerback.map fun r => Cell.character r .keyboard
    s.ku.fifo = [.hereis] ∧ s.ku.mode = .line ∧ s.cm.call.state = .opened ∧ s.pu.present = true
      ∧ (((appendRun .send .mayUse run s).bind (appendRun .print .mayUse run)).isSome = true)
      ∧ (appendRun .send .mayUse run { s with pu.present := false }).isSome = true
      ∧ (keyed .hereis joinedState).cm.call.state ≠ .opened
      ∧ (appendRun .print .mayUse run (keyed .hereis joinedState)).isSome = true
      ∧ appendRun .send .mayUse run { s with cs.send.limit := 0 } = none
      ∧ ((appendRun .send .mayUse run { s with cs.print.limit := 0 }).bind (appendRun .print .mayUse run) = none
        ∧ (appendRun .send .mayUse run { s with cs.print.limit := 0 }).isSome = true)
      ∧ appendRun .print .mayUse run { keyed .hereis joinedState with cs.print.limit := 0 } = none
      ∧ ({ keyed .hereis joinedState with pu.present := false } : State).pu.present = false := by decide +kernel

theorem test_witness_read_start_and_stop :
    (let s := keyed .readStart joinedState;
      s.ku.fifo = [.readStart] ∧ s.tu.run = none ∧ s.tu.readerPresent = true ∧ s.tu.tapeIn = true
        ∧ s.ku.mode = .localMode ∧ s.pu.present = true ∧ s.tu.punchPresent = true)
      ∧ (let s := { keyed .readStop joinedState with tu.run := some ⟨.print, 0, 0, 0, .ltrs, none, .running⟩ }
        s.ku.fifo = [.readStop] ∧ s.tu.run = some ⟨.print, 0, 0, 0, .ltrs, none, .running⟩)
      ∧ ({ joinedState with tu.tapeIn := false } : State).tu.tapeIn = false
      ∧ (let s := { keyed .readStart joinedState with ku.mode := .line }
        s.ku.mode = .line ∧ s.cm.call.state ≠ .opened)
      ∧ ({ joinedState with pu.present := false } : State).ku.mode = .localMode := by decide

theorem test_witness_file_print :
    (let s := { keyed .filePrint joinedState with au.file := [record 0 true, record 1 false] };
      (s.au.file.map FileRecord.slot).Nodup ∧ s.ku.fifo = [.filePrint] ∧ s.au.cursor = none ∧ printerAvailable s = true
        ∧ s.au.file.find? (fun x => decide (x.state ≠ .opened) && !x.printed) = some (record 1 false)
        ∧ (record 1 false).chain.count ≠ 0)
      ∧ (∀ r ∈ joinedState.au.file, r.state = .opened ∨ r.printed = true) := by decide

theorem test_witness_header_retry :
    let c : Cursor := ⟨1, 0, .replay, true, false⟩
    let s := { joinedState with
      au.file := [record 0 true, record 1 false], au.cursor := some c, au.headerRetryDue := true, pu.source := .cursor }
    let run := (Notice.header (headerOf (record 1 false) c.again)).run
    s.au.headerRetryDue = true ∧ s.au.cursor = some c ∧ c.headerPending = true
      ∧ s.au.file.find? (fun x => x.slot = c.record) = some (record 1 false) ∧ (record 1 false).chain.count ≠ 0
      ∧ (appendRun .print .mayUse run { s with au.headerRetryDue := false }).isSome = true
      ∧ (appendRun .print .mayUse run { s with au.headerRetryDue := false, cs.print.limit := 0 }).isSome = false := by decide +kernel

theorem test_witness_file_clear :
    let s := { keyed .fileClear joinedState with au.file := [record 0 true, record 1 false] }
    (s.au.file.map FileRecord.slot).Nodup ∧ s.ku.fifo = [.fileClear]
      ∧ (∀ r ∈ joinedState.au.file, r.state = .opened ∨ r.printed = false) := by decide

/-- A FOLLOW is placed at an OPEN record; auto replay finds a closed one; neither is, while a cursor is present. -/
theorem test_witness_follow_and_auto_replay :
    let f : State := { markedState with au.attendance := .unattended }
    let a : State := { joinedState with au.attendance := .unattended, au.file := [record 0 true, record 1 false] }
    (f.au.cursor = none ∧ f.au.attendance = .unattended ∧ printerAvailable f = true
        ∧ f.au.file.find? (fun r =>
            decide (r.state = .opened) && !r.printStarted && f.cl.config.windows[r.window].route.print)
          = some { record 0 false with state := .opened, completedAt := none })
      ∧ replayable (followTest f) = none
      ∧ (replayable (followTest a) = some (record 1 false) ∧ (record 1 false).chain.count ≠ 0
        ∧ (a.au.file.map FileRecord.slot).Nodup ∧ record 1 false ∈ a.au.file ∧ (record 1 false).state ≠ .opened)
      ∧ followTest joinedState = joinedState := by decide +kernel

/-- The header of a replay passes, and is refused; a cursor at its record's end, before it, and at an OPEN record's. -/
theorem test_witness_replay_starts_and_cursor_ends :
    let r := record 0 false
    let b : State := { filedState with au.cursor := some ⟨0, 0, .replay, true, false⟩, au.headerRetryDue := false }
    let run := (Notice.header (headerOf r r.printStarted)).run
    let c (n : Nat) : Cursor := ⟨0, n, .replay, false, false⟩
    let s (n : Nat) : State := { filedState with au.cursor := some (c n) }
    (appendRun .print .mayUse run b).isSome = true ∧ appendRun .print .mayUse run { b with cs.free := [] } = none
      ∧ (s 1).au.cursor = some (c 1) ∧ (s 1).au.file.find? (fun x => x.slot = (c 1).record) = some r
      ∧ (r.state ≠ .opened ∧ (c 1).headerPending = false ∧ r.chain.count ≤ (c 1).offset)
      ∧ ¬ r.chain.count ≤ (c 0).offset
      ∧ (s 1).pu.present = true ∧ (s 1).cs.spaceCheck .print .mayUse (Notice.endMsg r.number).run = true := by
  decide +kernel

/-! ### Witnesses: attendance, ringing, restart -/

/-- The same with the attend switch at the first auxiliary terminal. -/
def switchState : State :=
  { joinedState with cl.config.aux := #v[.attendSwitch, .motorSense, .unused, .unused, .unused, .unused] }

theorem test_witness_attendance :
    ((keyed .attend switchState).ku.fifo = [.attend] ∧ switchAssigned switchState = true
        ∧ switchState.mt.switchAttended ≠ isHigh .high ∧ switchState.cm.call.state = .idle)
      ∧ (switchAssigned (openState .caller) = false ∧ (openState .caller).au.pending = none
        ∧ (openState .caller).cm.call.state ≠ .idle)
      ∧ (switchAssigned joinedState = false ∧ joinedState.au.pending = none)
      ∧ (let s := { openState .caller with au.attendTimer := some (minutes 1) }
        s.au.attendTimer = some (minutes 1) ∧ s.au.attendance = .attended)
      ∧ ({ joinedState with au.attendTimer := some (minutes 1) } : State).au.attendTimer = some (minutes 1)
      ∧ (let s := { openState .caller with au.pending := some (.unattended, .timeout) }
        s.au.pending = some (.unattended, .timeout) ∧ s.au.attendance = opposite .unattended)
      ∧ (let s := { switchState with cm.call.state := .opened }
        switchAssigned s = true ∧ s.mt.switchAttended ≠ isHigh .high ∧ s.cm.call.state ≠ .idle
          ∧ s.au.attendance = .attended ∧ ({ s with mt.switchAttended := true } : State).mt.switchAttended ≠ isHigh .low)
      ∧ ({ openState .caller with au.attendance := .unattended } : State).au.attendance = .unattended := by decide

/-- 13 free blocks leave room, 12 do not. -/
theorem test_witness_ring_timer :
    let few (n : Nat) : State := { ringState with cs.free := ringState.cs.free.take n }
    (ringState.au.ringTimer = some (sec 25) ∧ ringState.au.ring = .ringing ∧ ringState.cm.call.state = .ringing
        ∧ ringState.lu.joinState = .joined ∧ ringState.lu.restartClear = false)
      ∧ (ringState.cl.config.windows[0].route.file = true ∧ slotFree ringState = true
        ∧ 12 < (few 13).cs.free.length + reclaimable (few 13) ∧ ¬ 12 < (few 12).cs.free.length + reclaimable (few 12)) := by
  decide

theorem test_witness_restart :
    loaded joinedState = true ∧ joinedState.ku.scan[45]?.map KeyScan.level = some .up
      ∧ ((openState .caller).cm.call.state = .opened ∧ (openState .caller).lu.joinState = .joined
        ∧ (openState .caller).lu.condition = .clear)
      ∧ joinedState.pu.work = none
      ∧ (markedState.cm.call.state = .opened ∧ markedState.ku.scan[45]?.map KeyScan.level = some .up
        ∧ ∃ x ∈ markedState.au.file, markedState.cm.call.fileLink = some x.slot ∧ x.chain.count ≠ 0) := by decide

/-- What RESTART leaves of that call: the record CUT, an END after each START, no mark, the position DOWN. -/
theorem test_restart_leaves_an_open_call :
    ∃ t, exec (.restart ⟨⟨.high, .high, .high⟩, []⟩) markedState = .next t
      ∧ t.au.file.map FileRecord.state = [.cut] ∧ t.cs.queueCells .punch = [.boundary .start 7, .boundary .finish 7]
      ∧ [.boundary .start 7, .boundary .finish 7] <+: t.cs.queueCells .print
      ∧ t.cs.print.openMark = none ∧ t.cs.punch.openMark = none ∧ t.ku.scan[45]?.map KeyScan.level = some .down :=
  ⟨_, rfl, by decide +kernel, by decide +kernel, by decide +kernel, by decide +kernel, by decide +kernel,
    by decide +kernel⟩

/-- A telegram framed when RESTART is pressed, with 47 units of space read, and 48. -/
theorem test_witness_restart_with_a_telegram :
    let s := { atTurn joinedState with lu.spaceRun := 1 }
    loaded s = true ∧ s.ku.scan[45]?.map KeyScan.level = some .up ∧ s.lu.receive ≠ .hunting
      ∧ unbroken (List.replicate 46 false) s ∧ ¬ unbroken (List.replicate 47 false) s := by
  unfold unbroken; decide

/-- One framed past its Check: its Turn's two units of space, then a mark in its ACK slot; the 48th space in the Turn. -/
theorem test_witness_restart_in_an_ack_slot :
    let f : Framed := ⟨fromSeven .clear [0], [], false, .plain⟩
    let s : State := { joinedState with lu.receive := .framing false false (some f), lu.spaceRun := 45 }
    let units := [false, false, true]
    s.lu.receive = .framing false false (some f) ∧ unbroken (units.take 2) s ∧ f.taken = false
      ∧ true ∈ (units.drop 2).take 2 ∧ ¬ true ∈ ([false, false, false].drop 2).take 2
      ∧ ¬ unbroken (units.take 2) { s with lu.spaceRun := 46 } := by unfold unbroken; decide

/-! ### Witnesses: printer, punch, reader, motor -/

/-- A letter in the printer's case one column before the last, and an END. -/
theorem test_witness_printer_takes_a_cell :
    let s := { holding .print (.character (.letter 3) .keyboard) joinedState with
      pu.column := some 71, pu.shift := some .ltrs, pu.lastOrigin := some .keyboard }
    let b := holding .print (.boundary .finish 7) s
    loaded s = true ∧ s.pu.present = true ∧ s.pu.paper ≠ .out ∧ s.mt.motor = .running ∧ s.pu.op = none ∧ s.pu.work = none
      ∧ s.pu.source = .queue ∧ s.pu.column = some 71
      ∧ s.cs.headCell .print = some (.character (.letter 3) .keyboard)
      ∧ Resolved.caseNeeded (.letter 3) = s.pu.shift ∧ s.pu.shift ≠ none ∧ 71 < s.cl.config.width
      ∧ s.pu.lastOrigin = some (printOrigin .queue .keyboard)
      ∧ (removeHead .print b).cs.headCell .print = some (.boundary .finish 7) := by decide +kernel

/-- PRINT offers a cell at a line boundary and within a line; a FOLLOW cursor offers one; an LF joins a CR alone. -/
theorem test_witness_printer_chooses_and_joins :
    let lf := Cell.character .lf .keyboard
    let s := { holding .print lf joinedState with pu.column := some 40 }
    let c : Cursor := ⟨0, 0, .follow, false, false⟩
    let f := { filedState with au.cursor := some c, pu.column := some 1, pu.source := .cursor }
    let j := { s with pu.op := some .cr, pu.work := some ⟨.character .cr .keyboard, .queue, false, []⟩ }
    choose s = some (.queue, lf) ∧ opsFor s .queue lf = [.lf] ∧ s.pu.op = none ∧ s.pu.work = none
      ∧ (c.headerPending = false ∧ f.au.file.find? (fun x => x.slot = c.record) = some (record 0 false)
        ∧ choose f = some (.cursor, .character .bell .line))
      ∧ (j.pu.op = some .cr ∧ choose j = some (.queue, lf))
      ∧ opsFor s .queue (.boundary .finish 7) = [] ∧ choose joinedState = none
      ∧ ({ j with pu.op := some .strike } : State).pu.op ≠ none := by decide +kernel

/-- Work in hand with an operation to come, and with none; a column of 1, of the width, and UNKNOWN. -/
theorem test_witness_print_operations :
    let w (todo : List PrintOp) : PrintWork := ⟨.character (.letter 3) .line, .queue, false, todo⟩
    let s (c : Option Nat) (todo : List PrintOp) : State :=
      { joinedState with pu.op := some .crLf, pu.opLeft := ms 100, pu.column := c, pu.work := some (w todo) }
    (loaded (s (some 1) []) = true ∧ (s (some 1) []).pu.op = some .crLf ∧ (s (some 1) []).pu.work = some (w []))
      ∧ ((s none [.cr]).pu.work = some (w [.cr]) ∧ (s none [.cr]).pu.present = true ∧ (s none [.cr]).pu.paper ≠ .out
        ∧ (s none [.cr]).mt.motor = .running ∧ (w [.cr]).todo = .cr :: [])
      ∧ (s (some 72) [.strike]).cl.config.width = 72
      ∧ ({ s none [] with pu.work := none } : State).pu.work = none
      ∧ ({ s (some 1) [.shift .figs, .space, .lf, .bell, .crLf] with pu.paper := .out } : State).pu.paper = .out := by
  decide

/-- The first cell from an UNKNOWN column, a CR, an LF and a letter. -/
theorem test_witness_first_cell_from_an_unknown_column :
    ∀ r ∈ [Resolved.cr, .lf, .letter 3],
      let s := holding .print (.character r .keyboard) joinedState
      loaded s = true ∧ s.pu.present = true ∧ s.pu.paper ≠ .out ∧ s.mt.motor = .running ∧ s.pu.op = none
        ∧ s.pu.work = none ∧ s.pu.column = none ∧ choose s = some (.queue, .character r .keyboard) := by decide +kernel

theorem test_witness_heat_clock_bell_and_flash :
    ({ joinedState with pu.heatTimer := some (ms 100) } : State).pu.heatTimer = some (ms 100)
      ∧ ({ joinedState with au.minuteLeft := some 1 } : State).au.minuteLeft = some 1
      ∧ ({ joinedState with mt.pulses := [⟨.printer, 1⟩] } : State).mt.pulses = ⟨.printer, 1⟩ :: []
      ∧ ringState.mt.cadence = some ⟨true, sec 1⟩ ∧ ringState.mt.flash = some ⟨true, ms 500⟩
      ∧ loaded State.reset = false ∧ loaded joinedState = true ∧ auxInput .attendSwitch switchState.cl.config = some 0 := by decide

/-- Paper and tape that stay, that enter OUT and that leave it; a printer ABSENT; a cursor, with the cell in hand from it
dropped and kept; work in hand that goes on, and a letter whose codes are found again. -/
theorem test_witness_supplies :
    let s := { joinedState with pu.op := some .strike, tu.punchOp := some 3 }
    let out := { joinedState with pu.paper := .out, tu.tape := .out }
    let w (src : Source) (kept : Bool) : PrintWork := ⟨.character (.letter 3) .line, src, kept, [.strike]⟩
    (loaded s = true ∧ (s.pu.paper = .out ↔ Supply.low = .out) ∧ (s.tu.tape = .out ↔ Supply.low = .out))
      ∧ ({ s with pu.present := false } : State).pu.present = false
      ∧ (s.pu.present = true ∧ s.mt.motor ≠ .faulted ∧ s.pu.paper ≠ .out ∧ s.au.cursor = none)
      ∧ (let f := { filedState with au.cursor := some ⟨0, 0, .follow, false, false⟩, pu.work := some (w .cursor false) }
        f.pu.present = true ∧ f.mt.motor ≠ .faulted ∧ f.pu.paper ≠ .out
          ∧ f.au.cursor = some ⟨0, 0, .follow, false, false⟩)
      ∧ (out.pu.present = true ∧ out.mt.motor ≠ .faulted ∧ out.pu.paper = .out ∧ out.tu.tape = .out) := by decide

/-- New paper lets the work in hand go on with its next operation; new tape finds a letter's codes again. -/
theorem test_new_supplies_resume_the_work_in_hand :
    let s := { joinedState with
      pu.paper := .out
      pu.column := some 40
      pu.work := some ⟨.character (.letter 3) .line, .queue, false, [.strike]⟩
      tu.tape := .out
      tu.punchShift := some .ltrs
      tu.punchWork := some ⟨.character (.letter 3) .line, [3]⟩ }
    (∃ t, exec (.paperStateChange .high .low) s = .next t ∧ t.pu.op = some .strike ∧ t.pu.column = some 41
        ∧ t.pu.paper = .low)
      ∧ ∃ t, exec (.tapeStateChange .high .high) s = .next t ∧ t.tu.punchOp = some 31
        ∧ t.tu.punchWork = some ⟨.character (.letter 3) .line, [3]⟩ ∧ t.tu.punchShift = some .ltrs :=
  ⟨⟨_, rfl, by decide, by decide, by decide⟩, _, rfl, by decide, by decide, by decide⟩

theorem test_witness_punch :
    (let s := holding .punch (.character (.letter 3) .line) joinedState;
      loaded s = true ∧ s.tu.punchPresent = true ∧ s.tu.tape ≠ .out ∧ s.mt.motor = .running ∧ s.tu.punchOp = none
        ∧ s.tu.punchWork = none ∧ s.cs.headCell .punch = some (.character (.letter 3) .line)
        ∧ punchCodes s (.character (.letter 3) .line) ≠ [])
      ∧ (let s := { joinedState with tu.punchOp := some 0, tu.punchWork := some ⟨.boundary .finish 7, [0]⟩ }
        s.tu.punchOp = some 0 ∧ s.tu.punchWork = some ⟨.boundary .finish 7, 0 :: []⟩)
      ∧ (let s := { joinedState with tu.punchOp := some 0, tu.punchWork := some ⟨.boundary .finish 7, []⟩ }
        s.tu.punchOp = some 0 ∧ s.tu.punchWork = some ⟨.boundary .finish 7, []⟩) := by decide

/-- A run to PRINT, seven blanks short of eight, its count one short of 999. -/
theorem test_witness_reader :
    let r : ReaderRun := ⟨.print, 0, 998, 6, .ltrs, none, .running⟩
    let s := { joinedState with tu.run := some r }
    loaded s = true ∧ s.tu.run = some r ∧ r.held = none ∧ s.tu.cycle = none ∧ s.mt.motor = .running ∧ s.tu.tapeIn = true
      ∧ cellFits r.destination s = true ∧ cellFits r.destination { s with cs.print.limit := 0 } = false
      ∧ r.blanks < 7 ∧ r.limit = 0
      ∧ (let limited : ReaderRun := { r with limit := 3, count := 1 }
        limited.limit ≠ 0 ∧ min 999 (limited.count + 1) ≠ limited.limit)
      ∧ resolve (unshift s) r.shift 3 = (some (.letter 3), .ltrs)
      ∧ (appendRun .print .respect [.character (.letter 3) .reader] s).isSome = true
      ∧ ({ s with tu.cycle := some ⟨1, false⟩ } : State).tu.cycle = some ⟨1, false⟩
      ∧ ({ s with tu.run := some { r with state := .paused }, tu.resumeDue := true } : State).tu.resumeDue = true := by decide +kernel

/-- The punch shift in each case and UNKNOWN. -/
theorem test_witness_punch_codes :
    let s (k : Option Case) : State := { joinedState with tu.punchShift := k }
    (s (some .ltrs)).tu.punchShift = some .ltrs ∧ (s (some .figs)).tu.punchShift ≠ some .ltrs
      ∧ punchCodes (s none) (.character .bell .line) = [30, 26]
      ∧ punchCodes (s (some .figs)) (.character (.letter 3) .line) = [31, 3] := by decide

/-- The ends of a reader run: no tape, the eighth blank, the limit of 3; a cycle dropped; a character refused and held. -/
theorem test_witness_reader_ends :
    let r : ReaderRun := ⟨.print, 3, 2, 7, .ltrs, none, .running⟩
    let s := { joinedState with tu.run := some r }
    let c (dropped : Bool) : State := { s with tu.cycle := some ⟨1, dropped⟩ }
    let held : ReaderRun := { r with held := some (.letter 3), state := .paused }
    let p (n : Nat) : State := { s with tu.run := some { held with limit := n }, tu.resumeDue := true }
    let run := [Cell.character (.letter 3) .reader]
    let full (x : State) : State := { x with cs.print.limit := 0 }
    ({ s with tu.tapeIn := false } : State).tu.tapeIn = false ∧ 7 ≤ r.blanks ∧ r.count + 1 = r.limit ∧ r.count < 999
      ∧ (c true).tu.cycle = some ⟨1, true⟩ ∧ (c false).tu.cycle = some ⟨1, false⟩
      ∧ resolve (unshift s) r.shift 3 = (some (.letter 3), .ltrs)
      ∧ (appendRun .print .respect run (c false)).isSome = true ∧ appendRun .print .respect run (full (c false)) = none
      ∧ ((p 0).tu.run = some { held with limit := 0 } ∧ (p 0).tu.resumeDue = true ∧ held.count + 1 ≠ 0
        ∧ (appendRun .print .respect run (p 0)).isSome = true ∧ appendRun .print .respect run (full (p 0)) = none)
      ∧ (held.state = .paused ∧ held.held = some (.letter 3)) := by decide +kernel

/-- One block short of the limit and at it; six free blocks and five; a tail at position 30 and at 31. -/
theorem test_witness_room_of_one_cell :
    let s (t : Option Nat) (i b n : Nat) : State :=
      { joinedState with
        cs := { joinedState.cs with
          free := List.range n, print := { joinedState.cs.print with tail := t, tailIndex := i, blockCount := b, limit := 8 } } }
    cellFits .print (s none 0 7 6) = true ∧ cellFits .print (s none 0 8 6) = false ∧ cellFits .print (s none 0 7 5) = false
      ∧ cellFits .print (s (some 0) 30 8 0) = true ∧ cellFits .print (s (some 0) 31 8 6) = false := by decide +kernel

theorem test_witness_motor_starting :
    let s := { switchState with mt.motor := .starting, mt.runUp := some (ms 400), mt.senseWindow := some (sec 2), mt.hold := none }
    s.mt.runUp = some (ms 400) ∧ s.mt.motor = .starting ∧ senseAssigned s = true ∧ s.mt.senseRunning = false
      ∧ s.mt.senseWindow = some (sec 2) ∧ senseAssigned { upState with mt.motor := .starting } = false
      ∧ ({ s with mt.runUp := none } : State).mt.runUp = none := by decide

theorem test_witness_motor_running_and_faulted :
    (joinedState.mt.hold = some (sec 20) ∧ joinedState.mt.motor = .running ∧ demandHeld joinedState.mt = false
        ∧ demandHeld (reportDemands joinedState).mt = false)
      ∧ (let s := { switchState with mt.motor := .faulted, mt.hold := none, mt.faultWait := some (sec 10) }
        s.mt.faultWait = some (sec 10) ∧ s.mt.motor = .faulted ∧ loaded s = true ∧ demandHeld s.mt = false
          ∧ demandHeld { s.mt with punchDemand := true } = true) := by decide

/-- A RUNNING motor with a sense, and with a cursor whose character is in hand. -/
def replayingState : State :=
  { filedState with
    cl.config := switchState.cl.config
    mt.motor := .running
    mt.senseRunning := true
    au.cursor := some ⟨0, 0, .replay, false, false⟩
    pu.source := .cursor
    pu.work := some ⟨.character (.letter 3) .line, .cursor, false, [.strike]⟩ }

theorem test_witness_motor_faults_with_a_cursor :
    loaded replayingState = true ∧ senseAssigned replayingState = true ∧ replayingState.mt.motor = .running
      ∧ replayingState.pu.present = true ∧ replayingState.au.cursor.isSome = true
      ∧ replayingState.cs.spaceCheck .print .mayUse Notice.motorFault.run = true := by decide +kernel

/-- R155, R176: the cursor is abandoned and its character dropped, and MOTOR FAULT is printed. -/
theorem test_motor_fault_abandons_the_cursor :
    ∃ t, exec (.motorSenseChange .low) replayingState = .next t ∧ t.mt.motor = .faulted ∧ t.au.cursor = none
      ∧ t.pu.source = .queue ∧ t.pu.work = none ∧ t.au.file = replayingState.au.file
      ∧ t.cs.queueCells .print = replayingState.cs.queueCells .print ++ Notice.motorFault.run :=
  ⟨_, rfl, by decide +kernel⟩

end Sys2Proof.Machine
end

section
/-!
The line code (R5, R8, R9): one character generated resolves to itself from the same case, so a sequence does.
-/

namespace Sys2Proof.Machine

/-! ### Resolution, code by code (R5) -/

/-- A code that is no function, no shift and not NULL: the case decides between its letter and its figure. -/
theorem resolve_of_two_case (u : Bool) (k : Case) {c : Code} (low : 3 ≤ c.toNat) (high : c.toNat ≤ 29)
    (space : c.toNat ≠ 16) : resolve u k c = (some (charIn k c), k) := by
  have other (d : Code) (h : c.toNat ≠ d.toNat) : c ≠ d := fun e => h (e ▸ rfl)
  have null := other 0 (by simp; omega)
  have cr := other 1 (by simp; omega)
  have lf := other 2 (by simp; omega)
  have figs := other 30 (by simp; omega)
  have ltrs := other 31 (by simp; omega)
  rw [resolve, if_neg null, if_neg cr, if_neg lf, if_neg (other 16 space), if_neg figs, if_neg ltrs]

/-- A shift code gives no character, and leaves the case it names. -/
@[simp] theorem resolve_shiftCode (u : Bool) (k need : Case) : resolve u k (Case.shiftCode need) = (none, need) := by
  cases need <;> rfl

/-- The code of a character of the code, read in the case it needs, is that character and leaves the case. -/
theorem resolve_code_of_case (u : Bool) {k : Case} {r : Resolved} (code : Resolved.isOfCode r)
    (need : Resolved.caseNeeded r = some k) : resolve u k (Resolved.code r) = (some r, k) := by
  cases r with
  | letter c =>
    obtain ⟨low, high, space⟩ := code
    obtain rfl : Case.ltrs = k := by simpa [Resolved.caseNeeded] using need
    exact resolve_of_two_case u .ltrs low high space
  | figure c =>
    obtain ⟨low, high, space, bell⟩ := code
    obtain rfl : Case.figs = k := by simpa [Resolved.caseNeeded] using need
    have notBell : c ≠ 26 := fun e => bell (e ▸ rfl)
    rw [Resolved.code, resolve_of_two_case u .figs low high space, charIn, if_neg notBell]
  | bell =>
    obtain rfl : Case.figs = k := by simpa [Resolved.caseNeeded] using need
    rfl
  | space => cases need
  | cr => cases need
  | lf => cases need

/-! ### Generation, character by character (R8) -/

/-- A character whose case the generator stands in costs its own code. -/
theorem generate_of_case (u : Bool) {k : Case} {r : Resolved} (need : Resolved.caseNeeded r = some k) :
    generate u (some k) r = ([Resolved.code r], some k) := by
  simp [generate, need]

/-- A character of another case than the generator's, or of any while it is UNKNOWN, costs the shift code too. -/
theorem generate_of_other_case (u : Bool) {k : Option Case} {need : Case} {r : Resolved}
    (needs : Resolved.caseNeeded r = some need) (other : k ≠ some need) :
    generate u k r = ([Case.shiftCode need, Resolved.code r], some need) := by
  simp [generate, needs, other]

/-- A function costs its own code (R8). -/
theorem generate_of_function (u : Bool) (k : Option Case) {r : Resolved} (function : Resolved.caseNeeded r = none) :
    generate u k r = ([Resolved.code r], if r = .space ∧ u then some .ltrs else k) := by
  simp [generate, function]

/-- One or two codes for each character (R8, R9). -/
theorem generate_length (u : Bool) (k : Option Case) (r : Resolved) :
    1 ≤ (generate u k r).1.length ∧ (generate u k r).1.length ≤ 2 := by
  cases need : Resolved.caseNeeded r with
  | none => simp [generate_of_function u k need]
  | some c =>
    by_cases same : k = some c
    · subst same; simp [generate_of_case u need]
    · simp [generate_of_other_case u need same]

/-! ### The two together -/

theorem resolveAll_cons (u : Bool) (k : Case) (c : Code) (cs : List Code) :
    resolveAll u k (c :: cs) = (resolve u k c).1.toList ++ resolveAll u (resolve u k c).2 cs := by
  rw [resolveAll]
  cases resolve u k c with
  | mk r k' => cases r <;> rfl

/-- A resolver in the generator's case resolves the codes of one character to it, and stands in the generator's case
again. -/
theorem resolveAll_generate (u : Bool) (k : Case) {r : Resolved} (code : Resolved.isOfCode r) :
    ∃ k', (generate u (some k) r).2 = some k'
      ∧ ∀ cs, resolveAll u k ((generate u (some k) r).1 ++ cs) = r :: resolveAll u k' cs := by
  cases need : Resolved.caseNeeded r with
  | none =>
    rw [generate_of_function u _ need]
    cases r with
    | space => exact ⟨afterSpace u k, by cases u <;> rfl, fun cs => by simp [resolveAll_cons, resolve, Resolved.code]⟩
    | cr => exact ⟨k, by simp, fun cs => by simp [resolveAll_cons, resolve, Resolved.code]⟩
    | lf => exact ⟨k, by simp, fun cs => by simp [resolveAll_cons, resolve, Resolved.code]⟩
    | letter c => cases need
    | figure c => cases need
    | bell => cases need
  | some c =>
    refine ⟨c, ?_⟩
    have own := resolve_code_of_case u code need
    by_cases same : k = c
    · subst same
      simp [generate_of_case u need, resolveAll_cons, own]
    · simp [generate_of_other_case u need (mt Option.some.inj same), resolveAll_cons, own]

/-- Resolution takes back generation from the same case, a sequence through. -/
theorem resolveAll_generateAll (u : Bool) (k : Case) (rs : List Resolved) (code : ∀ r ∈ rs, Resolved.isOfCode r) :
    resolveAll u k (generateAll u (some k) rs) = rs := by
  induction rs generalizing k with
  | nil => rfl
  | cons r rs ih =>
    obtain ⟨k', after, first⟩ := resolveAll_generate u k (code r List.mem_cons_self)
    rw [generateAll, first, after, ih k' fun x mem => code x (List.mem_cons_of_mem r mem)]

/-- n characters cost n to 2n codes, from any shift state (R9). -/
theorem generateAll_length (u : Bool) (k : Option Case) (rs : List Resolved) :
    rs.length ≤ (generateAll u k rs).length ∧ (generateAll u k rs).length ≤ 2 * rs.length := by
  induction rs generalizing k with
  | nil => exact ⟨Nat.le_refl _, Nat.le_refl _⟩
  | cons r rs ih =>
    obtain ⟨one, two⟩ := generate_length u k r
    obtain ⟨low, high⟩ := ih (generate u k r).2
    rw [generateAll, List.length_append, List.length_cons]
    omega

/-- Settles O17, by induction over the characters with the shift state general. -/
theorem lineCodeRoundTrip : Obligations.LineCodeRoundTrip := by
  intro u rs code
  exact ⟨resolveAll_generateAll u .ltrs rs code, generateAll_length u (some .ltrs) rs⟩

end Sys2Proof.Machine
end

section
/-!
The punch (R136 to R141): what it takes, its next operation, and the codes and the shift of each character.
-/

namespace Sys2Proof.Machine

/-! ### An event that can occur -/

theorem actIf_of {can : Bool} (f : State → State) (s : State) (h : can = true) : actIf can f s = .next (settle (f s)) := by
  rw [actIf, if_pos h]; rfl

theorem expire_of {timer : Option Tick} {left : Tick} {can : Bool} (f : State → State) (s : State)
    (running : timer = some left) (h : can = true) : expire timer can f s = .next (settle (f (elapse left s))) := by
  rw [running]; exact actIf_of (fun x => f (elapse left x)) s h

/-! ### Its operations -/

theorem punchOperable_of {s : State} (present : s.tu.punchPresent = true) (tape : s.tu.tape ≠ .out)
    (motor : s.mt.motor = .running) : punchOperable s = true := by
  simp [punchOperable, present, tape, motor]

/-- An operable punch that does no operation starts the next code of its work in hand (R139). -/
theorem nextPunchOp_starts {s : State} {w : PunchWork} {code : Code} {rest : List Code} (able : punchOperable s = true)
    (idle : s.tu.punchOp = none) (work : s.tu.punchWork = some w) (todo : w.todo = code :: rest) :
    nextPunchOp s = startPunchOp code { s with tu.punchWork := some { w with todo := rest } } := by
  simp [nextPunchOp, idle, work, todo, able]

/-- Work with no code left is done. -/
theorem nextPunchOp_ends {s : State} {w : PunchWork} (idle : s.tu.punchOp = none) (work : s.tu.punchWork = some w)
    (todo : w.todo = []) : nextPunchOp s = { s with tu.punchWork := none } := by
  simp [nextPunchOp, idle, work, todo]

/-- The ready punch takes the head of PUNCH with its codes, and the first starts (R136, R139). -/
theorem exec_punchTakeCell {s : State} {c : Cell} {code : Code} {rest : List Code} (load : loaded s = true)
    (able : punchOperable s = true) (idle : s.tu.punchOp = none) (free : s.tu.punchWork = none)
    (head : s.cs.headCell .punch = some c) (codes : punchCodes s c = code :: rest) :
    exec .punchTakeCell s =
      .next (settle (removeHead .punch (startPunchOp code { s with tu.punchWork := some ⟨c, rest⟩ }))) := by
  have takes : punchTakes s = some c := by simp [punchTakes, able, idle, free, head]
  have first := nextPunchOp_starts (s := { s with tu.punchWork := some ⟨c, punchCodes s c⟩ }) able idle rfl codes
  show execPunchTakeCell s = _
  rw [execPunchTakeCell, takes]
  dsimp only
  rw [actIf_of _ s load, takePunchCell, first]

/-- The operation in progress completes when its time has passed (R136). -/
theorem exec_punchOpComplete {s : State} {c : Code} (load : loaded s = true) (op : s.tu.punchOp = some c) :
    exec .punchOpComplete s = .next (settle (finishPunchOp (elapse s.tu.punchLeft s))) :=
  expire_of finishPunchOp s (by rw [punchOpLeft, op]; rfl) load

/-! ### Its codes and its shift (R8, R139) -/

theorem punchCodes_character (s : State) (r : Resolved) (o : Origin) :
    punchCodes s (.character r o) = (generate (unshift s) s.tu.punchShift r).1 := rfl

/-- A character with a case is punched with the shift code before it, unless the punch stands in its case. -/
theorem punchCodes_of_case (s : State) (o : Origin) {r : Resolved} {need : Case}
    (needs : Resolved.caseNeeded r = some need) :
    punchCodes s (.character r o) =
      if s.tu.punchShift = some need then [Resolved.code r] else [Case.shiftCode need, Resolved.code r] := by
  rw [punchCodes_character]
  split_ifs with same
  · rw [same, generate_of_case _ needs]
  · rw [generate_of_other_case _ needs same]

theorem punchCodes_of_function (s : State) (o : Origin) {r : Resolved} (function : Resolved.caseNeeded r = none) :
    punchCodes s (.character r o) = [Resolved.code r] := by
  rw [punchCodes_character, generate_of_function _ _ function]

/-- The punch shift by the codes that move it, SPACE among them where unshift-on-space is on (R139). -/
theorem punchShiftAfter_eq (u : Bool) (c : Code) (k : Option Case) :
    punchShiftAfter u c k =
      if c = 31 ∨ c = 16 ∧ u = true then some .ltrs else if c = 30 then some .figs else k := by
  unfold punchShiftAfter
  by_cases figs : c = 30
  · subst figs; rfl
  · by_cases ltrs : c = 31
    · simp only [ltrs, true_or, if_true]
    · simp only [figs, ltrs, false_or, if_false]

/-- Settles O58, from the step of the punch and the two shapes of generation. -/
theorem punchTakesAndPunches : Obligations.PunchTakesAndPunches := by
  constructor
  · intro s load present tape motor
    have able := punchOperable_of present tape motor
    have ableAfter : punchOperable (elapse s.tu.punchLeft s) = true :=
      punchOperable_of (by simpa using present) (by simpa using tape) (by simpa using motor)
    refine ⟨fun n => ⟨rfl, rfl⟩, ?taken, ?next, ?done⟩
    case taken =>
      intro c code rest idle free head codes
      exact exec_punchTakeCell load able idle free head codes
    case next =>
      intro c w code rest op work todo
      have next := nextPunchOp_starts
        (s := { elapse s.tu.punchLeft s with
          tu := { (elapse s.tu.punchLeft s).tu with punchOp := none, punchLeft := 0 } })
        ableAfter rfl ((elapse_punchWork _ s).trans work) todo
      rw [exec_punchOpComplete load op, finishPunchOp, next, startPunchOp]
      simp [unshift]
    case done =>
      intro c w op work todo
      have done := nextPunchOp_ends
        (s := { elapse s.tu.punchLeft s with
          tu := { (elapse s.tu.punchLeft s).tu with punchOp := none, punchLeft := 0 } })
        rfl ((elapse_punchWork _ s).trans work) todo
      rw [exec_punchOpComplete load op, finishPunchOp, done]
  · intro s o c k u
    exact ⟨punchCodes_of_case s o rfl, punchCodes_of_case s o rfl, punchCodes_of_case s o rfl,
      punchCodes_of_function s o rfl, punchCodes_of_function s o rfl, punchCodes_of_function s o rfl,
      punchShiftAfter_eq u c k⟩

end Sys2Proof.Machine
end

section
/-!
The reader run (R146 to R150): what a cycle brings by its code, an append that does not see the run, the run's ends, and
the room of one cell.
-/

namespace Sys2Proof.Machine

/-! ### Nothing of an append reads the reader run -/

/-- The same machine with another reader run. -/
def withRun (run : Option ReaderRun) (s : State) : State := { s with tu.run := run }

theorem withRun_self {s : State} {run : Option ReaderRun} (h : s.tu.run = run) : withRun run s = s := by
  rw [withRun, ← h]

theorem requestOrDrop_withRun (r : Request) (run : Option ReaderRun) (s : State) :
    requestOrDrop r (withRun run s) = withRun run (requestOrDrop r s) := by
  cases enters : entersRequests s.lu with
  | true => rw [requestOrDrop_entered enters, requestOrDrop_entered (s := withRun run s) enters]; rfl
  | false => rw [requestOrDrop_refused enters, requestOrDrop_refused (s := withRun run s) enters]

theorem flowTest_withRun (run : Option ReaderRun) (s : State) :
    flowTest (withRun run s) = withRun run (flowTest s) := by
  have held : setHeld (withRun run s) = withRun run (setHeld s) := by
    have asked := requestOrDrop_withRun (request s .hold (talkingParty s.cm.call) [] .cm) run s
    exact congrArg (fun x : State => { x with cm.call.heldByMe := true, cm.call.heldSince := some (sec 120) }) asked
  have cleared : clearHeld (withRun run s) = withRun run (clearHeld s) := by
    have asked := requestOrDrop_withRun (request s .go (talkingParty s.cm.call) [] .cm) run s
    exact congrArg (fun x : State => { x with cm.call.heldByMe := false, cm.call.heldSince := none }) asked
  have applies : flowApplies (withRun run s) = flowApplies s := rfl
  have hold : holdLevel (withRun run s) = holdLevel s := rfl
  have go : goLevel (withRun run s) = goLevel s := rfl
  have mine : (withRun run s).cm.call.heldByMe = s.cm.call.heldByMe := rfl
  unfold flowTest
  rw [held, cleared, applies, hold, go, mine]
  split_ifs <;> rfl

theorem signal_taken_withRun (taken : Bool) (run : Option ReaderRun) (s : State) :
    signal false taken (withRun run s) = withRun run (signal false taken s) := by
  cases taken with
  | true => exact flowTest_withRun run s
  | false => rfl

theorem startSendTimer_withRun (n : QueueName) (cells : List Cell) (run : Option ReaderRun) (s : State) :
    startSendTimer n cells (withRun run s) = withRun run (startSendTimer n cells s) := by
  have unsent : (withRun run s).cs.unsentCount = s.cs.unsentCount := rfl
  unfold startSendTimer
  rw [unsent]
  split_ifs <;> rfl

/-- An append leaves the run whatever it is, and does the same for any. -/
theorem appendRun_withRun (n : QueueName) (c : ReserveClass) (cells : List Cell) (run : Option ReaderRun) (s : State) :
    appendRun n c cells (withRun run s) = (appendRun n c cells s).map (withRun run) := by
  have placed : placeRun n cells (withRun run s) = withRun run (placeRun n cells s) := by
    unfold placeRun
    rw [startSendTimer_withRun]; rfl
  have takes : takesBlock n cells (withRun run s) = takesBlock n cells s := rfl
  have check : (withRun run s).cs.spaceCheck n c cells = s.cs.spaceCheck n c cells := rfl
  unfold appendRun
  rw [check, placed, takes, signal_taken_withRun]
  split_ifs <;> rfl

/-! ### A character of the run (R147, R148) -/

/-- A character refused is held, and the run PAUSED. -/
theorem readerAppend_refused {r : ReaderRun} {ch : Resolved} {s : State} (run : Option ReaderRun)
    (refused : appendRun r.destination .respect (readerCell ch) s = none) :
    readerAppend r ch (withRun run s) = withRun (some { r with held := some ch, state := .paused }) s := by
  simp only [readerAppend, appendRun_withRun, refused, Option.map_none]; rfl

/-- A character appended below the limit is counted. -/
theorem readerAppend_counted {r : ReaderRun} {ch : Resolved} {s u : State} (run : Option ReaderRun)
    (appended : appendRun r.destination .respect (readerCell ch) s = some u)
    (below : r.limit = 0 ∨ min 999 (r.count + 1) ≠ r.limit) :
    readerAppend r ch (withRun run s) = withRun (some r.counted) u := by
  have goesOn : ¬(r.limit ≠ 0 ∧ r.counted.count = r.limit) := by
    rintro ⟨limited, reached⟩
    exact below.elim limited (fun other => other reached)
  simp only [readerAppend, appendRun_withRun, appended, Option.map_some, goesOn, if_false]; rfl

/-- A character appended that reaches the limit is the run's last. -/
theorem readerAppend_last {r : ReaderRun} {ch : Resolved} {s : State} (run : Option ReaderRun)
    (appended : appendRun r.destination .respect (readerCell ch) s ≠ none) (last : r.count + 1 = r.limit)
    (small : r.count < 999) : readerAppend r ch (withRun run s) = readerLast r ch (withRun run s) := by
  obtain ⟨u, appended⟩ := Option.ne_none_iff_exists'.mp appended
  have counted : r.counted.count = r.limit := by
    show min 999 (r.count + 1) = r.limit
    omega
  have limited : r.limit ≠ 0 := by omega
  simp only [readerAppend, appendRun_withRun, appended, Option.map_some, limited, counted, ne_eq, not_false_eq_true,
    and_self, if_true]

/-! ### The run's ends (R149, R150) -/

/-- The machine once a run to a destination has ended: a cycle's code will be dropped, and SEND's link is cleared. -/
def runEnded (destination : QueueName) (s : State) : State :=
  { s with
    tu := { s.tu with
      run := none, resumeDue := false, cycle := s.tu.cycle.map fun c => { c with dropped := true } }
    cm.call.readerLink := if destination = .send then false else s.cm.call.readerLink }

theorem endRun_of {s : State} {r : ReaderRun} (run : s.tu.run = some r) : endRun s = runEnded r.destination s := by
  unfold endRun
  rw [run]; rfl

/-- A notice within a larger act, with the one event of that act: it stands in PRINT where the printer is present and the
run passes, and the flow levels are tested where the act took a block (R27, R134). -/
theorem signal_placeNotice (taken : Bool) (n : Notice) (s : State) :
    signal false (taken || (placeNotice n s).2) (placeNotice n s).1 =
      let told := s.pu.present = true ∧ s.cs.spaceCheck .print .mayUse n.run = true
      let t : State := { s with cs := if told then s.cs.pushRun .print n.run else s.cs }
      if taken = true ∨ told ∧ s.cs.print.blocksNeeded n.run ≠ 0 then flowTest t else t := by
  have event (b : Bool) (x : State) : signal false b x = if b = true then flowTest x else x := rfl
  have takes : takesBlock .print n.run s = (s.cs.print.blocksNeeded n.run != 0) := rfl
  by_cases told : s.pu.present = true ∧ s.cs.spaceCheck .print .mayUse n.run = true
  · have placed : placeNotice n s = ({ s with cs := s.cs.pushRun .print n.run }, takesBlock .print n.run s) := by
      rw [placeNotice, if_pos (by simpa using told), placeRun_of_not_send (by decide)]
    simp only [event, placed, takes, told, and_self, if_true, true_and, Bool.or_eq_true, bne_iff_ne]
  · have placed : placeNotice n s = (s, false) := by rw [placeNotice, if_neg (by simpa using told)]
    simp only [event, placed, told, if_false, false_and, or_false, Bool.or_false]

/-- A run ended, after a run of cells has reached its destination. -/
theorem runEnded_placed (destination : QueueName) (cells : List Cell) (run : Option ReaderRun) (s : State) :
    runEnded destination (withRun run (placeRun destination cells s)) =
      { startSendTimer destination cells (runEnded destination s) with cs := s.cs.pushRun destination cells } := by
  have unsent : (runEnded destination s).cs.unsentCount = s.cs.unsentCount := rfl
  unfold placeRun startSendTimer
  rw [unsent]
  split_ifs <;> rfl

/-- The last character of a run (R27, R147, R150): it stands in its queue, the run has ended, RUN DONE stands in PRINT
where it passes, and the flow levels are tested once if either took a block. -/
theorem readerLast_eq {r : ReaderRun} {ch : Resolved} {run : Option ReaderRun} (s : State) (small : r.count < 999) :
    readerLast r ch (withRun run s) =
      let sent := s.cs.pushRun r.destination (readerCell ch)
      let done := (Notice.runDone (r.count + 1)).run
      let told := s.pu.present = true ∧ sent.spaceCheck .print .mayUse done = true
      let t : State :=
        { startSendTimer r.destination (readerCell ch) (runEnded r.destination s) with
          cs := if told then sent.pushRun .print done else sent }
      if (s.cs.queue r.destination).blocksNeeded (readerCell ch) ≠ 0 ∨ told ∧ sent.print.blocksNeeded done ≠ 0 then
        flowTest t
      else t := by
  have count : r.counted.count = r.count + 1 := by
    show min 999 (r.count + 1) = r.count + 1
    omega
  have placed : placeRun r.destination (readerCell ch) (withRun run s)
      = withRun run (placeRun r.destination (readerCell ch) s) := by
    unfold placeRun
    rw [startSendTimer_withRun]; rfl
  have ended : endRun { placeRun r.destination (readerCell ch) (withRun run s) with tu.run := some r.counted }
      = { startSendTimer r.destination (readerCell ch) (runEnded r.destination s) with
          cs := s.cs.pushRun r.destination (readerCell ch) } := by
    rw [endRun_of (r := r.counted) rfl, placed]
    exact runEnded_placed r.destination (readerCell ch) (some r.counted) s
  have pu : (startSendTimer r.destination (readerCell ch) (runEnded r.destination s)).pu = s.pu :=
    (rest_of_storeCore (storeCore_startSendTimer _ _ _)).2.1
  have takes : takesBlock r.destination (readerCell ch) (withRun run s) = true
      ↔ (s.cs.queue r.destination).blocksNeeded (readerCell ch) ≠ 0 := bne_iff_ne
  unfold readerLast
  dsimp only
  rw [ended, count, signal_placeNotice]
  simp only [pu, takes]

/-! ### A cycle's code (R147) -/

theorem exec_readerCycleComplete {s : State} {left : Tick} {dropped : Bool} (row : Code) (load : loaded s = true)
    (cycle : s.tu.cycle = some ⟨left, dropped⟩) :
    exec (.readerCycleComplete row) s = .next (settle (completeCycle row (elapse left s))) :=
  expire_of (completeCycle row) s (by rw [cycleLeft, cycle]; rfl) load

/-- A cycle stays its run's, or dropped, while its time passes. -/
theorem elapse_cycle {d : Tick} {s : State} {c : ReaderCycle} (low : s.cl.resetLow = false) (cycle : s.tu.cycle = some c) :
    (elapse d s).tu.cycle = some (c.elapse d) := by
  unfold elapse
  simp [low, TapeUnit.elapse, cycle]

theorem resetLow_of_loaded {s : State} (load : loaded s = true) : s.cl.resetLow = false := by
  simp only [loaded, Bool.and_eq_true, Bool.not_eq_true'] at load
  exact load.1

/-- A completed cycle brings its code to the run (R147). -/
theorem exec_cycle_of_run {s : State} {left : Tick} {r : ReaderRun} (row : Code) (load : loaded s = true)
    (cycle : s.tu.cycle = some ⟨left, false⟩) (run : s.tu.run = some r) :
    exec (.readerCycleComplete row) s = .next (settle (readerCode r row { elapse left s with tu.cycle := none })) := by
  rw [exec_readerCycleComplete row load cycle, completeCycle, elapse_cycle (resetLow_of_loaded load) cycle, elapse_run, run]
  rfl

/-- A cycle that its run's end found in progress is dropped (R150). -/
theorem exec_cycle_dropped {s : State} {left : Tick} (row : Code) (load : loaded s = true)
    (cycle : s.tu.cycle = some ⟨left, true⟩) :
    exec (.readerCycleComplete row) s = .next (settle { elapse left s with tu.cycle := none }) := by
  rw [exec_readerCycleComplete row load cycle, completeCycle, elapse_cycle (resetLow_of_loaded load) cycle]
  cases (elapse left s).tu.run <;> rfl

/-- The eighth NULL in succession ends the run with TAPE END (R147, R149). -/
theorem readerCode_eighth_null {r : ReaderRun} (s : State) (many : 7 ≤ r.blanks) :
    readerCode r 0 s = notice .tapeEnd (runEnded r.destination s) := by
  have eight : 8 ≤ r.blanks + 1 := by omega
  simp only [readerCode, if_true, eight]
  rfl

/-- A code that gives no character moves the reader shift and the count of NULLs, and nothing else. -/
theorem readerCode_of_no_character {r : ReaderRun} {row : Code} {k : Case} {blanks : Nat} (s : State)
    (nothing : resolve (unshift s) r.shift row = (none, k)) (count : (if row = 0 then r.blanks + 1 else 0) = blanks)
    (few : blanks < 8) : readerCode r row s = withRun (some { r with shift := k, blanks := blanks }) s := by
  have goesOn : ¬ 8 ≤ blanks := by omega
  simp only [readerCode, nothing, count, goesOn, if_false]
  rfl

/-- The run once a code has given a character: the shift as the resolver leaves it, the NULLs in succession ended. -/
def ReaderRun.resolved (k : Case) (r : ReaderRun) : ReaderRun := { r with shift := k, blanks := 0 }

/-- A code with a character is not NULL, so it ends the NULLs in succession. -/
theorem readerCode_of_character {r : ReaderRun} {row : Code} {k : Case} {ch : Resolved} (s : State)
    (char : resolve (unshift s) r.shift row = (some ch, k)) :
    readerCode r row s =
      readerAppend (r.resolved k) ch (withRun (some (r.resolved k)) s) := by
  have notNull : row ≠ 0 := by
    rintro rfl
    cases char
  simp only [readerCode, char, notNull, if_false]
  rfl

/-! ### The next step of a run, and its going on (R146, R148) -/

theorem exec_readerCycleStart {s : State} {r : ReaderRun} (load : loaded s = true) (run : s.tu.run = some r)
    (running : r.state = .running) (free : r.held = none) (idle : s.tu.cycle = none) (motor : s.mt.motor = .running) :
    exec .readerCycleStart s = .next (settle (readerStep r s)) := by
  have steps : steppingRun s = some r := by simp [steppingRun, run, running, free, idle, motor]
  show execReaderCycleStart s = _
  rw [execReaderCycleStart, steps]
  exact actIf_of (readerStep r) s load

theorem readerStep_no_tape {s : State} {r : ReaderRun} (run : s.tu.run = some r) (out : s.tu.tapeIn = false) :
    readerStep r s = notice .tapeEnd (runEnded r.destination s) := by
  simp only [readerStep, out, Bool.not_false, if_true, endRunWith, endRun_of run]

theorem readerStep_of_tape {s : State} (r : ReaderRun) (tape : s.tu.tapeIn = true) :
    readerStep r s =
      if cellFits r.destination s = true then { s with tu.cycle := some ⟨ms 100, false⟩ }
      else withRun (some { r with state := .paused }) s := by
  simp [readerStep, tape, withRun]

theorem exec_readerResume {s : State} {r : ReaderRun} (load : loaded s = true) (run : s.tu.run = some r)
    (paused : r.state = .paused) (due : s.tu.resumeDue = true) :
    exec .readerResume s = .next (settle (readerGoOn r { s with tu.resumeDue := false })) := by
  have resumes : resumingRun s = some r := by simp [resumingRun, run, paused, due]
  show execReaderResume s = _
  rw [execReaderResume, resumes]
  exact actIf_of (fun x => readerGoOn r { x with tu.resumeDue := false }) s load

theorem readerGoOn_of_free {r : ReaderRun} (s : State) (free : r.held = none) :
    readerGoOn r s = if cellFits r.destination s = true then withRun (some { r with state := .running }) s else s := by
  simp only [readerGoOn, free]
  rfl

/-- A held character is appended first (R148). -/
theorem readerGoOn_of_held {r : ReaderRun} {ch : Resolved} {s : State} (run : s.tu.run = some r)
    (held : r.held = some ch) : readerGoOn r s = readerAppend r ch (withRun (some r) s) := by
  rw [readerGoOn, held, withRun_self run]

/-! ### The room of one cell (R18, R19, R146) -/

/-- The blocks that one cell needs: none where the tail block has a place left. -/
theorem blocksNeeded_one (q : Queue) (c : Cell) :
    q.blocksNeeded [c] = if q.tail ≠ none ∧ q.tailIndex < 31 then 0 else 1 := by
  unfold Queue.blocksNeeded Queue.room blocksFor
  cases q.tail with
  | none => simp
  | some t =>
    simp only [List.length_singleton, ne_eq, reduceCtorEq, not_false_eq_true, true_and]
    split_ifs <;> omega

theorem reservePasses_respect (free needed : Nat) :
    reservePasses .respect free needed = true ↔ needed = 0 ∨ needed + 5 ≤ free := by
  show (needed == 0 || decide (needed + 5 ≤ free)) = true ↔ _
  simp

theorem cellFits_iff (s : State) (n : QueueName) :
    cellFits n s = true ↔
      (s.cs.queue n).blockCount + (s.cs.queue n).blocksNeeded (readerCell .space) ≤ (s.cs.queue n).limit
        ∧ ((s.cs.queue n).blocksNeeded (readerCell .space) = 0
          ∨ (s.cs.queue n).blocksNeeded (readerCell .space) + 5 ≤ s.cs.free.length) := by
  simp only [cellFits, Store.spaceCheck, Queue.limitPasses, Bool.and_eq_true, decide_eq_true_eq, reservePasses_respect,
    Store.freeCount]

/-- Settles O59: each command is its act, each act the case of the run that it meets. -/
theorem readerRunSteps : Obligations.ReaderRunSteps := by
  refine ⟨?steps, ?room, ?ends⟩
  case steps =>
    intro s r load run
    refine ⟨?start, ?noCharacter, ?character, ?resume⟩
    case start =>
      intro running free idle motor tape
      rw [exec_readerCycleStart load run running free idle motor, readerStep_of_tape r tape]
      exact ⟨fun fits => by rw [if_pos fits], fun full => by rw [if_neg (by simp [full])]; rfl⟩
    case noCharacter =>
      intro left cycle few
      have step {row : Code} {k : Case} {blanks : Nat} (nothing : resolve (unshift s) r.shift row = (none, k))
          (count : (if row = 0 then r.blanks + 1 else 0) = blanks) (below : blanks < 8) :
          exec (.readerCycleComplete row) s = .next (settle
            { elapse left s with tu.cycle := none, tu.run := some { r with shift := k, blanks := blanks } }) := by
        rw [exec_cycle_of_run row load cycle run, readerCode_of_no_character _ _ count below]
        · rfl
        · simpa [unshift] using nothing
      exact ⟨step rfl rfl (by omega), step rfl rfl (by omega), step rfl rfl (by omega)⟩
    case character =>
      intro left code ch k u cycle char below appended
      rw [exec_cycle_of_run code load cycle run, readerCode_of_character _ (by simpa [unshift] using char),
        readerAppend_counted (r := r.resolved k) _ appended below]
      rfl
    case resume =>
      intro paused due free
      have room : cellFits r.destination { s with tu.resumeDue := false } = cellFits r.destination s := rfl
      rw [exec_readerResume load run paused due, readerGoOn_of_free _ free, room]
      exact ⟨fun fits => by rw [if_pos fits]; rfl, fun full => by rw [if_neg (by simp [full])]⟩
  case room =>
    intro s n
    have needed := blocksNeeded_one (s.cs.queue n) (.character .space .reader)
    dsimp only
    rw [← needed]
    exact cellFits_iff s n
  case ends =>
    intro s r load run
    refine ⟨?noTape, ?eighthNull, ?dropped, ?lastOfCycle, ?held⟩
    case noTape =>
      intro running free idle motor out
      rw [exec_readerCycleStart load run running free idle motor, readerStep_no_tape run out]
      rfl
    case eighthNull =>
      intro left cycle many
      rw [exec_cycle_of_run 0 load cycle run, readerCode_eighth_null _ many]
      rfl
    case dropped =>
      intro left code cycle
      exact exec_cycle_dropped code load cycle
    case lastOfCycle =>
      intro left code ch k cycle char
      rw [exec_cycle_of_run code load cycle run, readerCode_of_character _ (by simpa [unshift] using char)]
      constructor
      · intro refused
        rw [readerAppend_refused (r := r.resolved k) _ refused]
        rfl
      · intro appended last small
        rw [readerAppend_last (r := r.resolved k) _ appended last small, readerLast_eq (r := r.resolved k) _ small]
        simp only [elapse_present]
        rfl
    case held =>
      intro ch paused due held
      rw [exec_readerResume load run paused due, readerGoOn_of_held (s := { s with tu.resumeDue := false }) run held]
      refine ⟨?_, ?_, ?_⟩
      · intro refused
        have kept : ({ r with held := some ch, state := .paused } : ReaderRun) = r := by rw [← held, ← paused]
        rw [readerAppend_refused _ refused, kept, withRun_self (s := { s with tu.resumeDue := false }) run]
      · intro u appended below
        rw [readerAppend_counted _ appended below]
        rfl
      · intro appended last small
        rw [readerAppend_last _ appended last small, readerLast_eq _ small]
        rfl

end Sys2Proof.Machine
end

section
/-!
The configuration is read once (R10, R15, R179, R180, R185). `configCore` is the loader's own state and the queues' limits:
an act keeps it, one lemma to each operation, and the passing of time moves nothing of it but the load's timer.
-/

namespace Sys2Proof.Machine

/-! ### The limits through the store's acts (R15) -/

/-- The limits of the three queues. -/
def Store.limits (st : Store) : Limits := ⟨st.send.limit, st.print.limit, st.punch.limit⟩

theorem Store.limits_of_queues {a b : Store} (h : ∀ n, (a.queue n).limit = (b.queue n).limit) : a.limits = b.limits := by
  have send : a.send.limit = b.send.limit := h .send
  have print : a.print.limit = b.print.limit := h .print
  have punch : a.punch.limit = b.punch.limit := h .punch
  simp only [Store.limits, send, print, punch]

/-- An act on one queue that leaves its limit. -/
theorem Store.limits_of_one {a b : Store} (n : QueueName) (own : (a.queue n).limit = (b.queue n).limit)
    (others : ∀ m, m ≠ n → a.queue m = b.queue m) : a.limits = b.limits := by
  refine Store.limits_of_queues fun m => ?_
  by_cases same : m = n
  · rw [same, own]
  · rw [others m same]

@[simp] theorem Store.limits_setQueue {st : Store} {n : QueueName} {q : Queue} (h : q.limit = (st.queue n).limit) :
    (st.setQueue n q).limits = st.limits :=
  Store.limits_of_one n (by rw [Store.queue_setQueue, h]) fun _ => Store.queue_setQueue_ne

@[simp] theorem Store.limits_pushRun (st : Store) (n : QueueName) (run : List Cell) :
    (st.pushRun n run).limits = st.limits :=
  Store.limits_of_one n (Store.pushRun_fixed st n run).1 fun _ => Store.queue_pushRun_ne run

@[simp] theorem Store.limits_popCell (st : Store) (n : QueueName) : (st.popCell n).limits = st.limits :=
  Store.limits_of_one n (Store.popCell_fixed st n).1 fun _ => Store.queue_popCell_ne

@[simp] theorem Store.limits_popCells (st : Store) (n : QueueName) (k : Nat) : (Store.popCells n k st).limits = st.limits :=
  Store.limits_of_one n (Store.popCells_fixed st n k).1 fun _ => Store.queue_popCells_ne k

@[simp] theorem Store.limits_flushQueue (st : Store) (n : QueueName) : (st.flushQueue n).limits = st.limits :=
  Store.limits_of_one n (by rw [Store.queue_flushQueue]; rfl) fun _ => Store.queue_flushQueue_ne

@[simp] theorem Store.limits_pushChainRun (st : Store) (ch : Chain) (run : List Cell) :
    (st.pushChainRun ch run).1.limits = st.limits :=
  Store.limits_of_queues fun n => by rw [Store.queue_pushChainRun]

/-! ### What is kept -/

/-- The loader's own state, with the station number and the configuration, and the queues' limits. -/
def configCore (s : State) : ConfigLoader × Limits := (s.cl, s.cs.limits)

/-- A change of a state that writes neither the loader nor a limit. -/
@[simp] theorem configCore_update {lu : LineUnit} {cm : CallManager} {st : Store} {ku : KeyboardUnit} {pu : PrintUnit}
    {tu : TapeUnit} {mt : MotorTerminal} {au : AnsweringUnit} {pending : List Instr} {s : State}
    (h : st.limits = s.cs.limits) : configCore ⟨lu, cm, st, ku, pu, tu, mt, au, s.cl, pending⟩ = configCore s := by
  simp only [configCore, h]

/-- The call's operations that are known to keep `callCore`, where they keep the limits too. -/
theorem configCore_of_callCore {a b : State} (h : callCore a = callCore b) (limits : a.cs.limits = b.cs.limits) :
    configCore a = configCore b := by
  simp only [configCore, limits, (cl_of_callCore h).1]

theorem limits_of_queueCore {a b : State} (h : queueCore a = queueCore b) : a.cs.limits = b.cs.limits := by
  simp only [queueCore, Prod.mk.injEq] at h
  obtain ⟨send, punch, print, _⟩ := h
  simp only [Store.limits, send, punch, print]

/-- The file's operations keep `callCore` and `queueCore`. -/
theorem configCore_of_frames {a b : State} (h : callCore a = callCore b) (queues : queueCore a = queueCore b) :
    configCore a = configCore b := configCore_of_callCore h (limits_of_queueCore queues)

/-! ### The shared operations -/

@[simp] theorem configCore_requestOrDrop (r : Request) (s : State) : configCore (requestOrDrop r s) = configCore s :=
  configCore_of_frames (callCore_requestOrDrop r s) (queueCore_requestOrDrop r s)
@[simp] theorem configCore_queueHold (s : State) : configCore (queueHold s) = configCore s := configCore_requestOrDrop _ _
@[simp] theorem configCore_setHeld (s : State) : configCore (setHeld s) = configCore s := configCore_queueHold s
@[simp] theorem configCore_flowTest (s : State) : configCore (flowTest s) = configCore s :=
  configCore_of_frames (callCore_flowTest s) (queueCore_flowTest s)
@[simp] theorem configCore_signal (r t : Bool) (s : State) : configCore (signal r t s) = configCore s :=
  configCore_of_frames (callCore_signal r t s) (queueCore_signal r t s)
@[simp] theorem configCore_startSendTimer (n : QueueName) (run : List Cell) (s : State) :
    configCore (startSendTimer n run s) = configCore s :=
  configCore_of_callCore (callCore_startSendTimer n run s) (by rw [cs_startSendTimer])
@[simp] theorem configCore_notice (n : Notice) (s : State) : configCore (notice n s) = configCore s :=
  configCore_of_frames (callCore_notice n s) (queueCore_notice n s)
@[simp] theorem configCore_noticeIf (n : Option Notice) (s : State) : configCore (noticeIf n s) = configCore s :=
  configCore_of_frames (callCore_noticeIf n s) (queueCore_noticeIf n s)
@[simp] theorem configCore_placeNotice (n : Notice) (s : State) : configCore (placeNotice n s).1 = configCore s :=
  configCore_of_frames (callCore_placeNotice n s) (queueCore_placeNotice n s)
@[simp] theorem configCore_refuseKey (s : State) : configCore (refuseKey s) = configCore s :=
  configCore_update rfl

@[simp] theorem configCore_placeRun (n : QueueName) (run : List Cell) (s : State) :
    configCore (placeRun n run s) = configCore s :=
  (configCore_update (s := startSendTimer n run s) (by rw [cs_startSendTimer, Store.limits_pushRun])).trans
    (configCore_startSendTimer n run s)

theorem configCore_appendRun {n : QueueName} {c : ReserveClass} {run : List Cell} {s t : State}
    (h : appendRun n c run s = some t) : configCore t = configCore s :=
  configCore_of_callCore (callCore_appendRun h) (by rw [cs_appendRun h, Store.limits_pushRun])

@[simp] theorem configCore_appendRun_getD (n : QueueName) (c : ReserveClass) (run : List Cell) (s d : State)
    (h : configCore d = configCore s) : configCore ((appendRun n c run s).getD d) = configCore s := by
  cases appended : appendRun n c run s with
  | none => exact h
  | some t => exact configCore_appendRun appended

@[simp] theorem configCore_removeHead (n : QueueName) (s : State) : configCore (removeHead n s) = configCore s := by
  simp [removeHead]

@[simp] theorem configCore_flushSend (s : State) : configCore (flushSend s) = configCore s := by
  simp [flushSend]

@[simp] theorem configCore_ackSend (s : State) : configCore (ackSend s) = configCore s := by
  have limits : ({ Store.popCells .send s.cs.send.inFlight s.cs with send.inFlight := 0 } : Store).limits = s.cs.limits :=
    Store.limits_popCells s.cs .send _
  simp [ackSend, limits]

@[simp] theorem configCore_appendEnd (n : QueueName) (s : State) : configCore (appendEnd n s) = configCore s := by
  unfold appendEnd
  split
  · rfl
  · simp

/-! ### The file's and the call's operations -/

@[simp] theorem configCore_dropRecord (r : FileRecord) (s : State) : configCore (dropRecord r s) = configCore s :=
  configCore_of_frames (callCore_dropRecord r s) (queueCore_dropRecord r s)
@[simp] theorem configCore_updateRecord (i : Fin 24) (f : FileRecord → FileRecord) (s : State) :
    configCore (updateRecord i f s) = configCore s := rfl
@[simp] theorem configCore_fileChange (w : Bool) (s : State) : configCore (fileChange w s) = configCore s :=
  configCore_of_frames (callCore_fileChange w s) (queueCore_fileChange w s)
@[simp] theorem configCore_abandonCursor (s : State) : configCore (abandonCursor s) = configCore s :=
  configCore_of_frames (callCore_abandonCursor s) (queueCore_abandonCursor s)
@[simp] theorem configCore_tryHeader (s : State) : configCore (tryHeader s) = configCore s :=
  configCore_of_frames (callCore_tryHeader s) (queueCore_tryHeader s)
@[simp] theorem configCore_startReplay (r : FileRecord) (s : State) : configCore (startReplay r s) = configCore s :=
  configCore_of_frames (callCore_startReplay r s) (queueCore_startReplay r s)
@[simp] theorem configCore_followTest (s : State) : configCore (followTest s) = configCore s :=
  configCore_of_frames (callCore_followTest s) (queueCore_followTest s)
@[simp] theorem configCore_auTests (s : State) : configCore (auTests s) = configCore s :=
  configCore_of_frames (callCore_auTests s) (queueCore_auTests s)
@[simp] theorem configCore_finishCursor (s : State) : configCore (finishCursor s) = configCore s :=
  configCore_of_frames (callCore_finishCursor s) (queueCore_finishCursor s)
@[simp] theorem configCore_attendRequest (a : Attendance) (c : AttendCause) (s : State) :
    configCore (attendRequest a c s) = configCore s :=
  configCore_of_frames (callCore_attendRequest a c s) (queueCore_attendRequest a c s)
@[simp] theorem configCore_tellIdle (s : State) : configCore (tellIdle s) = configCore s :=
  configCore_of_frames (callCore_tellIdle s) (queueCore_tellIdle s)
@[simp] theorem configCore_pressReport (s : State) : configCore (pressReport s) = configCore s := rfl
@[simp] theorem configCore_endRun (s : State) : configCore (endRun s) = configCore s :=
  configCore_of_callCore (callCore_endRun s) (by rw [(endRun_keeps s).1])
@[simp] theorem configCore_endRunWith (n : Notice) (s : State) : configCore (endRunWith n s) = configCore s := by
  rw [endRunWith, configCore_notice, configCore_endRun]
@[simp] theorem configCore_stopSendRun (s : State) : configCore (stopSendRun s) = configCore s :=
  configCore_of_callCore (callCore_stopSendRun s) (by rw [(stopSendRun_keeps s).1])
@[simp] theorem configCore_setCallState (c : CallState) (s : State) : configCore (setCallState c s) = configCore s := rfl
@[simp] theorem configCore_freeView (s : State) : configCore (freeView s) = configCore s := rfl
@[simp] theorem configCore_ringView (s : State) : configCore (ringView s) = configCore s := rfl
@[simp] theorem configCore_engageView (s : State) : configCore (engageView s) = configCore s := rfl
@[simp] theorem configCore_withdrawOpen (s : State) : configCore (withdrawOpen s) = configCore s := rfl
@[simp] theorem configCore_clearHolds (s : State) : configCore (clearHolds s) = configCore s := rfl
@[simp] theorem configCore_openFields (s : State) : configCore (openFields s) = configCore s := rfl
@[simp] theorem configCore_withdrawPlace (s : State) : configCore (withdrawPlace s) = configCore s := rfl
@[simp] theorem configCore_setCalled (r : Role) (n : Station) (d : Addr) (w : Fin 8) (s : State) :
    configCore (setCalled r n d w s) = configCore s := rfl
@[simp] theorem configCore_setCaller (d : Addr) (s : State) : configCore (setCaller d s) = configCore s := rfl

@[simp] theorem configCore_discardEdit (s : State) : configCore (discardEdit s) = configCore s := by
  unfold discardEdit
  split_ifs <;> simp

@[simp] theorem configCore_closeFile (f : Bool) (s : State) : configCore (closeFile f s) = configCore s := by
  unfold closeFile
  split <;> rfl

@[simp] theorem configCore_stepSequence (s : State) : configCore (stepSequence s) = configCore s := by
  unfold stepSequence
  split_ifs <;> rfl

@[simp] theorem configCore_leaveOpen (c : CallState) (f : Bool) (s : State) :
    configCore (leaveOpen c f s) = configCore s := by
  simp [leaveOpen]

@[simp] theorem configCore_toIdle (f : Bool) (n : Option Notice) (s : State) : configCore (toIdle f n s) = configCore s := by
  unfold toIdle
  dsimp only
  split_ifs <;> simp

@[simp] theorem configCore_exhausted (r : Request) (s : State) : configCore (exhausted r s) = configCore s := by
  unfold exhausted
  split
  · cases r.kind <;> dsimp only <;> (try split_ifs) <;> simp
  · rfl

@[simp] theorem configCore_sendRequest (r : Request) (s : State) : configCore (sendRequest r s) = configCore s := by
  unfold sendRequest luRequest
  split_ifs <;> simp

@[simp] theorem configCore_openToClearing (f : Bool) (n : Option Notice) (c : Cause) (s : State) :
    configCore (openToClearing f n c s) = configCore s := by
  simp [openToClearing]

@[simp] theorem configCore_textExhausted (s : State) : configCore (textExhausted s) = configCore s := by
  unfold textExhausted
  split_ifs <;> simp

@[simp] theorem configCore_requestWho (d : Addr) (s : State) : configCore (requestWho d s) = configCore s :=
  configCore_sendRequest _ _

@[simp] theorem configCore_enterOpen (s : State) : configCore (enterOpen s) = configCore s := by
  unfold enterOpen
  dsimp only
  split_ifs <;> simp

@[simp] theorem configCore_answerAccept (s : State) : configCore (answerAccept s) = configCore s :=
  configCore_sendRequest _ _

@[simp] theorem configCore_answerRefuse (r : Reason) (s : State) : configCore (answerRefuse r s) = configCore s := by
  simp [answerRefuse]

@[simp] theorem configCore_stopSending (s : State) : configCore (stopSending s) = configCore s := by
  simp [stopSending]

/-! ### The delivery of a TEXT (R21, R22, R66, R169) -/

@[simp] theorem configCore_openRecord (s : State) : configCore (openRecord s) = configCore s := by
  unfold openRecord
  dsimp only
  split
  all_goals
    split_ifs
    · rfl
    · split <;> simp

@[simp] theorem configCore_reclaimFor (n k : Nat) (s : State) : configCore (reclaimFor n k s) = configCore s := by
  induction k generalizing s with
  | zero => rfl
  | succ k ih =>
    unfold reclaimFor
    split_ifs
    · rfl
    · split
      · rw [ih, configCore_dropRecord]
      · rfl

@[simp] theorem configCore_appendFile (run : List Cell) (k : Nat) (s : State) :
    configCore (appendFile run k s) = configCore s := by
  unfold appendFile
  split
  · rfl
  · split
    · rfl
    · simp

theorem markStart_limit (q : Queue) (party : Station) (run : List Cell) : (markStart q party run).limit = q.limit := by
  unfold markStart
  split <;> rfl

@[simp] theorem Store.limits_marked (st : Store) (party : Station) (print punch : List Cell) :
    Store.limits { st with print := markStart st.print party print, punch := markStart st.punch party punch }
      = st.limits := by
  simp only [Store.limits, markStart_limit]

@[simp] theorem configCore_deliver (e : Route) (r : TextRuns) (p : Station) (k : Nat) (s : State) :
    configCore (deliver e r p k s) = configCore s := by
  unfold deliver
  dsimp only
  split_ifs <;> simp

@[simp] theorem configCore_acceptText (t : Telegram) (run : List Resolved) (s : State) :
    configCore (acceptText t run s).2 = configCore s := by
  unfold acceptText
  split_ifs
  · split
    · rfl
    · dsimp only
      split_ifs <;> simp
  · rfl

end Sys2Proof.Machine
end

section
/-!
The commands keep the configuration: one lemma to each command's own operation, in the model's order, and the theorem over
the commands. A command is an act, after the time that an expiry's timer had left.
-/

namespace Sys2Proof.Machine

/-! ### The mechanisms (R121 to R150, R153 to R155) -/

@[simp] theorem configCore_formText (s : State) : configCore (formText s) = configCore s := by
  have limits : (formText s).cs.limits = s.cs.limits := by
    simp only [Store.limits, formText_sendLimit, formText_print, formText_punch]
  simp only [configCore, formText_cl, limits]

@[simp] theorem configCore_settle (s : State) : configCore (settle s) = configCore s := by
  have limits : (settle s).cs.limits = s.cs.limits := by
    simp only [Store.limits, settle_sendLimit, settle_print, settle_punch]
  simp only [configCore, settle_cl, limits]

@[simp] theorem configCore_startPrintOp (op : PrintOp) (s : State) : configCore (startPrintOp op s) = configCore s := by
  cases op <;> rfl

@[simp] theorem configCore_nextPrintOp (s : State) : configCore (nextPrintOp s) = configCore s := by
  unfold nextPrintOp
  split
  · split
    · split_ifs <;> simp
    · rfl
  · rfl

@[simp] theorem configCore_finishPrintOp (op : PrintOp) (s : State) : configCore (finishPrintOp op s) = configCore s :=
  configCore_nextPrintOp _

@[simp] theorem configCore_beginWork (src : Source) (c : Cell) (s : State) :
    configCore (beginWork src c s) = configCore s := by
  unfold beginWork
  dsimp only
  split_ifs
  · rfl
  · split <;> simp

@[simp] theorem configCore_takePrintCell (src : Source) (c : Cell) (s : State) :
    configCore (takePrintCell src c s) = configCore s := by
  cases src <;> simp [takePrintCell, advanceCursor]

@[simp] theorem configCore_printerChange (was : Bool) (s : State) : configCore (printerChange was s) = configCore s := by
  unfold printerChange
  dsimp only
  split_ifs <;> simp

@[simp] theorem configCore_punchChange (was : Bool) (s : State) : configCore (punchChange was s) = configCore s := by
  unfold punchChange
  split_ifs <;> simp

@[simp] theorem configCore_nextPunchOp (s : State) : configCore (nextPunchOp s) = configCore s := by
  unfold nextPunchOp
  split
  · split
    · split_ifs <;> rfl
    · rfl
  · rfl

@[simp] theorem configCore_takePunchCell (c : Cell) (s : State) : configCore (takePunchCell c s) = configCore s := by
  simp [takePunchCell]

@[simp] theorem configCore_startRun (n : QueueName) (limit : Nat) (s : State) :
    configCore (startRun n limit s) = configCore s := rfl

@[simp] theorem configCore_readerLast (r : ReaderRun) (ch : Resolved) (s : State) :
    configCore (readerLast r ch s) = configCore s := by
  simp [readerLast]

@[simp] theorem configCore_readerAppend (r : ReaderRun) (ch : Resolved) (s : State) :
    configCore (readerAppend r ch s) = configCore s := by
  unfold readerAppend
  split
  · rename_i t appended
    split_ifs
    · simp
    · simp [configCore_appendRun appended]
  · rfl

@[simp] theorem configCore_readerCode (r : ReaderRun) (row : Code) (s : State) :
    configCore (readerCode r row s) = configCore s := by
  unfold readerCode
  dsimp only
  generalize (if row = 0 then r.blanks + 1 else 0) = blanks
  split
  · simp
  · split <;> simp

@[simp] theorem configCore_readerStep (r : ReaderRun) (s : State) : configCore (readerStep r s) = configCore s := by
  unfold readerStep
  split_ifs <;> simp

@[simp] theorem configCore_readerGoOn (r : ReaderRun) (s : State) : configCore (readerGoOn r s) = configCore s := by
  unfold readerGoOn
  split
  · simp
  · split_ifs <;> rfl

@[simp] theorem configCore_completeCycle (row : Code) (s : State) : configCore (completeCycle row s) = configCore s := by
  unfold completeCycle
  dsimp only
  split
  · split_ifs <;> simp
  · rfl

@[simp] theorem configCore_startMotor (s : State) : configCore (startMotor s) = configCore s := rfl

@[simp] theorem configCore_enterRunning (s : State) : configCore (enterRunning s) = configCore s := by
  simp [enterRunning]

@[simp] theorem configCore_enterFaulted (s : State) : configCore (enterFaulted s) = configCore s := by
  simp [enterFaulted]

@[simp] theorem configCore_leaveFaulted (s : State) : configCore (leaveFaulted s) = configCore s := by
  unfold leaveFaulted
  dsimp only
  split_ifs <;> simp

@[simp] theorem configCore_runUpEnds (s : State) : configCore (runUpEnds s) = configCore s := by
  unfold runUpEnds
  dsimp only
  split_ifs <;> simp

@[simp] theorem configCore_senseTaken (level : Level) (s : State) : configCore (senseTaken level s) = configCore s := by
  unfold senseTaken
  dsimp only
  split
  · split_ifs <;> simp
  · simp
  · rfl

@[simp] theorem configCore_setPaper (p : Supply) (s : State) : configCore (setPaper p s) = configCore s := by
  simp [setPaper]

@[simp] theorem configCore_completePrintOp (s : State) : configCore (completePrintOp s) = configCore s := by
  unfold completePrintOp
  split
  · simp
  · rfl

@[simp] theorem configCore_newTape (s : State) : configCore (newTape s) = configCore s := rfl

@[simp] theorem configCore_setTape (t : Supply) (s : State) : configCore (setTape t s) = configCore s := by
  unfold setTape
  dsimp only
  split_ifs <;> simp

@[simp] theorem configCore_ringAnswered (s : State) : configCore (ringAnswered s) = configCore s := rfl

@[simp] theorem configCore_setAutoAnswered (b : Bool) (s : State) : configCore (setAutoAnswered b s) = configCore s := rfl

@[simp] theorem configCore_answerByTimer (s : State) : configCore (answerByTimer s) = configCore s := by
  unfold answerByTimer
  dsimp only
  split_ifs
  · split <;> simp
  · simp

/-! ### The common line (R32 to R54) -/

@[simp] theorem configCore_enterProbe (s : State) : configCore (enterProbe s) = configCore s := rfl

@[simp] theorem configCore_reportExhausted (rs : List Request) (s : State) :
    configCore (reportExhausted rs s) = configCore s := by
  unfold reportExhausted
  induction rs generalizing s with
  | nil => rfl
  | cons r rs ih => rw [List.foldl_cons, ih, configCore_exhausted]

@[simp] theorem configCore_reportText (p : Option TextPlace) (s : State) : configCore (reportText p s) = configCore s := by
  unfold reportText
  split
  · split_ifs <;> simp
  · rfl

@[simp] theorem configCore_enterListenOnly (s : State) : configCore (enterListenOnly s) = configCore s := by
  simp [enterListenOnly]

theorem configCore_turnDecision (k : Kind) (t : Telegram) (s : State) :
    configCore (turnDecision k t s).2.2 = configCore s := by
  unfold turnDecision
  split_ifs
  · rfl
  · simp
  · rfl
  · split
    · rfl
    · split <;> simp

@[simp] theorem configCore_turnHeard (k : Kind) (t : Telegram) (s : State) :
    configCore (turnHeard k t s) = configCore s :=
  configCore_turnDecision k t s

@[simp] theorem configCore_turnOwn (k : Kind) (t : Telegram) (w : Bool) (s : State) :
    configCore (turnOwn k t w s) = configCore s := rfl

@[simp] theorem configCore_loseArbitration (x : Slot) (s : State) : configCore (loseArbitration x s) = configCore s := rfl

@[simp] theorem configCore_listenAfterAttempt (s : State) : configCore (listenAfterAttempt s) = configCore s := by
  unfold listenAfterAttempt
  split <;> rfl

@[simp] theorem configCore_endRestartClear (x : SlotSource) (s : State) :
    configCore (endRestartClear x s) = configCore s := by
  unfold endRestartClear
  split_ifs <;> simp

@[simp] theorem configCore_entryUnanswered (k : Kind) (s : State) : configCore (entryUnanswered k s) = configCore s := by
  unfold entryUnanswered
  split
  · rfl
  · split
    · rfl
    · split
      · rfl
      · split <;> simp

@[simp] theorem configCore_textUnanswered (s : State) : configCore (textUnanswered s) = configCore s := by
  unfold textUnanswered
  split
  · rfl
  · split_ifs <;> simp

@[simp] theorem configCore_probeUnanswered (s : State) : configCore (probeUnanswered s) = configCore s := by
  unfold probeUnanswered
  split_ifs <;> rfl

@[simp] theorem configCore_entryTaken (k : Kind) (s : State) : configCore (entryTaken k s) = configCore s := by
  unfold entryTaken
  split
  · rfl
  · dsimp only
    split_ifs <;> simp

@[simp] theorem configCore_textTaken (s : State) : configCore (textTaken s) = configCore s := by
  unfold textTaken
  split
  · rfl
  · split_ifs <;> simp

@[simp] theorem configCore_collisionUnanswered (x : SlotSource) (s : State) :
    configCore (collisionUnanswered x s) = configCore s := by
  cases x <;> simp [collisionUnanswered]

@[simp] theorem configCore_collide (x : Slot) (s : State) : configCore (collide x s) = configCore s := by
  unfold collide
  dsimp only
  split_ifs <;> simp

@[simp] theorem configCore_attemptOutcome (x : SlotSource) (ack : Bool) (s : State) :
    configCore (attemptOutcome x ack s) = configCore s := by
  cases x <;> cases ack <;> simp [attemptOutcome]

@[simp] theorem configCore_endAttempt (x : Slot) (ack handedOn : Bool) (s : State) :
    configCore (endAttempt x ack handedOn s) = configCore s := by
  simp [endAttempt]

@[simp] theorem configCore_breakRestartClear (was : LineUnit) (s : State) :
    configCore (breakRestartClear was s) = configCore s := by
  unfold breakRestartClear
  split_ifs <;> rfl

@[simp] theorem configCore_lineBroken (s : State) : configCore (lineBroken s) = configCore s := by
  simp [lineBroken]

@[simp] theorem configCore_countUnits (units : List Bool) (s : State) :
    configCore (countUnits units s) = configCore s := rfl

@[simp] theorem configCore_discardTelegram (s : State) : configCore (discardTelegram s) = configCore s := rfl

/-! ### The hand-on (R67 to R92) -/

@[simp] theorem configCore_sendLooseClear (d : Addr) (s : State) : configCore (sendLooseClear d s) = configCore s :=
  configCore_requestOrDrop _ _

@[simp] theorem configCore_ownCall (h : Handed) (s : State) : configCore (ownCall h s) = configCore s := by
  unfold ownCall
  split_ifs <;> simp

@[simp] theorem configCore_overtaken (s : State) : configCore (overtaken s) = configCore s := by
  simp [overtaken]

@[simp] theorem configCore_undoDialing (s : State) : configCore (undoDialing s) = configCore s := by
  simp [undoDialing]

@[simp] theorem configCore_beginRinging (s : State) : configCore (beginRinging s) = configCore s := rfl

@[simp] theorem configCore_enterRinging (t : Telegram) (w : Fin 8) (s : State) :
    configCore (enterRinging t w s) = configCore s := rfl

@[simp] theorem configCore_refuseCall (t : Telegram) (r : Reason) (undone : Bool) (s : State) :
    configCore (refuseCall t r undone s) = configCore s := by
  unfold refuseCall
  dsimp only
  split_ifs <;> simp

@[simp] theorem configCore_applyOutcome (o : AnswerOutcome) (w : Fin 8) (t : Telegram) (undone : Bool) (s : State) :
    configCore (applyOutcome o w t undone s) = configCore s := by
  cases o <;> simp [applyOutcome]

@[simp] theorem configCore_takenCall (o : AnswerOutcome) (w : Fin 8) (atTurn : CallState) (t : Telegram) (s : State) :
    configCore (takenCall o w atTurn t s) = configCore s := by
  unfold takenCall
  split_ifs <;> simp

@[simp] theorem configCore_heardCall (tookView : Bool) (h : Handed) (s : State) :
    configCore (heardCall tookView h s) = configCore s := by
  unfold heardCall
  dsimp only
  split <;> split_ifs <;> simp

@[simp] theorem configCore_ownAccept (h : Handed) (s : State) : configCore (ownAccept h s) = configCore s := by
  unfold ownAccept
  split_ifs <;> simp

@[simp] theorem configCore_takenAccept (h : Handed) (s : State) : configCore (takenAccept h s) = configCore s := by
  unfold takenAccept
  split_ifs
  · split <;> simp
  · rfl

@[simp] theorem configCore_heardRefuse (freed : Bool) (h : Handed) (s : State) :
    configCore (heardRefuse freed h s) = configCore s := by
  unfold heardRefuse
  split
  · rfl
  · split_ifs <;> simp

@[simp] theorem configCore_memberLeft (n : Station) (s : State) : configCore (memberLeft n s) = configCore s := by
  simp [memberLeft]

@[simp] theorem configCore_heardClear (freed : Bool) (h : Handed) (s : State) :
    configCore (heardClear freed h s) = configCore s := by
  unfold heardClear
  split
  · rfl
  · dsimp only
    split
    · split <;> simp
    · split
      · split <;> (try split) <;> simp
      · rfl

@[simp] theorem configCore_heardText (h : Handed) (s : State) : configCore (heardText h s) = configCore s := by
  unfold heardText
  split
  · simp
  · split_ifs <;> simp
  · split_ifs <;> simp
  · rfl

@[simp] theorem configCore_takenHold (h : Handed) (s : State) : configCore (takenHold h s) = configCore s := by
  unfold takenHold
  split_ifs <;> rfl

@[simp] theorem configCore_takenGo (h : Handed) (s : State) : configCore (takenGo h s) = configCore s := by
  unfold takenGo
  split_ifs <;> rfl

@[simp] theorem configCore_takenBreak (h : Handed) (s : State) : configCore (takenBreak h s) = configCore s := by
  unfold takenBreak
  split_ifs <;> simp

@[simp] theorem configCore_takenPoll (h : Handed) (s : State) : configCore (takenPoll h s) = configCore s := by
  unfold takenPoll
  split_ifs
  · split <;> simp
  · rfl

@[simp] theorem configCore_takenWho (h : Handed) (s : State) : configCore (takenWho h s) = configCore s := by
  unfold takenWho
  split_ifs <;> simp

@[simp] theorem configCore_capture (run : List Resolved) (s : State) : configCore (capture run s) = configCore s := by
  unfold capture
  dsimp only
  split <;> rfl

@[simp] theorem configCore_takenHereis (h : Handed) (s : State) : configCore (takenHereis h s) = configCore s := by
  unfold takenHereis
  dsimp only
  split_ifs <;> simp

@[simp] theorem configCore_luHandOn (h : Handed) (s : State) : configCore (luHandOn h s) = configCore s := by
  unfold luHandOn
  split_ifs <;> simp

@[simp] theorem configCore_cmHandOn (tookView freed : Bool) (h : Handed) (s : State) :
    configCore (cmHandOn tookView freed h s) = configCore s := by
  unfold cmHandOn
  split_ifs
  · split <;> simp
  · split <;> simp

@[simp] theorem configCore_endFreed (freed : Bool) (h : Handed) (s : State) :
    configCore (endFreed freed h s) = configCore s := by
  unfold endFreed
  split_ifs <;> simp

@[simp] theorem configCore_handOn (h : Handed) (s : State) : configCore (handOn h s) = configCore s := by
  simp [handOn]

/-! ### Restart (R185) -/

@[simp] theorem configCore_setScan (p : BitVec 6) (k : KeyScan) (s : State) : configCore (setScan p k s) = configCore s := rfl
@[simp] theorem configCore_luEmpty (s : State) : configCore (luEmpty s) = configCore s := rfl

@[simp] theorem configCore_luRestart (party : Option Addr) (s : State) : configCore (luRestart party s) = configCore s := by
  cases party <;> rfl

@[simp] theorem configCore_cmRestart (s : State) : configCore (cmRestart s) = configCore s := by
  unfold cmRestart
  dsimp only
  split_ifs <;> simp

@[simp] theorem configCore_kuRestart (s : State) : configCore (kuRestart s) = configCore s := by
  simp [kuRestart]

@[simp] theorem configCore_tapeRestart (lines : PresenceLines) (s : State) :
    configCore (tapeRestart lines s) = configCore s := by
  simp [tapeRestart]

@[simp] theorem configCore_auRestart (s : State) : configCore (auRestart s) = configCore s := by
  simp [auRestart]

@[simp] theorem configCore_restartAll (lines : PresenceLines) (s : State) :
    configCore (restartAll lines s) = configCore s := by
  simp [restartAll]

@[simp] theorem configCore_countDiscarded (units : List Bool) (s : State) :
    configCore (countDiscarded units s) = configCore s := by
  unfold countDiscarded
  dsimp only
  split_ifs <;> simp

/-! ### The call's timers (R75, R77, R79, R82, R85, R93, R94) -/

@[simp] theorem configCore_answerWaitEnds (s : State) : configCore (answerWaitEnds s) = configCore s := by
  unfold answerWaitEnds
  split <;> simp

@[simp] theorem configCore_silence (s : State) : configCore (silence s) = configCore s := by
  unfold silence
  dsimp only
  split_ifs <;> simp

@[simp] theorem configCore_withdrawCall (s : State) : configCore (withdrawCall s) = configCore s := rfl

@[simp] theorem configCore_abandonCall (s : State) : configCore (abandonCall s) = configCore s := by
  unfold abandonCall
  dsimp only
  split_ifs <;> simp

@[simp] theorem configCore_holdExpires (n : Station) (s : State) : configCore (holdExpires n s) = configCore s := by
  simp [holdExpires]

/-! ### The keyboard (R99 to R115, R144, R149, R161, R174, R177) -/

@[simp] theorem configCore_dealtWith (k : Key) (s : State) : configCore (dealtWith k s) = configCore s := rfl
@[simp] theorem configCore_waitAtHead (s : State) : configCore (waitAtHead s) = configCore s := rfl

@[simp] theorem configCore_enterFifo (k : Key) (s : State) : configCore (enterFifo k s) = configCore s := by
  unfold enterFifo
  split_ifs <;> rfl

@[simp] theorem configCore_takePress (k : Key) (s : State) : configCore (takePress k s) = configCore s := by
  unfold takePress
  split_ifs
  · simp
  · rfl

@[simp] theorem configCore_pressAt (p : BitVec 6) (k : KeyScan) (s : State) : configCore (pressAt p k s) = configCore s := by
  unfold pressAt pressTaken
  split_ifs
  · split <;> simp
  · simp

@[simp] theorem configCore_placeCall (d : Addr) (s : State) : configCore (placeCall d s) = configCore s := by
  unfold placeCall
  dsimp only
  split_ifs <;> simp

@[simp] theorem configCore_endDialing (s : State) : configCore (endDialing s) = configCore s := by
  unfold endDialing
  dsimp only
  split
  · simp
  · split_ifs <;> simp

@[simp] theorem configCore_dialKey (k : Key) (s : State) : configCore (dialKey k s) = configCore s := by
  unfold dialKey
  split
  · simp
  · split
    · split <;> simp
    · simp

@[simp] theorem configCore_echoRun (echo : Bool) (run : List Cell) (s : State) :
    configCore (echoRun echo run s) = configCore s := by
  unfold echoRun
  split_ifs <;> simp

@[simp] theorem configCore_keyRuns (main : QueueName) (echo : Bool) (k : Key) (ch : Resolved) (s : State) :
    configCore (keyRuns main echo k ch s) = configCore s := by
  unfold keyRuns
  split_ifs
  · split
    · rename_i t appended
      simp [configCore_appendRun appended]
    · simp
  · simp

@[simp] theorem configCore_commitLine (s : State) : configCore (commitLine s) = configCore s := by
  unfold commitLine
  dsimp only
  split_ifs <;> simp [cs_startSendTimer]

@[simp] theorem configCore_editKey (k : Key) (ch : Resolved) (s : State) : configCore (editKey k ch s) = configCore s := by
  unfold editKey
  split_ifs <;> simp

@[simp] theorem configCore_modeKey (k : Key) (ch : Resolved) (s : State) : configCore (modeKey k ch s) = configCore s := by
  unfold modeKey
  split <;> split_ifs <;> simp

@[simp] theorem configCore_interpretChar (k : Key) (ch : Resolved) (s : State) :
    configCore (interpretChar k ch s) = configCore s := by
  unfold interpretChar
  split_ifs <;> simp

@[simp] theorem configCore_setMode (m : KeyMode) (s : State) : configCore (setMode m s) = configCore s := by
  unfold setMode
  split_ifs <;> rfl

@[simp] theorem configCore_backspaceKey (s : State) : configCore (backspaceKey s) = configCore s := by
  unfold backspaceKey
  split_ifs <;> rfl

@[simp] theorem configCore_beginDialing (s : State) : configCore (beginDialing s) = configCore s := rfl

@[simp] theorem configCore_answerByKey (s : State) : configCore (answerByKey s) = configCore s := by
  unfold answerByKey
  split_ifs <;> simp

@[simp] theorem configCore_refuseByKey (s : State) : configCore (refuseByKey s) = configCore s := by
  unfold refuseByKey
  split_ifs <;> simp

@[simp] theorem configCore_cancelDialing (s : State) : configCore (cancelDialing s) = configCore s := by
  simp [cancelDialing]

@[simp] theorem configCore_callKeyAct (read : CallState) (s : State) : configCore (callKeyAct read s) = configCore s := by
  unfold callKeyAct takenDialing takenRinging requestDialing
  split <;> split_ifs <;> simp

@[simp] theorem configCore_requestClear (s : State) : configCore (requestClear s) = configCore s := by
  unfold requestClear awaitingToClearing
  split <;> simp

@[simp] theorem configCore_clearKeyAct (read : CallState) (s : State) : configCore (clearKeyAct read s) = configCore s := by
  unfold clearKeyAct takenDialing takenRinging
  split <;> (try split_ifs) <;> simp

@[simp] theorem configCore_whoKeyAct (s : State) : configCore (whoKeyAct s) = configCore s := by
  unfold whoKeyAct
  split <;> simp

@[simp] theorem configCore_hereisKeyAct (s : State) : configCore (hereisKeyAct s) = configCore s := by
  unfold hereisKeyAct
  split_ifs
  · split
    · rename_i t appended
      simp [configCore_appendRun appended]
    · rfl
  · simp
  · rfl

@[simp] theorem configCore_breakKeyAct (s : State) : configCore (breakKeyAct s) = configCore s := by
  unfold breakKeyAct
  split_ifs <;> simp

@[simp] theorem configCore_pollKeyAct (s : State) : configCore (pollKeyAct s) = configCore s := by
  unfold pollKeyAct
  split_ifs <;> simp

@[simp] theorem configCore_readStartAct (s : State) : configCore (readStartAct s) = configCore s := by
  unfold readStartAct
  split_ifs
  · rfl
  · split <;> rfl

@[simp] theorem configCore_readStopAct (s : State) : configCore (readStopAct s) = configCore s := by
  unfold readStopAct
  split_ifs <;> simp

@[simp] theorem configCore_filePrintAct (s : State) : configCore (filePrintAct s) = configCore s := by
  unfold filePrintAct
  split_ifs
  · rfl
  · split
    · rfl
    · dsimp only
      split_ifs <;> simp

@[simp] theorem configCore_dropRecords (rs : List FileRecord) (s : State) :
    configCore (dropRecords rs s) = configCore s := by
  unfold dropRecords
  induction rs generalizing s with
  | nil => rfl
  | cons r rs ih => rw [List.foldl_cons, ih, configCore_dropRecord]

@[simp] theorem configCore_fileClearAct (s : State) : configCore (fileClearAct s) = configCore s := by
  simp [fileClearAct]

@[simp] theorem configCore_attendKeyAct (s : State) : configCore (attendKeyAct s) = configCore s := by
  unfold attendKeyAct
  split_ifs <;> simp

/-! ### Time moves the load's timer alone (R180) -/

/-- What a command leaves of the configuration: all of it, but that the load's timer may have run on where it runs. -/
def KeepsConfig (s t : State) : Prop :=
  t.cs.limits = s.cs.limits ∧ ∃ left, t.cl = { s.cl with loadLeft := left } ∧ (s.cl.loadLeft = none → left = none)

theorem keepsConfig_of_configCore {s t : State} (h : configCore t = configCore s) : KeepsConfig s t := by
  obtain ⟨cl, limits⟩ := Prod.mk.inj h
  exact ⟨limits, s.cl.loadLeft, cl, id⟩

theorem keepsConfig_elapse (d : Tick) (s : State) : KeepsConfig s (elapse d s) := by
  refine ⟨by rw [elapse_cs], (elapse d s).cl.loadLeft, ?_⟩
  unfold elapse
  split
  · exact ⟨rfl, id⟩
  · exact ⟨rfl, fun stopped => by simp [stopped, timeDown]⟩

theorem KeepsConfig.trans {s t u : State} (first : KeepsConfig s t) (second : KeepsConfig t u) : KeepsConfig s u := by
  obtain ⟨limits, left, cl, stopped⟩ := first
  obtain ⟨limits', left', cl', stopped'⟩ := second
  refine ⟨limits'.trans limits, left', by rw [cl', cl], fun h => stopped' ?_⟩
  rw [cl]
  exact stopped h

/-- An act after what keeps the configuration. -/
theorem KeepsConfig.act {s t u : State} (h : KeepsConfig s t) (act : configCore u = configCore t) : KeepsConfig s u :=
  h.trans (keepsConfig_of_configCore act)

/-! ### The answers of commands -/

/-- Whatever next state a command answers keeps the configuration. -/
def AnswerKeeps (s : State) (r : Result) : Prop := ∀ t, r = .next t → KeepsConfig s t

theorem answerKeeps_unmoved (s : State) : AnswerKeeps s (unmoved s) := by
  rintro t ⟨⟩
  exact keepsConfig_of_configCore rfl

theorem answerKeeps_acted {s t : State} (h : KeepsConfig s t) : AnswerKeeps s (acted t) := by
  rintro u ⟨⟩
  exact h.act (configCore_settle t)

theorem answerKeeps_actIf {can : Bool} {f : State → State} {s : State} (h : KeepsConfig s (f s)) :
    AnswerKeeps s (actIf can f s) := by
  unfold actIf
  split
  · exact answerKeeps_acted h
  · exact answerKeeps_unmoved s

/-- A command whose act keeps the configuration. -/
theorem answerKeeps_of_act {can : Bool} {f : State → State} {s : State} (h : configCore (f s) = configCore s) :
    AnswerKeeps s (actIf can f s) := answerKeeps_actIf (keepsConfig_of_configCore h)

/-- An expiry whose act keeps the configuration. -/
theorem answerKeeps_expire {timer : Option Tick} {can : Bool} {f : State → State} {s : State}
    (h : ∀ x, configCore (f x) = configCore x) : AnswerKeeps s (expire timer can f s) := by
  unfold expire
  split
  · exact answerKeeps_actIf ((keepsConfig_elapse _ s).act (h _))
  · exact answerKeeps_unmoved s

/-- A command that cannot occur. -/
theorem answerKeeps_actIf_false {can : Bool} {f : State → State} {s : State} (h : can = false) :
    AnswerKeeps s (actIf can f s) := by
  subst h
  exact answerKeeps_unmoved s

theorem answerKeeps_expire_false {timer : Option Tick} {can : Bool} {f : State → State} {s : State} (h : can = false) :
    AnswerKeeps s (expire timer can f s) := by
  unfold expire
  split
  · exact answerKeeps_actIf_false h
  · exact answerKeeps_unmoved s

theorem answerKeeps_keyAct {k : Key} {f : State → State} {s : State} (h : ∀ x, configCore (f x) = configCore x) :
    AnswerKeeps s (keyAct k f s) := answerKeeps_of_act (h s)

theorem answerKeeps_breakLine (s : State) : AnswerKeeps s (breakLine s) := answerKeeps_of_act (configCore_lineBroken s)

theorem answerKeeps_readUnits {units : List Bool} {f : State → State} {s : State}
    (h : ∀ x, configCore (f x) = configCore x) : AnswerKeeps s (readUnits units f s) := by
  unfold readUnits
  split
  · exact answerKeeps_breakLine s
  · exact answerKeeps_acted (keepsConfig_of_configCore (h _))

/-! ### The commands whose acts take time of their own (R32, R45, R48, R50) -/

theorem keepsConfig_startTelegram (c : Candidate) (s : State) : KeepsConfig s (startTelegram c s) :=
  (keepsConfig_elapse (gapLeft s c) s).act rfl

theorem keepsConfig_readSpace (after : Nat) (s : State) : KeepsConfig s (readSpace after s) := by
  refine (keepsConfig_elapse (s.lu.spaceLeft + after * unitTime s) s).act ?_
  unfold readSpace
  dsimp only
  split
  · rw [configCore_lineBroken]; rfl
  · rfl

theorem keepsConfig_readBrokenSpace (s : State) : KeepsConfig s (readBrokenSpace s) :=
  (keepsConfig_elapse s.lu.spaceLeft s).act rfl

theorem keepsConfig_lineRestored (s : State) : KeepsConfig s (lineRestored s) := by
  refine (keepsConfig_elapse (s.lu.untilMark (sec 2 - s.lu.markRun)) s).act ?_
  unfold lineRestored
  dsimp only
  rw [configCore_notice]
  split <;> rfl

theorem answerKeeps_transmitStart (s : State) : AnswerKeeps s (execTransmitStart s) := by
  unfold execTransmitStart
  dsimp only
  split
  · rename_i c _
    exact answerKeeps_actIf ((keepsConfig_of_configCore (configCore_formText s)).trans (keepsConfig_startTelegram c _))
  · exact answerKeeps_unmoved s

/-! ### The commands with cases of their own -/

theorem answerKeeps_telegramTurn (t : Telegram) (s : State) : AnswerKeeps s (execTelegramTurn t s) := by
  unfold execTelegramTurn
  split
  · exact answerKeeps_readUnits (configCore_turnHeard _ t)
  · split
    · exact answerKeeps_readUnits (configCore_turnOwn _ t _)
    · exact answerKeeps_unmoved s
  · exact answerKeeps_readUnits configCore_discardTelegram
  · exact answerKeeps_unmoved s
  · exact answerKeeps_unmoved s

theorem answerKeeps_malformedDiscard (t : Telegram) (s : State) : AnswerKeeps s (execMalformedDiscard t s) := by
  unfold execMalformedDiscard
  split
  · exact answerKeeps_readUnits configCore_discardTelegram
  · exact answerKeeps_unmoved s

theorem answerKeeps_telegramHandOn (slot : SlotUnits) (s : State) : AnswerKeeps s (execTelegramHandOn slot s) := by
  unfold execTelegramHandOn
  split
  · split
    · split
      · exact answerKeeps_breakLine s
      · exact answerKeeps_acted (keepsConfig_of_configCore (configCore_handOn _ _))
    · exact answerKeeps_unmoved s
  · exact answerKeeps_unmoved s

theorem answerKeeps_arbitrationLoss (s : State) : AnswerKeeps s (execArbitrationLoss s) := by
  unfold execArbitrationLoss
  split
  · exact answerKeeps_acted (keepsConfig_of_configCore (configCore_loseArbitration _ s))
  · exact answerKeeps_unmoved s

theorem answerKeeps_collision (s : State) : AnswerKeeps s (execCollision s) := by
  unfold execCollision
  split
  · rename_i x _
    dsimp only
    split
    · exact answerKeeps_readUnits fun y => configCore_collide x { y with lu.spaceLeft := _ }
    · exact answerKeeps_acted (keepsConfig_of_configCore (configCore_collide x s))
  · exact answerKeeps_unmoved s

theorem answerKeeps_attemptEnd (ackSpace : Bool) (s : State) : AnswerKeeps s (execAttemptEnd ackSpace s) := by
  unfold execAttemptEnd
  split
  · exact answerKeeps_of_act (configCore_endAttempt _ _ _ s)
  · exact answerKeeps_unmoved s

theorem answerKeeps_keyPress (key : KeySamples) (s : State) : AnswerKeeps s (execKeyPress key s) := by
  unfold execKeyPress
  split
  · exact answerKeeps_of_act (configCore_pressAt _ _ s)
  · exact answerKeeps_unmoved s

theorem answerKeeps_keyRelease (key : KeySamples) (s : State) : AnswerKeeps s (execKeyRelease key s) := by
  unfold execKeyRelease
  split
  · exact answerKeeps_acted (keepsConfig_of_configCore (configCore_setScan _ _ s))
  · exact answerKeeps_unmoved s

theorem answerKeeps_characterKey (s : State) : AnswerKeeps s (execCharacterKey s) := by
  unfold execCharacterKey
  split
  · exact answerKeeps_of_act (configCore_interpretChar _ _ s)
  · exact answerKeeps_unmoved s

theorem answerKeeps_keyHeadRetry (s : State) : AnswerKeeps s (execKeyHeadRetry s) := by
  unfold execKeyHeadRetry
  split
  · exact answerKeeps_of_act (configCore_interpretChar _ _ s)
  · exact answerKeeps_unmoved s

theorem answerKeeps_puTakeCell (s : State) : AnswerKeeps s (execPuTakeCell s) := by
  unfold execPuTakeCell
  split
  · exact answerKeeps_of_act (configCore_takePrintCell _ _ s)
  · exact answerKeeps_unmoved s

theorem answerKeeps_punchTakeCell (s : State) : AnswerKeeps s (execPunchTakeCell s) := by
  unfold execPunchTakeCell
  split
  · exact answerKeeps_of_act (configCore_takePunchCell _ s)
  · exact answerKeeps_unmoved s

theorem answerKeeps_readerCycleStart (s : State) : AnswerKeeps s (execReaderCycleStart s) := by
  unfold execReaderCycleStart
  split
  · exact answerKeeps_of_act (configCore_readerStep _ s)
  · exact answerKeeps_unmoved s

theorem answerKeeps_readerResume (s : State) : AnswerKeeps s (execReaderResume s) := by
  unfold execReaderResume
  split
  · exact answerKeeps_of_act (configCore_readerGoOn _ _)
  · exact answerKeeps_unmoved s

/-! ### Every command -/

theorem loadingNow_of_loaded {s : State} (load : loaded s = true) : loadingNow s = false := by
  simp only [loaded, Bool.and_eq_true, Bool.not_eq_true', decide_eq_true_eq] at load
  simp [loadingNow, load.2]

/-- RESET_RELEASE and the load's three ends occur only before the load has ended; RESET_ASSERT is left out; every other
command keeps the configuration (R179, R180, R185). -/
theorem exec_keepsConfig {c : Instr} {s : State} (load : loaded s = true) (noReset : c ≠ .resetAssert) :
    AnswerKeeps s (exec c s) := by
  have notLoading := loadingNow_of_loaded load
  cases c with
  | resetAssert => exact absurd rfl noReset
  | resetRelease straps lines => exact answerKeeps_actIf_false (resetLow_of_loaded load)
  | configReadDone image inputs => exact answerKeeps_actIf_false notLoading
  | configNoAck inputs => exact answerKeeps_actIf_false notLoading
  | configLoadTimeout inputs =>
    exact answerKeeps_expire_false notLoading
  | telegramTurn t => exact answerKeeps_telegramTurn t s
  | malformedDiscard t => exact answerKeeps_malformedDiscard t s
  | telegramHandOn slot => exact answerKeeps_telegramHandOn slot s
  | transmitStart => exact answerKeeps_transmitStart s
  | arbitrationLoss => exact answerKeeps_arbitrationLoss s
  | collision => exact answerKeeps_collision s
  | attemptEnd ackSpace => exact answerKeeps_attemptEnd ackSpace s
  | retryWaitExpiry which =>
    rw [exec, execRetryWaitExpiry]
    exact answerKeeps_expire fun _ => rfl
  | lineBreak => exact answerKeeps_breakLine s
  | lineRestored => exact answerKeeps_actIf (keepsConfig_lineRestored s)
  | listenQuietExpiry =>
    rw [exec, execListenQuietExpiry]
    exact answerKeeps_actIf ((keepsConfig_elapse _ s).act (configCore_enterProbe (elapse _ s)))
  | listenWindowExpiry =>
    rw [exec, execListenWindowExpiry]
    exact answerKeeps_expire fun _ => (configCore_notice _ _).trans rfl
  | probeWaitExpiry =>
    rw [exec, execProbeWaitExpiry]
    exact answerKeeps_expire fun _ => rfl
  | sendTimerExpiry =>
    rw [exec, execSendTimerExpiry]
    exact answerKeeps_expire fun _ => rfl
  | silenceExpiry => exact answerKeeps_expire configCore_silence
  | ringWaitExpiry =>
    rw [exec, execRingWaitExpiry]
    exact answerKeeps_expire fun x => configCore_answerWaitEnds (freeView x)
  | breakTimerExpiry => exact answerKeeps_expire configCore_abandonCall
  | holdEntryExpiry station => exact answerKeeps_expire (configCore_holdExpires station)
  | heldSinceExpiry =>
    rw [exec, execHeldSinceExpiry]
    exact answerKeeps_expire fun _ => configCore_openToClearing _ _ _ _
  | keyPress key => exact answerKeeps_keyPress key s
  | keyHeadRetry => exact answerKeeps_keyHeadRetry s
  | characterKey => exact answerKeeps_characterKey s
  | ltrsKey =>
    rw [exec, execLtrsKey]
    exact answerKeeps_keyAct fun _ => rfl
  | figsKey =>
    rw [exec, execFigsKey]
    exact answerKeeps_keyAct fun _ => rfl
  | lineKey => exact answerKeeps_keyAct (configCore_setMode .line)
  | localKey => exact answerKeeps_keyAct (configCore_setMode .localMode)
  | tapeKey => exact answerKeeps_keyAct (configCore_setMode .tape)
  | backspace => exact answerKeeps_keyAct configCore_backspaceKey
  | callKey =>
    rw [exec, execCallKey]
    exact answerKeeps_keyAct fun x => configCore_callKeyAct x.ku.headRead x
  | clearKey =>
    rw [exec, execClearKey]
    exact answerKeeps_keyAct fun x => configCore_clearKeyAct x.ku.headRead x
  | whoKey => exact answerKeeps_keyAct configCore_whoKeyAct
  | hereisKey => exact answerKeeps_keyAct configCore_hereisKeyAct
  | breakKey => exact answerKeeps_keyAct configCore_breakKeyAct
  | pollKey => exact answerKeeps_keyAct configCore_pollKeyAct
  | readStart => exact answerKeeps_keyAct configCore_readStartAct
  | readStop => exact answerKeeps_keyAct configCore_readStopAct
  | filePrint => exact answerKeeps_keyAct configCore_filePrintAct
  | fileClear => exact answerKeeps_keyAct configCore_fileClearAct
  | attendKey => exact answerKeeps_keyAct configCore_attendKeyAct
  | restart lines =>
    rw [exec, execRestart]
    exact answerKeeps_of_act
      ((configCore_restartAll lines.toPresenceLines _).trans (configCore_countDiscarded lines.units s))
  | paperStateChange first second => exact answerKeeps_of_act (configCore_setPaper _ s)
  | puTakeCell => exact answerKeeps_puTakeCell s
  | printOpComplete => exact answerKeeps_expire configCore_completePrintOp
  | heatTimerExpiry => exact answerKeeps_expire fun _ => rfl
  | tapeStateChange first second => exact answerKeeps_of_act (configCore_setTape _ s)
  | punchTakeCell => exact answerKeeps_punchTakeCell s
  | punchOpComplete => exact answerKeeps_expire fun _ => configCore_nextPunchOp _
  | tapeInChange level => exact answerKeeps_of_act (f := fun x => { x with tu.tapeIn := isHigh level }) rfl
  | readerCycleStart => exact answerKeeps_readerCycleStart s
  | readerCycleComplete row => exact answerKeeps_expire (configCore_completeCycle row)
  | readerResume => exact answerKeeps_readerResume s
  | runUpExpiry => exact answerKeeps_expire configCore_runUpEnds
  | senseWindowExpiry => exact answerKeeps_expire configCore_enterFaulted
  | motorSenseChange level => exact answerKeeps_of_act (configCore_senseTaken level s)
  | motorHoldExpiry =>
    rw [exec, execMotorHoldExpiry]
    exact answerKeeps_expire fun _ => rfl
  | faultWaitExpiry => exact answerKeeps_expire configCore_leaveFaulted
  | bellPulseExpiry =>
    rw [exec, execBellPulseExpiry]
    exact answerKeeps_expire fun _ => rfl
  | cadencePhaseExpiry =>
    rw [exec, execCadencePhaseExpiry]
    exact answerKeeps_expire fun _ => rfl
  | callLampFlashExpiry =>
    rw [exec, execCallLampFlashExpiry]
    exact answerKeeps_expire fun _ => rfl
  | attendSwitchChange level =>
    exact answerKeeps_of_act (configCore_attendRequest _ _ { s with mt.switchAttended := isHigh level })
  | attendTimerExpiry =>
    rw [exec, execAttendTimerExpiry]
    exact answerKeeps_expire fun _ => (configCore_attendRequest _ _ _).trans rfl
  | ringTimerExpiry => exact answerKeeps_expire configCore_answerByTimer
  | replayHeaderRetry =>
    rw [exec, execReplayHeaderRetry]
    exact answerKeeps_of_act ((configCore_finishCursor (tryHeader s)).trans (configCore_tryHeader s))
  | stationClockTick => exact answerKeeps_expire fun _ => rfl
  | huntingSpaceRead afterUnits => exact answerKeeps_actIf (keepsConfig_readSpace afterUnits s)
  | brokenSpaceRead => exact answerKeeps_actIf (keepsConfig_readBrokenSpace s)
  | keyRelease key => exact answerKeeps_keyRelease key s

/-- Settles O16, from what every command but RESET_ASSERT keeps. -/
theorem configurationIsReadOnce : Obligations.ConfigurationIsReadOnce := by
  intro c s t load noReset next
  obtain ⟨limits, left, cl, stopped⟩ := exec_keepsConfig load noReset t next
  obtain ⟨send, print, punch⟩ := Limits.mk.inj limits
  rw [cl]
  refine ⟨rfl, rfl, rfl, rfl, rfl, fun timerStopped => ?_, send, print, punch⟩
  rw [stopped timerStopped, ← timerStopped]

end Sys2Proof.Machine
end

section
/-!
The store's blocks as lists: chains by their links, the cells of a queue and of a file chain by the keys of their blocks, and
what each act on cells and blocks does to them (R12 to R18, R23, R25).
-/

namespace Sys2Proof.Machine

/-! ### Chains by their links (R12) -/

/-- Each block of a list links to the next. -/
def Linked (st : Store) (bs : List Nat) : Prop := bs.IsChain fun a b => st.link a = some b

@[simp] theorem chainBlocks_zero (st : Store) (h : Option Nat) : st.chainBlocks 0 h = [] := by
  cases h <;> rfl

@[simp] theorem chainBlocks_none (st : Store) (n : Nat) : st.chainBlocks n none = [] := by
  cases n <;> rfl

@[simp] theorem chainBlocks_succ (st : Store) (n b : Nat) :
    st.chainBlocks (n + 1) (some b) = b :: st.chainBlocks n (st.link b) := rfl

theorem mem_head?_chainBlocks {st : Store} {n : Nat} {h : Option Nat} {b : Nat}
    (mem : b ∈ (st.chainBlocks n h).head?) : h = some b := by
  cases n <;> cases h <;> simp_all

theorem linked_chainBlocks (st : Store) (n : Nat) (h : Option Nat) : Linked st (st.chainBlocks n h) := by
  induction n generalizing h with
  | zero => simp [Linked]
  | succ n ih =>
    cases h with
    | none => simp [Linked]
    | some b =>
      exact List.isChain_cons.mpr ⟨fun _ mem => mem_head?_chainBlocks mem, ih _⟩

theorem chainBlocks_of_linked {st : Store} {bs : List Nat} (linked : Linked st bs) :
    st.chainBlocks bs.length bs.head? = bs := by
  induction bs with
  | nil => simp
  | cons b bs ih =>
    obtain ⟨link, rest⟩ := List.isChain_cons.mp linked
    simp only [List.length_cons, List.head?_cons, chainBlocks_succ]
    congr 1
    cases bs with
    | nil => simp
    | cons c bs => rw [link c (by simp)]; exact ih rest

/-- The first blocks of a linked list are its beginning. -/
theorem chainBlocks_take {st : Store} {bs : List Nat} (linked : Linked st bs) {n : Nat} (small : n ≤ bs.length) :
    st.chainBlocks n bs.head? = bs.take n := by
  have first : Linked st (bs.take n) := linked.take n
  have length : (bs.take n).length = n := by simp [small]
  cases n with
  | zero => simp
  | succ n =>
    cases bs with
    | nil => simp at small
    | cons b bs =>
      have chain := chainBlocks_of_linked first
      rwa [length] at chain

theorem Linked.congr {st st' : Store} {bs : List Nat} (linked : Linked st bs)
    (same : ∀ b ∈ bs.dropLast, st'.link b = st.link b) : Linked st' bs := by
  induction bs with
  | nil => simp [Linked]
  | cons b bs ih =>
    obtain ⟨link, rest⟩ := List.isChain_cons.mp linked
    cases bs with
    | nil => simp [Linked]
    | cons c bs =>
      refine List.isChain_cons.mpr ⟨fun d mem => (same b (by simp)).trans (link d mem), ih rest fun x mem => ?_⟩
      exact same x (by simpa using Or.inr mem)

/-! ### The keys of blocks -/

/-- The keys of a block's 32 cells, in their order. -/
def blockKeys (b : Nat) : List Nat := (List.range 32).map (cellKey b)

/-- The keys of the cells of blocks, in chain order. -/
def keysOf (bs : List Nat) : List Nat := bs.flatMap blockKeys

@[simp] theorem keysOf_nil : keysOf [] = [] := rfl
@[simp] theorem keysOf_cons (b : Nat) (bs : List Nat) : keysOf (b :: bs) = blockKeys b ++ keysOf bs := rfl
@[simp] theorem keysOf_append (bs cs : List Nat) : keysOf (bs ++ cs) = keysOf bs ++ keysOf cs := by
  simp [keysOf]
@[simp] theorem length_blockKeys (b : Nat) : (blockKeys b).length = 32 := by simp [blockKeys]
@[simp] theorem length_keysOf (bs : List Nat) : (keysOf bs).length = 32 * bs.length := by
  induction bs with
  | nil => rfl
  | cons b bs ih => simp [ih]; omega

theorem blockKeys_getElem? (b i : Nat) (h : i < 32) : (blockKeys b)[i]? = some (cellKey b i) := by
  simp [blockKeys, h]

@[simp] theorem cellKey_div (b i : Nat) (h : i < 32) : cellKey b i / 32 = b := by
  unfold cellKey; omega

theorem cellKey_inj {b c i j : Nat} (hi : i < 32) (hj : j < 32) : cellKey b i = cellKey c j ↔ b = c ∧ i = j := by
  unfold cellKey; omega

theorem mem_blockKeys {b k : Nat} : k ∈ blockKeys b ↔ k / 32 = b := by
  simp only [blockKeys, List.mem_map, List.mem_range, cellKey]
  constructor
  · rintro ⟨i, hi, rfl⟩; omega
  · rintro rfl; exact ⟨k % 32, by omega, by omega⟩

theorem mem_keysOf {bs : List Nat} {k : Nat} : k ∈ keysOf bs ↔ k / 32 ∈ bs := by
  simp only [keysOf, List.mem_flatMap, mem_blockKeys]
  constructor
  · rintro ⟨b, mem, rfl⟩; exact mem
  · intro mem; exact ⟨_, mem, rfl⟩

theorem nodup_blockKeys (b : Nat) : (blockKeys b).Nodup :=
  List.nodup_range.map_on fun _ hi _ hj h => ((cellKey_inj (List.mem_range.mp hi) (List.mem_range.mp hj)).mp h).2

theorem nodup_keysOf {bs : List Nat} (nodup : bs.Nodup) : (keysOf bs).Nodup := by
  induction bs with
  | nil => simp
  | cons b bs ih =>
    obtain ⟨new, rest⟩ := List.nodup_cons.mp nodup
    refine List.nodup_append.mpr ⟨nodup_blockKeys b, ih rest, ?_⟩
    rintro k hk _ hk' rfl
    exact new (mem_blockKeys.mp hk ▸ mem_keysOf.mp hk')

theorem keysOf_getElem? {bs : List Nat} {j : Nat} :
    (keysOf bs)[j]? = bs[j / 32]?.map fun b => cellKey b (j % 32) := by
  induction bs generalizing j with
  | nil => simp
  | cons b bs ih =>
    by_cases h : j < 32
    · rw [keysOf_cons, List.getElem?_append_left (by simpa using h), blockKeys_getElem? _ _ h,
        Nat.div_eq_of_lt h, Nat.mod_eq_of_lt h]
      rfl
    · rw [keysOf_cons, List.getElem?_append_right (by simpa using h), length_blockKeys, ih]
      have hd : j / 32 = (j - 32) / 32 + 1 := by omega
      have hm : j % 32 = (j - 32) % 32 := by omega
      rw [hd, hm]
      rfl

/-! ### The cells of a queue and of a chain, by keys (R15, R16) -/

/-- The contents at keys, in their order. -/
def Store.contents (st : Store) (ks : List Nat) : List Cell := ks.filterMap fun k => Memory.read k st.cells

theorem contents_cons (st : Store) (k : Nat) (ks : List Nat) :
    st.contents (k :: ks) = (Memory.read k st.cells).toList ++ st.contents ks := by
  unfold Store.contents
  cases h : Memory.read k st.cells <;> simp [h]

theorem contents_append (st : Store) (ks js : List Nat) : st.contents (ks ++ js) = st.contents ks ++ st.contents js := by
  simp [Store.contents]

theorem contents_congr {st st' : Store} {ks : List Nat}
    (same : ∀ k ∈ ks, Memory.read k st'.cells = Memory.read k st.cells) : st'.contents ks = st.contents ks :=
  List.filterMap_congr same

theorem cellsFrom_zero (st : Store) (h : Option Nat) (i : Nat) : st.cellsFrom 0 h i = [] := by
  cases h <;> rfl

theorem cellsFrom_succ (st : Store) (n b i : Nat) :
    st.cellsFrom (n + 1) (some b) i =
      (st.cellAt b i).toList ++ if i = 31 then st.cellsFrom n (st.link b) 0 else st.cellsFrom n (some b) (i + 1) := by
  rw [Store.cellsFrom]
  cases h : st.cellAt b i <;> simp

/-- The cells of a chain from a position of its first block, as many as its blocks hold. -/
theorem cellsFrom_eq {st : Store} {bs : List Nat} (linked : Linked st bs) {n i : Nat} (hi : i ≤ 31)
    (fits : n + i ≤ 32 * bs.length) : st.cellsFrom n bs.head? i = st.contents (((keysOf bs).drop i).take n) := by
  induction n generalizing bs i with
  | zero => simp [cellsFrom_zero, Store.contents]
  | succ n ih =>
    cases bs with
    | nil => simp at fits
    | cons b bs =>
      have here : ((keysOf (b :: bs)).drop i).take (n + 1)
          = cellKey b i :: ((keysOf (b :: bs)).drop (i + 1)).take n := by
        have : i < (keysOf (b :: bs)).length := by simp only [length_keysOf, List.length_cons]; omega
        have hk : (keysOf (b :: bs))[i]? = some (cellKey b i) := by
          rw [keysOf_getElem?, Nat.div_eq_of_lt (by omega), Nat.mod_eq_of_lt (by omega)]
          rfl
        rw [List.drop_eq_getElem_cons this, List.take_succ_cons, List.getElem?_eq_some_iff.mp hk |>.2]
      rw [here, contents_cons]
      simp only [List.head?_cons, cellsFrom_succ]
      congr 1
      split_ifs with h31
      · obtain ⟨link, rest⟩ := List.isChain_cons.mp linked
        have next : st.cellsFrom n (st.link b) 0 = st.cellsFrom n bs.head? 0 := by
          cases bs with
          | nil =>
            have : n = 0 := by simp at fits; omega
            subst this; simp [cellsFrom_zero]
          | cons c bs => rw [link c (by simp)]; rfl
        rw [next, ih rest (by omega) (by simp at fits; omega)]
        subst h31
        simp
      · exact ih linked (by omega) (by omega)

/-- The blocks of a queue's chain agree with its record (R15). -/
structure QueueHolds (st : Store) (n : QueueName) (bs : List Nat) : Prop where
  count : (st.queue n).blockCount = bs.length
  head : (st.queue n).head = bs.head?
  tail : (st.queue n).tail = bs.getLast?
  linked : Linked st bs
  headIndex : (st.queue n).headIndex ≤ 31
  tailIndex : (st.queue n).tailIndex ≤ 31
  empty : (st.queue n).blockCount = 0 ↔ (st.queue n).cellCount = 0
  cells : (st.queue n).cellCount ≠ 0 →
    32 * (st.queue n).blockCount + (st.queue n).tailIndex + 1
      = (st.queue n).cellCount + (st.queue n).headIndex + 32

theorem QueueHolds.blocks {st : Store} {n : QueueName} {bs : List Nat} (h : QueueHolds st n bs) :
    blocksOf st n = bs := by
  unfold blocksOf
  rw [h.count, h.head, chainBlocks_of_linked h.linked]

theorem QueueHolds.inOrder {st : Store} {n : QueueName} {bs : List Nat} (h : QueueHolds st n bs) :
    queueInOrder st n := by
  unfold queueInOrder
  rw [h.blocks]
  exact ⟨h.count.symm, h.head, h.tail, h.headIndex, h.tailIndex, h.empty, h.cells⟩

theorem QueueHolds.of_inOrder {st : Store} {n : QueueName} (h : queueInOrder st n) : QueueHolds st n (blocksOf st n) := by
  obtain ⟨count, head, tail, headIndex, tailIndex, empty, cells⟩ := h
  exact ⟨count.symm, head, tail, linked_chainBlocks _ _ _, headIndex, tailIndex, empty, cells⟩

/-- The keys of a queue's cells, oldest first. -/
def Store.queueKeys (st : Store) (n : QueueName) (bs : List Nat) : List Nat :=
  ((keysOf bs).drop (st.queue n).headIndex).take (st.queue n).cellCount

theorem QueueHolds.fits {st : Store} {n : QueueName} {bs : List Nat} (h : QueueHolds st n bs) :
    (st.queue n).cellCount = 0 ∨ (st.queue n).cellCount + (st.queue n).headIndex ≤ 32 * bs.length := by
  by_cases zero : (st.queue n).cellCount = 0
  · exact Or.inl zero
  · have := h.cells zero
    have := h.tailIndex
    have := h.count
    right; omega

theorem QueueHolds.queueCells {st : Store} {n : QueueName} {bs : List Nat} (h : QueueHolds st n bs) :
    st.queueCells n = st.contents (st.queueKeys n bs) := by
  unfold Store.queueCells Store.queueKeys
  rw [h.head]
  rcases h.fits with zero | fits
  · rw [zero]; simp [cellsFrom_zero, Store.contents]
  · exact cellsFrom_eq h.linked h.headIndex fits

theorem mem_queueKeys {st : Store} {n : QueueName} {bs : List Nat} {k : Nat} (mem : k ∈ st.queueKeys n bs) :
    k / 32 ∈ bs := mem_keysOf.mp (List.mem_of_mem_drop (List.mem_of_mem_take mem))

/-- The blocks of a file chain agree with its record (R16). -/
structure ChainHolds (st : Store) (ch : Chain) (bs : List Nat) : Prop where
  count : ch.blockCount = bs.length
  first : ch.first = bs.head?
  last : ch.last = bs.getLast?
  linked : Linked st bs

theorem ChainHolds.blocks {st : Store} {ch : Chain} {bs : List Nat} (h : ChainHolds st ch bs) :
    blocksOfChain st ch = bs := by
  unfold blocksOfChain
  rw [h.count, h.first, chainBlocks_of_linked h.linked]

theorem ChainHolds.inOrder {st : Store} {ch : Chain} {bs : List Nat} (h : ChainHolds st ch bs) : chainInOrder st ch := by
  unfold chainInOrder
  rw [h.blocks]
  exact ⟨h.count.symm, h.first, h.last⟩

theorem ChainHolds.of_inOrder {st : Store} {ch : Chain} (h : chainInOrder st ch) :
    ChainHolds st ch (blocksOfChain st ch) := by
  obtain ⟨count, first, last⟩ := h
  exact ⟨count.symm, first, last, linked_chainBlocks _ _ _⟩

/-- The cell at an offset of a chain, by its key. -/
theorem ChainHolds.chainCell {st : Store} {ch : Chain} {bs : List Nat} (h : ChainHolds st ch bs) (i : Nat) :
    st.chainCell ch i = if i < ch.count then (keysOf bs)[i]?.bind fun k => Memory.read k st.cells else none := by
  unfold Store.chainCell
  split_ifs with small
  · have count := h.count
    unfold Chain.blockCount at count
    have inside : i / 32 < bs.length := by omega
    rw [h.first, chainBlocks_take h.linked (by omega), List.getLast?_take]
    simp [keysOf_getElem?, inside, Store.cellAt]
  · rfl

/-! ### Acts that touch some blocks only -/

/-- The two stores agree on links and cells but for the blocks of a list. -/
def SameOutside (touched : List Nat) (st st' : Store) : Prop :=
  ∀ b, b ∉ touched → st'.link b = st.link b ∧ ∀ k, k / 32 = b → Memory.read k st'.cells = Memory.read k st.cells

theorem SameOutside.refl (touched : List Nat) (st : Store) : SameOutside touched st st :=
  fun _ _ => ⟨rfl, fun _ _ => rfl⟩

theorem SameOutside.trans {touched : List Nat} {a b c : Store} (h : SameOutside touched a b)
    (k : SameOutside touched b c) : SameOutside touched a c := fun x out =>
  ⟨(k x out).1.trans (h x out).1, fun i hi => ((k x out).2 i hi).trans ((h x out).2 i hi)⟩

theorem SameOutside.mono {some more : List Nat} {st st' : Store} (h : SameOutside some st st') (sub : some ⊆ more) :
    SameOutside more st st' := fun b out => h b fun mem => out (sub mem)

/-- A queue that holds none of the blocks touched holds what it held. -/
theorem QueueHolds.frame {st st' : Store} {n : QueueName} {bs touched : List Nat} (h : QueueHolds st n bs)
    (record : st'.queue n = st.queue n) (same : SameOutside touched st st') (apart : bs.Disjoint touched) :
    QueueHolds st' n bs ∧ st'.queueCells n = st.queueCells n := by
  have linked : Linked st' bs := h.linked.congr fun b mem => (same b (apart (List.mem_of_mem_dropLast mem))).1
  have holds : QueueHolds st' n bs := by
    obtain ⟨count, head, tail, _, headIndex, tailIndex, empty, cells⟩ := h
    exact ⟨record ▸ count, record ▸ head, record ▸ tail, linked, record ▸ headIndex, record ▸ tailIndex,
      record ▸ empty, record ▸ cells⟩
  refine ⟨holds, ?_⟩
  rw [holds.queueCells, h.queueCells]
  unfold Store.queueKeys
  rw [record]
  exact contents_congr fun k mem => (same _ (apart (mem_queueKeys mem))).2 k rfl

/-- A chain that holds none of the blocks touched holds what it held. -/
theorem ChainHolds.frame {st st' : Store} {ch : Chain} {bs touched : List Nat} (h : ChainHolds st ch bs)
    (same : SameOutside touched st st') (apart : bs.Disjoint touched) :
    ChainHolds st' ch bs ∧ ∀ i, st'.chainCell ch i = st.chainCell ch i := by
  have linked : Linked st' bs := h.linked.congr fun b mem => (same b (apart (List.mem_of_mem_dropLast mem))).1
  have holds : ChainHolds st' ch bs := ⟨h.count, h.first, h.last, linked⟩
  refine ⟨holds, fun i => ?_⟩
  rw [holds.chainCell, h.chainCell]
  split_ifs
  · cases hk : (keysOf bs)[i]? with
    | none => rfl
    | some k => exact (same _ (apart (mem_keysOf.mp (List.mem_of_getElem? hk)))).2 k rfl
  · rfl

/-! ### The record updates -/

@[simp] theorem Store.queue_memory (st : Store) (cells : List (Nat × Cell)) (links : List (Nat × Nat)) (free : List Nat)
    (m : QueueName) : ({ st with cells := cells, links := links, free := free } : Store).queue m = st.queue m := by
  cases m <;> rfl

@[simp] theorem Store.link_setQueue (st : Store) (n : QueueName) (q : Queue) (b : Nat) :
    (st.setQueue n q).link b = st.link b := by simp [Store.link]

theorem sameOutside_setQueue {touched : List Nat} {st st' : Store} (n : QueueName) (q : Queue)
    (h : SameOutside touched st st') : SameOutside touched st (st'.setQueue n q) := fun b out =>
  ⟨(Store.link_setQueue _ _ _ _).trans (h b out).1, fun k hk => by
    rw [Store.setQueue_cells]; exact (h b out).2 k hk⟩

theorem linked_setQueue {st : Store} {bs : List Nat} (n : QueueName) (q : Queue) (h : Linked st bs) :
    Linked (st.setQueue n q) bs := h.congr fun _ _ => Store.link_setQueue _ _ _ _

theorem contents_setQueue (st : Store) (n : QueueName) (q : Queue) (ks : List Nat) :
    (st.setQueue n q).contents ks = st.contents ks := by simp [Store.contents]

/-! ### A release (R12, R13) -/

theorem link_release (st : Store) (b x : Nat) : (st.release b).link x = if x = b then none else st.link x := by
  simp [Store.release, Store.link, Memory.read_clear]

theorem read_release (st : Store) (b k : Nat) :
    Memory.read k (st.release b).cells = if k / 32 = b then none else Memory.read k st.cells := by
  simp [Store.release, Memory.read_clear]

theorem sameOutside_release (st : Store) (b : Nat) : SameOutside [b] st (st.release b) := by
  intro x out
  have other : x ≠ b := by simpa using out
  refine ⟨by rw [link_release, if_neg other], fun k hk => ?_⟩
  rw [read_release, if_neg (hk ▸ other)]

theorem releaseAll_cons (st : Store) (b : Nat) (bs : List Nat) :
    st.releaseAll (b :: bs) = (st.release b).releaseAll bs := rfl

theorem sameOutside_releaseAll (st : Store) (bs : List Nat) : SameOutside bs st (st.releaseAll bs) := by
  induction bs generalizing st with
  | nil => exact SameOutside.refl _ _
  | cons b bs ih =>
    rw [releaseAll_cons]
    exact ((sameOutside_release st b).mono (by simp)).trans ((ih _).mono (by simp))

/-- Blocks released one after the other stand on the stack with the last on top (R25). -/
@[simp] theorem free_releaseAll (st : Store) (bs : List Nat) : (st.releaseAll bs).free = bs.reverse ++ st.free := by
  induction bs generalizing st with
  | nil => rfl
  | cons b bs ih => rw [releaseAll_cons, ih]; simp [Store.release]

/-! ### A cell appended to a queue (R18) -/

theorem room_eq_zero {q : Queue} : q.room = 0 ↔ ∀ t, q.tail = some t → 31 ≤ q.tailIndex := by
  unfold Queue.room
  split <;> simp_all
  omega

theorem pushCell_in_room {st : Store} {n : QueueName} (c : Cell) {t : Nat} (tail : (st.queue n).tail = some t)
    (room : (st.queue n).tailIndex < 31) :
    Store.pushCell n st c =
      { st with cells := Memory.write (cellKey t ((st.queue n).tailIndex + 1)) c st.cells }.setQueue n
        { st.queue n with
          tailIndex := (st.queue n).tailIndex + 1, cellCount := (st.queue n).cellCount + 1 } := by
  simp [Store.pushCell, tail, room]

theorem pushCell_in_block {st : Store} {n : QueueName} (c : Cell) {b : Nat} {rest : List Nat}
    (full : (st.queue n).room = 0) (free : st.free = b :: rest) :
    Store.pushCell n st c =
      { st with
        cells := Memory.write (cellKey b 0) c st.cells
        links := linkTail (st.queue n).tail b st.links
        free := rest }.setQueue n
        { st.queue n with
          head := some ((st.queue n).head.getD b)
          headIndex := if (st.queue n).head = none then 0 else (st.queue n).headIndex
          tail := some b
          tailIndex := 0
          cellCount := (st.queue n).cellCount + 1
          blockCount := (st.queue n).blockCount + 1 } := by
  unfold Store.pushCell
  dsimp only
  split
  · rename_i t tail small
    have := room_eq_zero.mp full t tail
    simp only [decide_eq_true_eq] at small
    omega
  · rw [free]
    cases (st.queue n).head <;> simp

theorem pushCell_without {st : Store} {n : QueueName} (c : Cell) (full : (st.queue n).room = 0) (free : st.free = []) :
    Store.pushCell n st c = st := by
  unfold Store.pushCell
  dsimp only
  split
  · rename_i t tail small
    have := room_eq_zero.mp full t tail
    simp only [decide_eq_true_eq] at small
    omega
  · rw [free]

theorem link_linkTail (tail : Option Nat) (b x : Nat) (links : List (Nat × Nat)) :
    Memory.read x (linkTail tail b links) = if tail = some x then some b else Memory.read x links := by
  cases tail with
  | none => simp [linkTail]
  | some t =>
    by_cases h : x = t
    · simp [linkTail, h, Memory.read_write_same]
    · rw [if_neg (by simpa using fun e => h e.symm)]; exact Memory.read_write_other _ _ h

/-- A block linked to the tail of a linked list. -/
theorem linked_snoc {st st' : Store} {bs : List Nat} {b : Nat} (linked : Linked st bs) (nodup : bs.Nodup)
    (link : ∀ x, st'.link x = if bs.getLast? = some x then some b else st.link x) : Linked st' (bs ++ [b]) := by
  refine List.isChain_append.mpr ⟨linked.congr fun x mem => ?_, by simp, fun x hx y hy => ?_⟩
  · rw [link, if_neg]
    intro last
    obtain ⟨init, rfl⟩ := List.getLast?_eq_some_iff.mp last
    simp only [List.dropLast_concat] at mem
    exact List.disjoint_of_nodup_append nodup mem (by simp)
  · rw [link, if_pos (Option.mem_def.mp hx)]
    simpa using hy

/-- The contents once one more key is written. -/
theorem contents_snoc {st st' : Store} {c : Cell} {k : Nat} {ks : List Nat} (new : k ∉ ks)
    (cells : st'.cells = Memory.write k c st.cells) : st'.contents (ks ++ [k]) = st.contents ks ++ [c] := by
  have others : st'.contents ks = st.contents ks := contents_congr fun j mem => by
    rw [cells]; exact Memory.read_write_other _ _ (fun e => new (e ▸ mem))
  rw [contents_append, others]
  simp [Store.contents, cells, Memory.read_write_same]

theorem sameOutside_write {touched : List Nat} {st st' : Store} {k : Nat} {c : Cell}
    (cells : st'.cells = Memory.write k c st.cells) (mem : k / 32 ∈ touched)
    (links : ∀ b, b ∉ touched → st'.link b = st.link b) : SameOutside touched st st' := by
  intro b out
  refine ⟨links b out, fun j hj => ?_⟩
  rw [cells]
  refine Memory.read_write_other _ _ fun e => out ?_
  rw [← hj, e]; exact mem

/-- A cell appended where the tail block has room: the queue's blocks stay. -/
theorem QueueHolds.push_in_room {st : Store} {n : QueueName} {bs : List Nat} (h : QueueHolds st n bs)
    (nodup : bs.Nodup) (c : Cell) (room : (st.queue n).room ≠ 0) :
    let st' := Store.pushCell n st c
    QueueHolds st' n bs ∧ st'.queueCells n = st.queueCells n ++ [c] ∧ SameOutside bs st st' ∧ st'.free = st.free := by
  obtain ⟨t, tail, small⟩ : ∃ t, (st.queue n).tail = some t ∧ (st.queue n).tailIndex < 31 := by
    by_contra no
    exact room (room_eq_zero.mpr fun t tail => Nat.le_of_not_lt fun small => no ⟨t, tail, small⟩)
  obtain ⟨init, rfl⟩ := List.getLast?_eq_some_iff.mp (h.tail.symm.trans tail)
  have count := h.count
  simp only [List.length_append, List.length_singleton] at count
  have full := h.cells (fun zero => by have := h.empty.mpr zero; omega)
  dsimp only
  rw [pushCell_in_room c tail small]
  generalize hq : (st.queue n) = q at *
  set st' := ({ st with cells := Memory.write (cellKey t (q.tailIndex + 1)) c st.cells } : Store).setQueue n
    { q with tailIndex := q.tailIndex + 1, cellCount := q.cellCount + 1 } with def'
  have record : st'.queue n = { q with tailIndex := q.tailIndex + 1, cellCount := q.cellCount + 1 } := by
    simp [def']
  have cells : st'.cells = Memory.write (cellKey t (q.tailIndex + 1)) c st.cells := by simp [def']
  have links (b : Nat) : st'.link b = st.link b := by simp [def', Store.link]
  have holds : QueueHolds st' n (init ++ [t]) := by
    refine ⟨?_, ?_, ?_, h.linked.congr fun b _ => links b, ?_, ?_, ?_, ?_⟩ <;> rw [record]
    · simpa using count
    · exact hq ▸ h.head
    · exact tail.trans (by simp)
    · exact hq ▸ h.headIndex
    · exact small
    · simp; omega
    · simp; omega
  refine ⟨holds, ?_, ?_, by simp [def']⟩
  · have next : (keysOf (init ++ [t]))[q.headIndex + q.cellCount]? = some (cellKey t (q.tailIndex + 1)) := by
      have place : q.headIndex + q.cellCount = 32 * init.length + (q.tailIndex + 1) := by omega
      rw [keysOf_getElem?, place, Nat.mul_add_div (by omega), Nat.mul_add_mod, Nat.mod_eq_of_lt (by omega),
        Nat.div_eq_of_lt (by omega)]
      simp
    have keys : st'.queueKeys n (init ++ [t]) = st.queueKeys n (init ++ [t]) ++ [cellKey t (q.tailIndex + 1)] := by
      unfold Store.queueKeys
      rw [record, hq]
      dsimp only
      rw [List.take_add_one, List.getElem?_drop, next]
      rfl
    have new : (st'.queueKeys n (init ++ [t])).Nodup :=
      ((nodup_keysOf nodup).sublist (List.drop_sublist _ _)).sublist (List.take_sublist _ _)
    rw [holds.queueCells, h.queueCells, keys]
    rw [keys] at new
    exact contents_snoc (fun mem => List.disjoint_of_nodup_append new mem (by simp)) cells
  · exact sameOutside_write cells (by rw [cellKey_div _ _ (by omega)]; simp) fun b _ => links b

/-- A cell appended where a block is taken from the top of the stack: it is the queue's last. -/
theorem QueueHolds.push_in_block {st : Store} {n : QueueName} {bs : List Nat} (h : QueueHolds st n bs) {b : Nat}
    {rest : List Nat} (nodup : (bs ++ [b]).Nodup) (c : Cell) (room : (st.queue n).room = 0)
    (free : st.free = b :: rest) :
    let st' := Store.pushCell n st c
    QueueHolds st' n (bs ++ [b]) ∧ st'.queueCells n = st.queueCells n ++ [c] ∧ SameOutside (bs ++ [b]) st st'
      ∧ st'.free = rest := by
  have full := room_eq_zero.mp room
  have hcells := h.cells
  have hempty := h.empty
  have hcount := h.count
  have hhead := h.head
  have htail := h.tail
  have hti := h.tailIndex
  have hhi := h.headIndex
  have apart : bs.Nodup := (List.nodup_append.mp nodup).1
  dsimp only
  rw [pushCell_in_block c room free]
  generalize hq : (st.queue n) = q at *
  set q' : Queue := { q with
    head := some (q.head.getD b), headIndex := if q.head = none then 0 else q.headIndex, tail := some b, tailIndex := 0
    cellCount := q.cellCount + 1, blockCount := q.blockCount + 1 } with defq
  set st' := ({ st with
    cells := Memory.write (cellKey b 0) c st.cells, links := linkTail q.tail b st.links, free := rest } : Store).setQueue n
    q' with def'
  have record : st'.queue n = q' := by simp [def']
  have cells : st'.cells = Memory.write (cellKey b 0) c st.cells := by simp [def']
  have links (x : Nat) : st'.link x = if bs.getLast? = some x then some b else st.link x := by
    simp only [def', Store.link, Store.setQueue_links, link_linkTail, htail]
  have place : q'.headIndex + q.cellCount = 32 * bs.length := by
    cases bs with
    | nil => simp_all
    | cons x xs =>
      obtain ⟨t, ht⟩ : ∃ t, q.tail = some t := by rw [htail]; exact ⟨_, List.getLast?_eq_some_getLast (by simp)⟩
      have := full t ht
      have := hcells (fun zero => by have := hempty.mpr zero; simp at hcount; omega)
      simp only [defq, hhead, List.head?_cons, reduceCtorEq, if_false]
      omega
  have holds : QueueHolds st' n (bs ++ [b]) := by
    refine ⟨?_, ?_, ?_, linked_snoc h.linked apart links, ?_, ?_, ?_, ?_⟩ <;> rw [record]
    · simp [defq, hcount]
    · cases bs <;> simp [defq, hhead]
    · simp [defq]
    · simp only [defq]; split_ifs <;> omega
    · simp [defq]
    · simp [defq]
    · intro _
      simp only [defq] at place ⊢
      omega
  refine ⟨holds, ?_, ?_, by simp [def']⟩
  · have old : st.queueKeys n bs = ((keysOf bs).drop q'.headIndex).take q.cellCount := by
      unfold Store.queueKeys
      rw [hq]
      cases bs with
      | nil => simp
      | cons x xs => simp [defq, hhead]
    have next : (keysOf (bs ++ [b]))[q'.headIndex + q.cellCount]? = some (cellKey b 0) := by
      rw [keysOf_getElem?, place, Nat.mul_div_cancel_left _ (by omega), Nat.mul_mod_right]
      simp
    have keys : st'.queueKeys n (bs ++ [b]) = st.queueKeys n bs ++ [cellKey b 0] := by
      have small : q.cellCount ≤ ((keysOf bs).drop q'.headIndex).length := by simp; omega
      rw [old]
      unfold Store.queueKeys
      rw [record]
      show ((keysOf (bs ++ [b])).drop q'.headIndex).take (q.cellCount + 1) = _
      rw [List.take_add_one, List.getElem?_drop, next, keysOf_append, List.drop_append_of_le_length (by simp; omega),
        List.take_append_of_le_length small]
      rfl
    have new : (st'.queueKeys n (bs ++ [b])).Nodup :=
      ((nodup_keysOf nodup).sublist (List.drop_sublist _ _)).sublist (List.take_sublist _ _)
    rw [holds.queueCells, h.queueCells, keys]
    rw [keys] at new
    exact contents_snoc (fun mem => List.disjoint_of_nodup_append new mem (by simp)) cells
  · refine sameOutside_write cells (by rw [cellKey_div _ _ (by omega)]; simp) fun x out => ?_
    rw [links, if_neg]
    exact fun last => out (List.mem_append_left _ (List.mem_of_getLast? last))

/-! ### The oldest cell of a queue removed (R23) -/

theorem popCell_of_none {st : Store} {n : QueueName} (head : (st.queue n).head = none) : st.popCell n = st := by
  simp [Store.popCell, head]

theorem popCell_last {st : Store} {n : QueueName} {b : Nat} (head : (st.queue n).head = some b)
    (last : (st.queue n).cellCount ≤ 1) : st.popCell n = (st.release b).setQueue n (st.queue n).emptied := by
  simp [Store.popCell, head, last]

theorem popCell_block {st : Store} {n : QueueName} {b : Nat} (head : (st.queue n).head = some b)
    (more : 1 < (st.queue n).cellCount) (index : (st.queue n).headIndex = 31) :
    st.popCell n =
      (st.release b).setQueue n
        { st.queue n with
          head := st.link b, headIndex := 0, cellCount := (st.queue n).cellCount - 1
          blockCount := (st.queue n).blockCount - 1 } := by
  simp [Store.popCell, head, Nat.not_le.mpr more, index]

theorem popCell_inside {st : Store} {n : QueueName} {b : Nat} (head : (st.queue n).head = some b)
    (more : 1 < (st.queue n).cellCount) (index : (st.queue n).headIndex ≠ 31) :
    st.popCell n =
      { st with cells := Memory.clear (fun k => k == cellKey b (st.queue n).headIndex) st.cells }.setQueue n
        { st.queue n with
          headIndex := (st.queue n).headIndex + 1, cellCount := (st.queue n).cellCount - 1 } := by
  simp [Store.popCell, head, Nat.not_le.mpr more, index]

theorem queueHolds_emptied {st : Store} {n : QueueName} {q : Queue} (head : q.headIndex ≤ 31) (tail : q.tailIndex ≤ 31)
    (record : (st.queue n) = { q.emptied with inFlight := (st.queue n).inFlight }) : QueueHolds st n [] := by
  refine ⟨?_, ?_, ?_, by simp [Linked], ?_, ?_, ?_, ?_⟩ <;> rw [record] <;> simp [Queue.emptied, head, tail]

/-- The keys of a queue that holds cells: the head's first. -/
theorem queueKeys_cons {st : Store} {n : QueueName} {b : Nat} {bs : List Nat} (h : QueueHolds st n (b :: bs)) :
    st.queueKeys n (b :: bs) =
      cellKey b (st.queue n).headIndex
        :: ((keysOf (b :: bs)).drop ((st.queue n).headIndex + 1)).take ((st.queue n).cellCount - 1) := by
  have some : (st.queue n).cellCount ≠ 0 := fun zero => by
    have := h.empty.mpr zero; have := h.count; simp at this; omega
  have index := h.headIndex
  have inside : (st.queue n).headIndex < (keysOf (b :: bs)).length := by
    simp only [length_keysOf, List.length_cons]; omega
  have first : (keysOf (b :: bs))[(st.queue n).headIndex]? = Option.some (cellKey b (st.queue n).headIndex) := by
    rw [keysOf_getElem?, Nat.div_eq_of_lt (by omega), Nat.mod_eq_of_lt (by omega)]
    rfl
  unfold Store.queueKeys
  rw [List.drop_eq_getElem_cons inside, List.getElem?_eq_some_iff.mp first |>.2]
  obtain ⟨k, hk⟩ := Nat.exists_eq_succ_of_ne_zero some
  rw [hk, List.take_succ_cons]
  rfl

/-- A removal takes the oldest cell; the block that it empties, at position 31 or with the queue's last cell, goes on top
of the stack. -/
theorem QueueHolds.pop {st : Store} {n : QueueName} {b : Nat} {bs : List Nat} (h : QueueHolds st n (b :: bs))
    (nodup : (b :: bs).Nodup) :
    let st' := st.popCell n
    let emptied := (st.queue n).headIndex = 31 ∨ (st.queue n).cellCount = 1
    QueueHolds st' n (if emptied then bs else b :: bs)
      ∧ st.queueCells n = (st.headCell n).toList ++ st'.queueCells n ∧ SameOutside (b :: bs) st st'
      ∧ st'.free = (if emptied then b :: st.free else st.free)
      ∧ (st'.queue n).cellCount = (st.queue n).cellCount - 1 := by
  have head : (st.queue n).head = some b := h.head
  have count := h.count
  simp only [List.length_cons] at count
  have nonzero : (st.queue n).cellCount ≠ 0 := fun zero => by have := h.empty.mpr zero; omega
  have whole := h.cells nonzero
  have index := h.headIndex
  have tindex := h.tailIndex
  obtain ⟨new, rest⟩ := List.nodup_cons.mp nodup
  have cell : st.headCell n = Memory.read (cellKey b (st.queue n).headIndex) st.cells := by
    simp [Store.headCell, head, Store.cellAt]
  have keys := queueKeys_cons h
  have nodupKeys : (st.queueKeys n (b :: bs)).Nodup :=
    ((nodup_keysOf nodup).sublist (List.drop_sublist _ _)).sublist (List.take_sublist _ _)
  rw [keys] at nodupKeys
  have oldest : st.queueCells n = (st.headCell n).toList
      ++ st.contents (((keysOf (b :: bs)).drop ((st.queue n).headIndex + 1)).take ((st.queue n).cellCount - 1)) := by
    rw [h.queueCells, keys, contents_cons, cell]
  have unlinked : Linked st bs := (List.isChain_cons.mp h.linked).2
  have released : Linked (st.release b) bs := unlinked.congr fun x mem => by
    rw [link_release, if_neg]
    rintro rfl
    exact new (List.mem_of_mem_dropLast mem)
  have outside : SameOutside (b :: bs) st (st.release b) := (sameOutside_release st b).mono (by simp)
  dsimp only
  by_cases one : (st.queue n).cellCount = 1
  · rw [if_pos (Or.inr one), if_pos (Or.inr one), popCell_last head (by omega)]
    have single : bs = [] := List.length_eq_zero_iff.mp (by omega)
    subst single
    have holds : QueueHolds ((st.release b).setQueue n (st.queue n).emptied) n [] :=
      queueHolds_emptied (q := st.queue n) index tindex (by simp [Queue.emptied])
    refine ⟨holds, ?_, sameOutside_setQueue _ _ outside, by simp [Store.release], by simp [Queue.emptied, one]⟩
    rw [oldest, one, holds.queueCells]
    simp [Store.queueKeys, Store.contents]
  · by_cases last : (st.queue n).headIndex = 31
    · rw [if_pos (Or.inl last), if_pos (Or.inl last), popCell_block head (by omega) last]
      obtain ⟨c, cs, rfl⟩ : ∃ c cs, bs = c :: cs := by
        cases bs with
        | nil => simp at count; omega
        | cons c cs => exact ⟨c, cs, rfl⟩
      have link : st.link b = some c := (List.isChain_cons.mp h.linked).1 c (by simp)
      have tail : (st.queue n).tail = (c :: cs).getLast? := h.tail.trans (by simp)
      have holds : QueueHolds ((st.release b).setQueue n
          { st.queue n with
            head := st.link b, headIndex := 0, cellCount := (st.queue n).cellCount - 1
            blockCount := (st.queue n).blockCount - 1 }) n (c :: cs) := by
        simp only [List.length_cons] at count
        refine ⟨?_, ?_, ?_, linked_setQueue _ _ released, ?_, ?_, ?_, ?_⟩ <;> rw [Store.queue_setQueue] <;> dsimp only
        · simp [count]
        · exact link
        · exact tail
        · omega
        · exact tindex
        · omega
        · intro _; omega
      refine ⟨holds, ?_, sameOutside_setQueue _ _ outside, by simp [Store.release], by simp⟩
      rw [oldest, holds.queueCells, contents_setQueue]
      congr 1
      unfold Store.queueKeys
      rw [Store.queue_setQueue, last]
      simp only [List.drop_zero]
      rw [show (keysOf (b :: c :: cs)).drop (31 + 1) = keysOf (c :: cs) by
        rw [keysOf_cons b, List.drop_append_of_le_length (by simp), List.drop_of_length_le (by simp), List.nil_append]]
      refine (contents_congr fun k mem => ?_).symm
      rw [read_release, if_neg]
      exact fun e => new (e ▸ mem_keysOf.mp (List.mem_of_mem_take mem))
    · have stays : ¬ ((st.queue n).headIndex = 31 ∨ (st.queue n).cellCount = 1) := by tauto
      rw [if_neg stays, if_neg stays, popCell_inside head (by omega) last]
      set q' : Queue := { st.queue n with
        headIndex := (st.queue n).headIndex + 1, cellCount := (st.queue n).cellCount - 1 } with defq
      set st' := ({ st with
        cells := Memory.clear (fun k => k == cellKey b (st.queue n).headIndex) st.cells } : Store).setQueue n q' with def'
      have record : st'.queue n = q' := by simp [def']
      have reads (k : Nat) : Memory.read k st'.cells
          = if k = cellKey b (st.queue n).headIndex then none else Memory.read k st.cells := by
        simp [def', Memory.read_clear]
      have links (x : Nat) : st'.link x = st.link x := by simp [def', Store.link]
      have holds : QueueHolds st' n (b :: bs) := by
        refine ⟨?_, ?_, ?_, h.linked.congr fun x _ => links x, ?_, ?_, ?_, ?_⟩ <;> rw [record]
        · exact h.count
        · exact h.head
        · exact h.tail
        · simp only [defq]; omega
        · exact tindex
        · simp only [defq]; omega
        · intro _; simp only [defq]; omega
      refine ⟨holds, ?_, ?_, by simp [def'], by simp [record, defq]⟩
      · rw [oldest, holds.queueCells]
        congr 1
        unfold Store.queueKeys
        rw [record]
        refine (contents_congr fun k mem => ?_).symm
        rw [reads, if_neg]
        rintro rfl
        exact (List.nodup_cons.mp nodupKeys).1 mem
      · intro x out
        refine ⟨links x, fun k hk => ?_⟩
        rw [reads, if_neg]
        rintro rfl
        rw [cellKey_div _ _ (by omega)] at hk
        exact out (hk ▸ List.mem_cons_self)

/-! ### A queue flushed (R25) -/

theorem QueueHolds.flush {st : Store} {n : QueueName} {bs : List Nat} (h : QueueHolds st n bs) :
    let st' := st.flushQueue n
    QueueHolds st' n [] ∧ SameOutside bs st st' ∧ st'.free = bs.reverse ++ st.free := by
  dsimp only
  have blocks : st.chainBlocks (st.queue n).blockCount (st.queue n).head = bs := h.blocks
  refine ⟨queueHolds_emptied (q := st.queue n) h.headIndex h.tailIndex (by simp), ?_, ?_⟩
  · unfold Store.flushQueue
    dsimp only
    rw [blocks]
    exact sameOutside_setQueue _ _ (sameOutside_releaseAll _ _)
  · unfold Store.flushQueue
    dsimp only
    rw [blocks, Store.setQueue_free, free_releaseAll]

/-! ### A cell appended to a file chain (R16, R18) -/

theorem chain_room_eq_zero {ch : Chain} : ch.room = 0 ↔ ch.count % 32 = 0 := by
  unfold Chain.room; split_ifs <;> omega

/-- A cell appended in a chain's last block. -/
theorem ChainHolds.push_in_room {st : Store} {ch : Chain} {bs : List Nat} (h : ChainHolds st ch bs) (nodup : bs.Nodup)
    (c : Cell) (room : ch.room ≠ 0) :
    let p := Store.pushChainCell (st, ch) c
    ChainHolds p.1 p.2 bs ∧ p.2.count = ch.count + 1 ∧ (∀ i, i < ch.count → p.1.chainCell p.2 i = st.chainCell ch i)
      ∧ p.1.chainCell p.2 ch.count = some c ∧ SameOutside bs st p.1 ∧ p.1.free = st.free := by
  have inside : ch.count % 32 ≠ 0 := fun e => room (chain_room_eq_zero.mpr e)
  have count := h.count
  unfold Chain.blockCount at count
  obtain ⟨init, t, rfl⟩ : ∃ init t, bs = init ++ [t] := by
    rcases List.eq_nil_or_concat bs with rfl | ⟨init, t, e⟩
    · simp at count; omega
    · exact ⟨init, t, e.trans List.concat_eq_append⟩
  have last : ch.last = some t := h.last.trans (by simp)
  simp only [List.length_append, List.length_singleton] at count
  have act : Store.pushChainCell (st, ch) c =
      ({ st with cells := Memory.write (cellKey t (ch.count % 32)) c st.cells }, { ch with count := ch.count + 1 }) := by
    simp [Store.pushChainCell, last, room]
  dsimp only
  rw [act]
  dsimp only
  have links (b : Nat) : ({ st with cells := Memory.write (cellKey t (ch.count % 32)) c st.cells } : Store).link b
    = st.link b := rfl
  have holds : ChainHolds { st with cells := Memory.write (cellKey t (ch.count % 32)) c st.cells }
      { ch with count := ch.count + 1 } (init ++ [t]) := by
    refine ⟨?_, h.first, h.last, h.linked.congr fun b _ => links b⟩
    simp [Chain.blockCount]; omega
  have key : (keysOf (init ++ [t]))[ch.count]? = some (cellKey t (ch.count % 32)) := by
    rw [keysOf_getElem?, show ch.count / 32 = init.length by omega]
    simp
  refine ⟨holds, rfl, fun i small => ?_, ?_, ?_, rfl⟩
  · rw [holds.chainCell, h.chainCell]
    dsimp only
    rw [if_pos (by omega), if_pos small]
    cases hk : (keysOf (init ++ [t]))[i]? with
    | none => rfl
    | some k =>
      refine Memory.read_write_other _ _ ?_
      rintro rfl
      have := (List.getElem?_inj (by rw [length_keysOf]; simp; omega) (nodup_keysOf nodup)).mp (hk.trans key.symm)
      omega
  · rw [holds.chainCell]
    dsimp only
    rw [if_pos (by omega), key]
    exact Memory.read_write_same _ _ _
  · exact sameOutside_write rfl (by rw [cellKey_div _ _ (by omega)]; simp) fun b _ => links b

/-- A cell appended in a block taken from the top of the stack: it is the chain's last. -/
theorem ChainHolds.push_in_block {st : Store} {ch : Chain} {bs : List Nat} (h : ChainHolds st ch bs) {b : Nat}
    {rest : List Nat} (nodup : (bs ++ [b]).Nodup) (c : Cell) (room : ch.room = 0) (free : st.free = b :: rest) :
    let p := Store.pushChainCell (st, ch) c
    ChainHolds p.1 p.2 (bs ++ [b]) ∧ p.2.count = ch.count + 1
      ∧ (∀ i, i < ch.count → p.1.chainCell p.2 i = st.chainCell ch i) ∧ p.1.chainCell p.2 ch.count = some c
      ∧ SameOutside (bs ++ [b]) st p.1 ∧ p.1.free = rest := by
  have whole : ch.count % 32 = 0 := chain_room_eq_zero.mp room
  have count := h.count
  unfold Chain.blockCount at count
  set st' : Store := { st with
    cells := Memory.write (cellKey b 0) c st.cells, links := linkTail ch.last b st.links, free := rest } with def'
  set ch' : Chain := { first := some (ch.first.getD b), last := some b, count := ch.count + 1 } with defc
  have act : Store.pushChainCell (st, ch) c = (st', ch') := by
    cases hl : ch.last <;> cases hf : ch.first <;> simp [Store.pushChainCell, hl, hf, room, free, def', defc]
  dsimp only
  rw [act]
  dsimp only
  have links (x : Nat) : st'.link x = if bs.getLast? = some x then some b else st.link x := by
    simp only [def', Store.link, link_linkTail, h.last]
  have cells : st'.cells = Memory.write (cellKey b 0) c st.cells := rfl
  have holds : ChainHolds st' ch' (bs ++ [b]) := by
    refine ⟨?_, ?_, by simp [defc], linked_snoc h.linked (List.nodup_append.mp nodup).1 links⟩
    · simp [defc, Chain.blockCount]; omega
    · simp only [defc, h.first]; cases bs <;> simp
  have key : (keysOf (bs ++ [b]))[ch.count]? = some (cellKey b 0) := by
    rw [keysOf_getElem?, show ch.count / 32 = bs.length by omega, whole]
    simp
  refine ⟨holds, rfl, fun i small => ?_, ?_, ?_, rfl⟩
  · rw [holds.chainCell, h.chainCell]
    rw [if_pos (show i < ch'.count by simp only [defc]; omega), if_pos small, keysOf_append,
      List.getElem?_append_left (by simp; omega), cells]
    cases hk : (keysOf bs)[i]? with
    | none => rfl
    | some k =>
      refine Memory.read_write_other _ _ ?_
      rintro rfl
      have mem : b ∈ bs := by simpa using mem_keysOf.mp (List.mem_of_getElem? hk)
      exact List.disjoint_of_nodup_append nodup mem (by simp)
  · rw [holds.chainCell, if_pos (show ch.count < ch'.count by simp [defc]), key]
    exact Memory.read_write_same _ _ _
  · refine sameOutside_write cells (by rw [cellKey_div _ _ (by omega)]; simp) fun x out => ?_
    rw [links, if_neg]
    exact fun last => out (List.mem_append_left _ (List.mem_of_getLast? last))

theorem pushChainCell_without {st : Store} {ch : Chain} (c : Cell) (room : ch.room = 0)
    (free : st.free = []) : Store.pushChainCell (st, ch) c = (st, ch) := by
  cases hl : ch.last <;> simp [Store.pushChainCell, hl, room, free]

end Sys2Proof.Machine
end

section
/-!
One holder for each block, over a store and the file's records: the places that hold blocks stand apart, and an act on one of
them that gives and takes blocks with the stack alone leaves every other place with its blocks and its cells (R12 to R16).
-/

namespace Sys2Proof.Machine

/-! ### The places that hold blocks -/

/-- A place that holds blocks: the stack, a queue, a record's chain (R12 to R16). -/
inductive Place where
  | stack
  | queue (n : QueueName)
  | record (r : FileRecord)

/-- The blocks of a place. -/
def Place.blocks (st : Store) : Place → List Nat
  | .stack => st.free
  | .queue n => blocksOf st n
  | .record r => blocksOfChain st r.chain

/-- All places. -/
def places (file : List FileRecord) : List Place :=
  .stack :: .queue .send :: .queue .print :: .queue .punch :: file.map .record

/-- The blocks of all places. -/
def heldIn (st : Store) (file : List FileRecord) : List Nat := (places file).flatMap (Place.blocks st)

theorem heldIn_eq (st : Store) (file : List FileRecord) :
    heldIn st file = st.free ++ blocksOf st .send ++ blocksOf st .print ++ blocksOf st .punch
      ++ (file.map fun r => blocksOfChain st r.chain).flatten := by
  simp [heldIn, places, Place.blocks, List.flatMap, Function.comp_def]

/-- Every block in one place, and every chain whole, over a store and the file's records. -/
structure OneHolder (st : Store) (file : List FileRecord) : Prop where
  perm : (heldIn st file).Perm (List.range 128)
  queues : ∀ n, QueueHolds st n (blocksOf st n)
  slots : (file.map FileRecord.slot).Nodup
  chains : ∀ r ∈ file, ChainHolds st r.chain (blocksOfChain st r.chain)

theorem blocksHaveOneHolder_iff {s : State} : blocksHaveOneHolder s ↔ OneHolder s.cs s.au.file := by
  constructor
  · rintro ⟨perm, queues, slots, chains⟩
    exact ⟨(heldIn_eq _ _).symm ▸ perm, fun n => .of_inOrder (queues n), slots, fun r mem => .of_inOrder (chains r mem)⟩
  · rintro ⟨perm, queues, slots, chains⟩
    rw [heldIn_eq] at perm
    exact ⟨perm, fun n => (queues n).inOrder, slots, fun r mem => (chains r mem).inOrder⟩

namespace OneHolder

variable {st : Store} {file : List FileRecord} (h : OneHolder st file)
include h

theorem nodup : (heldIn st file).Nodup := h.perm.nodup_iff.mpr List.nodup_range

theorem nodup_file : file.Nodup := List.Nodup.of_map _ h.slots

/-- The blocks of one place are distinct. -/
theorem nodup_place {p : Place} (mem : p ∈ places file) : (p.blocks st).Nodup :=
  (List.nodup_flatMap.mp h.nodup).1 p mem

/-- Two places hold no block in common. -/
theorem apart {p q : Place} (hp : p ∈ places file) (hq : q ∈ places file) (ne : p ≠ q) :
    (p.blocks st).Disjoint (q.blocks st) := by
  have symm : Std.Symm (Function.onFun List.Disjoint (Place.blocks st)) := ⟨fun _ _ d => d.symm⟩
  exact (List.nodup_flatMap.mp h.nodup).2.forall hp hq ne

end OneHolder

theorem stack_mem (file : List FileRecord) : Place.stack ∈ places file := by simp [places]
theorem queue_mem (file : List FileRecord) (n : QueueName) : Place.queue n ∈ places file := by
  cases n <;> simp [places]
theorem record_mem {file : List FileRecord} {r : FileRecord} (mem : r ∈ file) : Place.record r ∈ places file := by
  simp [places, mem]

/-- Places apart from two are apart from what those two hold together. -/
theorem disjoint_touched {bs as cs touched : List Nat} (sub : touched ⊆ as ++ cs) (ha : bs.Disjoint as)
    (hc : bs.Disjoint cs) : bs.Disjoint touched := fun x hx ht => by
  rcases List.mem_append.mp (sub ht) with mem | mem
  · exact ha hx mem
  · exact hc hx mem

/-! ### What an act on one place leaves of the others -/

/-- The cells of every queue but one, and of every chain of the file, are as they were. -/
def KeepsButQueue (n : QueueName) (file : List FileRecord) (st st' : Store) : Prop :=
  (∀ m, m ≠ n → st'.queueCells m = st.queueCells m) ∧ ∀ r ∈ file, ∀ i, st'.chainCell r.chain i = st.chainCell r.chain i

theorem KeepsButQueue.trans {n : QueueName} {file : List FileRecord} {a b c : Store} (h : KeepsButQueue n file a b)
    (k : KeepsButQueue n file b c) : KeepsButQueue n file a c :=
  ⟨fun m hm => (k.1 m hm).trans (h.1 m hm), fun r mem i => (k.2 r mem i).trans (h.2 r mem i)⟩

/-- The cells of every queue, and of every chain but that of one slot, are as they were. -/
def KeepsButRecord (slot : Fin 24) (file : List FileRecord) (st st' : Store) : Prop :=
  (∀ m, st'.queueCells m = st.queueCells m)
    ∧ ∀ x ∈ file, x.slot ≠ slot → ∀ i, st'.chainCell x.chain i = st.chainCell x.chain i

theorem heldIn_perm_of_count {st st' : Store} {file file' : List FileRecord}
    (h : ∀ x, (heldIn st' file').count x = (heldIn st file).count x) (perm : (heldIn st file).Perm (List.range 128)) :
    (heldIn st' file').Perm (List.range 128) := (List.perm_iff_count.mpr h).trans perm

/-- An act on one queue that gives and takes blocks with the stack alone. -/
theorem OneHolder.queueAct {st st' : Store} {file : List FileRecord} (h : OneHolder st file) {n : QueueName}
    {bs touched : List Nat} (holds : QueueHolds st' n bs) (records : ∀ m, m ≠ n → st'.queue m = st.queue m)
    (same : SameOutside touched st st') (sub : touched ⊆ blocksOf st n ++ st.free)
    (moved : (bs ++ st'.free).Perm (blocksOf st n ++ st.free)) :
    OneHolder st' file ∧ KeepsButQueue n file st st' := by
  have queues (m : QueueName) (hm : m ≠ n) : QueueHolds st' m (blocksOf st m) ∧ st'.queueCells m = st.queueCells m :=
    (h.queues m).frame (records m hm) same
      (disjoint_touched sub (h.apart (queue_mem _ m) (queue_mem _ n) (by simpa using hm))
        (h.apart (queue_mem _ m) (stack_mem _) (by simp)))
  have chains (r : FileRecord) (mem : r ∈ file) :=
    (h.chains r mem).frame same
      (disjoint_touched sub (h.apart (record_mem mem) (queue_mem _ n) (by simp))
        (h.apart (record_mem mem) (stack_mem _) (by simp)))
  have blocks (r : FileRecord) (mem : r ∈ file) : blocksOfChain st' r.chain = blocksOfChain st r.chain :=
    (chains r mem).1.blocks
  have flat : (file.map fun r => blocksOfChain st' r.chain) = file.map fun r => blocksOfChain st r.chain :=
    List.map_congr_left blocks
  refine ⟨⟨heldIn_perm_of_count (fun x => ?_) h.perm, fun m => ?_, h.slots, fun r mem => ?_⟩,
    fun m hm => (queues m hm).2, fun r mem => (chains r mem).2⟩
  · have moves := List.perm_iff_count.mp moved x
    rw [heldIn_eq, heldIn_eq, flat]
    have others (m : QueueName) (hm : m ≠ n) : blocksOf st' m = blocksOf st m := (queues m hm).1.blocks
    have own : blocksOf st' n = bs := holds.blocks
    simp only [List.count_append] at moves ⊢
    cases n
    · rw [own, others .print (by simp), others .punch (by simp)]; omega
    · rw [own, others .send (by simp), others .punch (by simp)]; omega
    · rw [own, others .send (by simp), others .print (by simp)]; omega
  · by_cases hm : m = n
    · subst hm; rw [holds.blocks]; exact holds
    · rw [(queues m hm).1.blocks]; exact (queues m hm).1
  · rw [blocks r mem]; exact (chains r mem).1

/-- An act on the chain of one record that gives and takes blocks with the stack alone: the record is changed in its place
(`some`), or gone (`none`). -/
theorem OneHolder.recordAct {st st' : Store} {a b : List FileRecord} {r : FileRecord} {r' : Option FileRecord}
    (h : OneHolder st (a ++ r :: b)) {bs touched : List Nat}
    (holds : ∀ y, r' = some y → ChainHolds st' y.chain bs ∧ y.slot = r.slot) (gone : r' = none → bs = [])
    (records : ∀ m, st'.queue m = st.queue m) (same : SameOutside touched st st')
    (sub : touched ⊆ blocksOfChain st r.chain ++ st.free)
    (moved : (bs ++ st'.free).Perm (blocksOfChain st r.chain ++ st.free)) :
    OneHolder st' (a ++ r'.toList ++ b) ∧ KeepsButRecord r.slot (a ++ r :: b) st st' := by
  have self : r ∈ a ++ r :: b := by simp
  have queues (m : QueueName) : QueueHolds st' m (blocksOf st m) ∧ st'.queueCells m = st.queueCells m :=
    (h.queues m).frame (records m) same
      (disjoint_touched sub (h.apart (queue_mem _ m) (record_mem self) (by simp))
        (h.apart (queue_mem _ m) (stack_mem _) (by simp)))
  have chains (x : FileRecord) (mem : x ∈ a ++ r :: b) (other : x ≠ r) :=
    (h.chains x mem).frame same
      (disjoint_touched sub (h.apart (record_mem mem) (record_mem self) (by simpa using other))
        (h.apart (record_mem mem) (stack_mem _) (by simp)))
  have apart : ∀ x ∈ a ++ b, x ∈ a ++ r :: b ∧ x ≠ r := by
    have nodup := h.nodup_file
    have : r ∉ a ++ b := (List.nodup_cons.mp (List.perm_middle.nodup_iff.mp nodup)).1
    intro x mem
    refine ⟨?_, fun e => this (e ▸ mem)⟩
    rcases List.mem_append.mp mem with mem | mem <;> simp [mem]
  have blocks (x : FileRecord) (mem : x ∈ a ++ b) : blocksOfChain st' x.chain = blocksOfChain st x.chain :=
    (chains x (apart x mem).1 (apart x mem).2).1.blocks
  have flat (c : List FileRecord) (sub : c ⊆ a ++ b) :
      (c.map fun x => blocksOfChain st' x.chain) = c.map fun x => blocksOfChain st x.chain :=
    List.map_congr_left fun x mem => blocks x (sub mem)
  have own : (r'.toList.map fun x => blocksOfChain st' x.chain).flatten = bs := by
    cases e : r' with
    | none => simp [gone e]
    | some y => simp [(holds y e).1.blocks]
  refine ⟨⟨heldIn_perm_of_count (fun x => ?_) h.perm, fun m => ?_, ?_, fun x mem => ?_⟩, fun m => (queues m).2,
    fun x mem ne => (chains x mem fun e => ne (e ▸ rfl)).2⟩
  · have moves := List.perm_iff_count.mp moved x
    have others (m : QueueName) : blocksOf st' m = blocksOf st m := (queues m).1.blocks
    rw [heldIn_eq, heldIn_eq]
    simp only [List.map_append, List.flatten_append, own, flat a (by simp), flat b (by simp), others, List.map_cons,
      List.flatten_cons, List.count_append] at moves ⊢
    omega
  · rw [(queues m).1.blocks]; exact (queues m).1
  · have slots := h.slots
    cases e : r' with
    | none =>
      simp only [List.map_append, List.map_cons, Option.toList_none, List.append_nil] at slots ⊢
      exact slots.sublist ((List.Sublist.refl _).append (List.sublist_cons_self _ _))
    | some y =>
      simpa [(holds y e).2] using slots
  · by_cases old : x ∈ a ++ b
    · rw [blocks x old]; exact (chains x (apart x old).1 (apart x old).2).1
    · have new : r' = some x := by
        simp only [List.mem_append, Option.mem_toList] at mem old
        tauto
      rw [(holds x new).1.blocks]; exact (holds x new).1

/-! ### A run appended to a queue (R17, R18) -/

theorem pushRun_nil (st : Store) (n : QueueName) : st.pushRun n [] = st := rfl
theorem pushRun_cons (st : Store) (n : QueueName) (c : Cell) (run : List Cell) :
    st.pushRun n (c :: run) = (Store.pushCell n st c).pushRun n run := rfl

/-- A cell appended with room for it, or a block to take: it is the queue's newest, and nothing else moves. -/
theorem OneHolder.pushCell {st : Store} {file : List FileRecord} (h : OneHolder st file) (n : QueueName) (c : Cell) :
    OneHolder (Store.pushCell n st c) file ∧ KeepsButQueue n file st (Store.pushCell n st c)
      ∧ ((st.queue n).room ≠ 0 ∨ st.free ≠ [] →
          (Store.pushCell n st c).queueCells n = st.queueCells n ++ [c]) := by
  have records (m : QueueName) (hm : m ≠ n) := Store.queue_pushCell_ne (st := st) c hm
  have nodup : (blocksOf st n).Nodup := h.nodup_place (queue_mem _ n)
  by_cases room : (st.queue n).room = 0
  · cases free : st.free with
    | nil =>
      rw [pushCell_without c room free]
      exact ⟨h, ⟨fun _ _ => rfl, fun _ _ _ => rfl⟩, fun k => by simp [room] at k⟩
    | cons b rest =>
      have apart : (blocksOf st n).Disjoint st.free := h.apart (queue_mem _ n) (stack_mem _) (by simp)
      have fresh : (blocksOf st n ++ [b]).Nodup :=
        List.nodup_append_comm.mp (List.nodup_cons.mpr ⟨fun mem => apart mem (by simp [free]), nodup⟩)
      obtain ⟨holds, cells, same, free'⟩ := (h.queues n).push_in_block fresh c room free
      obtain ⟨whole, keeps⟩ := h.queueAct holds records same (by simp [free]) (by simp [free', free])
      exact ⟨whole, keeps, fun _ => cells⟩
  · obtain ⟨holds, cells, same, free'⟩ := (h.queues n).push_in_room nodup c room
    obtain ⟨whole, keeps⟩ := h.queueAct holds records same (by simp) (by rw [free'])
    exact ⟨whole, keeps, fun _ => cells⟩

/-- The counts and the stack after a cell appended where there is room for it. -/
theorem pushCell_counts_in_room {st : Store} {n : QueueName} (c : Cell) (room : (st.queue n).room ≠ 0) :
    let st' := Store.pushCell n st c
    (st'.queue n).room = (st.queue n).room - 1 ∧ (st'.queue n).cellCount = (st.queue n).cellCount + 1
      ∧ (st'.queue n).blockCount = (st.queue n).blockCount ∧ st'.free = st.free := by
  obtain ⟨t, tail, small⟩ : ∃ t, (st.queue n).tail = some t ∧ (st.queue n).tailIndex < 31 := by
    by_contra no
    exact room (room_eq_zero.mpr fun t tail => Nat.le_of_not_lt fun small => no ⟨t, tail, small⟩)
  dsimp only
  rw [pushCell_in_room c tail small]
  simp only [Store.queue_setQueue, Store.setQueue_free, Queue.room, tail, and_true]
  omega

/-- The counts and the stack after a cell appended in a block taken. -/
theorem pushCell_counts_in_block {st : Store} {n : QueueName} (c : Cell) {b : Nat} {rest : List Nat}
    (room : (st.queue n).room = 0) (free : st.free = b :: rest) :
    let st' := Store.pushCell n st c
    (st'.queue n).room = 31 ∧ (st'.queue n).cellCount = (st.queue n).cellCount + 1
      ∧ (st'.queue n).blockCount = (st.queue n).blockCount + 1 ∧ st'.free = rest := by
  dsimp only
  rw [pushCell_in_block c room free]
  simp [Queue.room]

/-- A run whose blocks stand on the stack goes in whole: its cells and its blocks are counted, the blocks taken from the
top. -/
theorem pushRun_counts {st : Store} {n : QueueName} {run : List Cell}
    (enough : (st.queue n).blocksNeeded run ≤ st.free.length) :
    let st' := st.pushRun n run
    (st'.queue n).cellCount = (st.queue n).cellCount + run.length
      ∧ (st'.queue n).blockCount = (st.queue n).blockCount + (st.queue n).blocksNeeded run
      ∧ st'.free = st.free.drop ((st.queue n).blocksNeeded run) := by
  induction run generalizing st with
  | nil => simp [pushRun_nil, Queue.blocksNeeded, blocksFor]
  | cons c run ih =>
    have needed := blocksFor_succ (st.queue n).room run.length
    simp only [Queue.blocksNeeded, List.length_cons, pushRun_cons] at enough ih ⊢
    by_cases room : (st.queue n).room = 0
    · rw [if_pos room] at needed
      rw [needed] at enough ⊢
      cases free : st.free with
      | nil => simp [free] at enough
      | cons b rest =>
        obtain ⟨room', cells, blocks, free'⟩ := pushCell_counts_in_block c room free
        rw [free, List.length_cons] at enough
        have rest' := ih (st := Store.pushCell n st c) (by rw [room', free']; omega)
        rw [room', cells, blocks, free'] at rest'
        obtain ⟨cells', blocks', stack⟩ := rest'
        exact ⟨by rw [cells']; omega, by rw [blocks']; omega, by rw [stack, Nat.add_comm 1, List.drop_succ_cons]⟩
    · rw [if_neg room] at needed
      rw [needed] at enough ⊢
      obtain ⟨room', cells, blocks, free'⟩ := pushCell_counts_in_room c room
      have rest' := ih (st := Store.pushCell n st c) (by rw [room', free']; omega)
      rw [room', cells, blocks, free'] at rest'
      obtain ⟨cells', blocks', stack⟩ := rest'
      exact ⟨by rw [cells']; omega, blocks', stack⟩

/-- A run appended keeps one holder for each block, and moves no other queue or chain. -/
theorem OneHolder.pushRun {st : Store} {file : List FileRecord} (h : OneHolder st file) (n : QueueName)
    (run : List Cell) : OneHolder (st.pushRun n run) file ∧ KeepsButQueue n file st (st.pushRun n run) := by
  induction run generalizing st with
  | nil => exact ⟨h, fun _ _ => rfl, fun _ _ _ => rfl⟩
  | cons c run ih =>
    obtain ⟨one, keeps, _⟩ := h.pushCell n c
    obtain ⟨whole, rest⟩ := ih one
    exact ⟨whole, keeps.trans rest⟩

/-- A run whose blocks stand on the stack follows what the queue held. -/
theorem OneHolder.queueCells_pushRun {st : Store} {file : List FileRecord} (h : OneHolder st file) {n : QueueName}
    {run : List Cell} (enough : (st.queue n).blocksNeeded run ≤ st.free.length) :
    (st.pushRun n run).queueCells n = st.queueCells n ++ run := by
  induction run generalizing st with
  | nil => simp [pushRun_nil]
  | cons c run ih =>
    have needed := blocksFor_succ (st.queue n).room run.length
    simp only [Queue.blocksNeeded, List.length_cons] at enough
    obtain ⟨one, _, cells⟩ := h.pushCell n c
    rw [pushRun_cons]
    by_cases room : (st.queue n).room = 0
    · rw [if_pos room] at needed
      cases free : st.free with
      | nil => rw [needed] at enough; simp [free] at enough
      | cons b rest =>
        obtain ⟨room', _, _, free'⟩ := pushCell_counts_in_block c room free
        rw [ih one (by simp only [Queue.blocksNeeded, room', free']; rw [free, needed] at enough; simp at enough; omega),
          cells (Or.inr (by simp [free])), List.append_assoc]
        rfl
    · rw [if_neg room] at needed
      obtain ⟨room', _, _, free'⟩ := pushCell_counts_in_room c room
      rw [ih one (by simp only [Queue.blocksNeeded, room', free']; omega), cells (Or.inl room), List.append_assoc]
      rfl

/-- Whatever there is of blocks, the queue keeps what it held as a beginning. -/
theorem OneHolder.prefix_pushRun {st : Store} {file : List FileRecord} (h : OneHolder st file) (n : QueueName)
    (run : List Cell) : st.queueCells n <+: (st.pushRun n run).queueCells n := by
  induction run generalizing st with
  | nil => exact List.prefix_rfl
  | cons c run ih =>
    obtain ⟨one, _, cells⟩ := h.pushCell n c
    refine List.IsPrefix.trans ?_ (ih one)
    by_cases room : (st.queue n).room ≠ 0 ∨ st.free ≠ []
    · rw [cells room]; exact List.prefix_append _ _
    · push Not at room
      rw [pushCell_without c room.1 room.2]

/-! ### A removal and a flush (R23, R25) -/

theorem OneHolder.popCell {st : Store} {file : List FileRecord} (h : OneHolder st file) (n : QueueName) :
    OneHolder (st.popCell n) file ∧ KeepsButQueue n file st (st.popCell n) := by
  have nodup : (blocksOf st n).Nodup := h.nodup_place (queue_mem _ n)
  have queue := h.queues n
  cases blocks : blocksOf st n with
  | nil =>
    have head : (st.queue n).head = none := by rw [queue.head, blocks]; rfl
    rw [popCell_of_none head]
    exact ⟨h, fun _ _ => rfl, fun _ _ _ => rfl⟩
  | cons b bs =>
    rw [blocks] at nodup queue
    obtain ⟨holds, _, same, free, _⟩ := queue.pop nodup
    refine h.queueAct holds (fun m hm => Store.queue_popCell_ne hm) same (by simp [blocks]) ?_
    rw [free, blocks]
    split_ifs
    · exact List.perm_middle
    · exact List.Perm.refl _

theorem OneHolder.popCells {st : Store} {file : List FileRecord} (h : OneHolder st file) (n : QueueName) (k : Nat) :
    OneHolder (Store.popCells n k st) file ∧ KeepsButQueue n file st (Store.popCells n k st) := by
  induction k generalizing st with
  | zero => exact ⟨h, fun _ _ => rfl, fun _ _ _ => rfl⟩
  | succ k ih =>
    obtain ⟨one, keeps⟩ := h.popCell n
    obtain ⟨whole, rest⟩ := ih one
    exact ⟨whole, keeps.trans rest⟩

theorem OneHolder.flushQueue {st : Store} {file : List FileRecord} (h : OneHolder st file) (n : QueueName) :
    OneHolder (st.flushQueue n) file ∧ KeepsButQueue n file st (st.flushQueue n)
      ∧ (st.flushQueue n).queueCells n = [] ∧ (st.flushQueue n).free = (blocksOf st n).reverse ++ st.free := by
  obtain ⟨holds, same, free⟩ := (h.queues n).flush
  obtain ⟨whole, keeps⟩ := h.queueAct holds (fun m hm => Store.queue_flushQueue_ne hm) same (by simp)
    (by rw [free]; simpa using (List.reverse_perm _).append_right _)
  refine ⟨whole, keeps, ?_, free⟩
  rw [holds.queueCells]
  simp [Store.queueKeys, Store.contents]

/-- A queue's record changed in its limit, its in-flight count or its mark alone. -/
theorem OneHolder.setQueue {st : Store} {file : List FileRecord} (h : OneHolder st file) {n : QueueName} {q : Queue}
    (same : { q with limit := (st.queue n).limit, inFlight := (st.queue n).inFlight
                     openMark := (st.queue n).openMark } = st.queue n) :
    OneHolder (st.setQueue n q) file ∧ KeepsButQueue n file st (st.setQueue n q)
      ∧ (st.setQueue n q).queueCells n = st.queueCells n := by
  have queue := h.queues n
  have fields : q.head = (st.queue n).head ∧ q.headIndex = (st.queue n).headIndex ∧ q.tail = (st.queue n).tail
      ∧ q.tailIndex = (st.queue n).tailIndex ∧ q.cellCount = (st.queue n).cellCount
      ∧ q.blockCount = (st.queue n).blockCount := by rw [← same]; exact ⟨rfl, rfl, rfl, rfl, rfl, rfl⟩
  obtain ⟨e1, e2, e3, e4, e5, e6⟩ := fields
  have holds : QueueHolds (st.setQueue n q) n (blocksOf st n) := by
    refine ⟨?_, ?_, ?_, linked_setQueue _ _ queue.linked, ?_, ?_, ?_, ?_⟩ <;> rw [Store.queue_setQueue]
    · rw [e6]; exact queue.count
    · rw [e1]; exact queue.head
    · rw [e3]; exact queue.tail
    · rw [e2]; exact queue.headIndex
    · rw [e4]; exact queue.tailIndex
    · rw [e5, e6]; exact queue.empty
    · rw [e2, e4, e5, e6]; exact queue.cells
  obtain ⟨whole, keeps⟩ := h.queueAct holds (fun m hm => Store.queue_setQueue_ne hm)
    (sameOutside_setQueue n q (SameOutside.refl [] st)) (by simp) (by simp)
  refine ⟨whole, keeps, ?_⟩
  rw [holds.queueCells, queue.queueCells, contents_setQueue]
  unfold Store.queueKeys
  rw [Store.queue_setQueue, e2, e5]

/-! ### The file's records (R16, R168 to R171) -/

/-- What of the records bears on the blocks: each one's slot and chain. -/
def slotsAndChains (file : List FileRecord) : List (Fin 24 × Chain) := file.map fun r => (r.slot, r.chain)

/-- Other fields of the records bear on no block. -/
theorem OneHolder.congr {st : Store} {file file' : List FileRecord} (h : OneHolder st file)
    (same : slotsAndChains file' = slotsAndChains file) : OneHolder st file' := by
  have chains : file'.map FileRecord.chain = file.map FileRecord.chain := by
    simpa [slotsAndChains, Function.comp_def] using congrArg (List.map Prod.snd) same
  have slots : file'.map FileRecord.slot = file.map FileRecord.slot := by
    simpa [slotsAndChains, Function.comp_def] using congrArg (List.map Prod.fst) same
  have flat : (file'.map fun r => blocksOfChain st r.chain) = file.map fun r => blocksOfChain st r.chain := by
    simpa [Function.comp_def] using congrArg (List.map (blocksOfChain st)) chains
  refine ⟨?_, h.queues, slots ▸ h.slots, fun r mem => ?_⟩
  · have perm := h.perm
    rw [heldIn_eq] at perm ⊢
    rwa [flat]
  · have : r.chain ∈ file.map FileRecord.chain := chains ▸ List.mem_map_of_mem mem
    obtain ⟨x, hx, e⟩ := List.mem_map.mp this
    exact e ▸ h.chains x hx

/-- The records but that of a slot, where one record has it. -/
theorem filter_slot_split {a b : List FileRecord} {r : FileRecord} (slots : ((a ++ r :: b).map FileRecord.slot).Nodup) :
    (a ++ r :: b).filter (fun x => x.slot ≠ r.slot) = a ++ b := by
  have other : ∀ x ∈ a ++ b, x.slot ≠ r.slot := by
    have apart := (List.nodup_cons.mp (List.perm_middle.nodup_iff.mp (by simpa using slots))).1
    intro x mem e
    exact apart (by rw [← e]; simpa using List.mem_map_of_mem (f := FileRecord.slot) mem)
  rw [List.filter_append, List.filter_cons_of_neg (by simp), ← List.filter_append]
  exact List.filter_eq_self.mpr fun x mem => by simpa using other x mem

/-- The records with that of a slot changed, where one record has it. -/
theorem map_slot_split {a b : List FileRecord} {r : FileRecord} (slots : ((a ++ r :: b).map FileRecord.slot).Nodup)
    (f : FileRecord → FileRecord) :
    ((a ++ r :: b).map fun x => if x.slot = r.slot then f x else x) = a ++ f r :: b := by
  have apart := (List.nodup_cons.mp (List.perm_middle.nodup_iff.mp (by simpa using slots))).1
  have other (c : List FileRecord) (sub : c ⊆ a ++ b) : (c.map fun x => if x.slot = r.slot then f x else x) = c := by
    refine (List.map_congr_left fun x mem => ?_).trans (List.map_id c)
    rw [if_neg]
    · rfl
    · intro e
      exact apart (by rw [← e]; simpa using List.mem_map_of_mem (f := FileRecord.slot) (sub mem))
  rw [List.map_append, List.map_cons, if_pos rfl, other a (by simp), other b (by simp)]

/-- A record deleted: its chain's blocks go to the stack, and nothing else moves (R25, R171). -/
theorem OneHolder.drop {st : Store} {file : List FileRecord} (h : OneHolder st file) {r : FileRecord} (mem : r ∈ file) :
    OneHolder (st.flushChain r.chain) (file.filter fun x => x.slot ≠ r.slot)
      ∧ KeepsButRecord r.slot file st (st.flushChain r.chain)
      ∧ (st.flushChain r.chain).free = (blocksOfChain st r.chain).reverse ++ st.free := by
  obtain ⟨a, b, rfl⟩ := List.append_of_mem mem
  have free : (st.flushChain r.chain).free = (blocksOfChain st r.chain).reverse ++ st.free := free_releaseAll _ _
  have act := h.recordAct (st' := st.flushChain r.chain) (r' := none) (bs := []) (touched := blocksOfChain st r.chain)
    (by simp) (by simp) (fun m => Store.queue_flushChain _ _ m) (sameOutside_releaseAll _ _) (by simp)
    (by rw [free]; simpa using (List.reverse_perm _).append_right _)
  rw [filter_slot_split h.slots]
  simpa [free] using act

/-- A record opened with no cells, in a slot that no record has (R169). -/
theorem OneHolder.opened {st : Store} {file : List FileRecord} (h : OneHolder st file) {r : FileRecord}
    (empty : r.chain = Chain.empty) (fresh : ∀ x ∈ file, x.slot ≠ r.slot) : OneHolder st (file ++ [r]) := by
  have holds : ChainHolds st r.chain [] := by
    rw [empty]; exact ⟨rfl, rfl, rfl, by simp [Linked]⟩
  refine ⟨?_, h.queues, ?_, fun x mem => ?_⟩
  · have perm := h.perm
    rw [heldIn_eq] at perm ⊢
    simpa [holds.blocks] using perm
  · rw [List.map_append, List.map_singleton]
    refine List.nodup_append_comm.mp (List.nodup_cons.mpr ⟨fun mem => ?_, h.slots⟩)
    obtain ⟨x, hx, e⟩ := List.mem_map.mp mem
    exact fresh x hx e
  · rcases List.mem_append.mp mem with mem | mem
    · exact h.chains x mem
    · rw [List.mem_singleton.mp mem, holds.blocks]; exact holds

/-! ### A run appended to a record's chain (R16 to R18) -/

theorem pushChainRun_nil (st : Store) (ch : Chain) : st.pushChainRun ch [] = (st, ch) := rfl
theorem pushChainRun_cons (st : Store) (ch : Chain) (c : Cell) (run : List Cell) :
    st.pushChainRun ch (c :: run) =
      (Store.pushChainCell (st, ch) c).1.pushChainRun (Store.pushChainCell (st, ch) c).2 run := rfl

/-- A cell appended to a record's chain, with room for it or a block to take, is the chain's newest; nothing else moves. -/
theorem OneHolder.pushChainCell {st : Store} {a b : List FileRecord} {r : FileRecord} (h : OneHolder st (a ++ r :: b))
    (c : Cell) :
    let p := Store.pushChainCell (st, r.chain) c
    OneHolder p.1 (a ++ { r with chain := p.2 } :: b) ∧ KeepsButRecord r.slot (a ++ r :: b) st p.1
      ∧ (∀ i, i < r.chain.count → p.1.chainCell p.2 i = st.chainCell r.chain i)
      ∧ (r.chain.room ≠ 0 ∨ st.free ≠ [] →
          p.2.count = r.chain.count + 1 ∧ p.1.chainCell p.2 r.chain.count = some c
            ∧ p.2.room = (if r.chain.room = 0 then 31 else r.chain.room - 1)
            ∧ p.1.free = (if r.chain.room = 0 then st.free.tail else st.free)) := by
  have self : r ∈ a ++ r :: b := by simp
  have nodup : (blocksOfChain st r.chain).Nodup := h.nodup_place (record_mem self)
  have room' {ch : Chain} (count : ch.count = r.chain.count + 1) :
      ch.room = if r.chain.room = 0 then 31 else r.chain.room - 1 := by
    unfold Chain.room; rw [count]; split_ifs <;> omega
  have records (m : QueueName) : (Store.pushChainCell (st, r.chain) c).1.queue m = st.queue m :=
    Store.queue_pushChainCell _ _ _
  dsimp only
  by_cases room : r.chain.room = 0
  · cases free : st.free with
    | nil =>
      rw [pushChainCell_without c room free]
      exact ⟨h, ⟨fun _ => rfl, fun _ _ _ _ => rfl⟩, fun _ _ => rfl, fun k => by simp [room] at k⟩
    | cons x rest =>
      have apart : (blocksOfChain st r.chain).Disjoint st.free := h.apart (record_mem self) (stack_mem _) (by simp)
      have fresh : (blocksOfChain st r.chain ++ [x]).Nodup :=
        List.nodup_append_comm.mp (List.nodup_cons.mpr ⟨fun mem => apart mem (by simp [free]), nodup⟩)
      obtain ⟨holds, count, old, new, same, free'⟩ := (h.chains r self).push_in_block fresh c room free
      obtain ⟨whole, keeps⟩ := h.recordAct (r' := some { r with chain := (Store.pushChainCell (st, r.chain) c).2 })
        (by rintro y ⟨⟩; exact ⟨holds, rfl⟩) (by simp) records same (by simp [free]) (by simp [free', free])
      refine ⟨by simpa using whole, keeps, old, fun _ => ⟨count, new, room' count, ?_⟩⟩
      rw [free', if_pos room]; rfl
  · obtain ⟨holds, count, old, new, same, free'⟩ := (h.chains r self).push_in_room nodup c room
    obtain ⟨whole, keeps⟩ := h.recordAct (r' := some { r with chain := (Store.pushChainCell (st, r.chain) c).2 })
      (by rintro y ⟨⟩; exact ⟨holds, rfl⟩) (by simp) records same (by simp) (by rw [free'])
    refine ⟨by simpa using whole, keeps, old, fun _ => ⟨count, new, room' count, ?_⟩⟩
    rw [free', if_neg room]

theorem KeepsButRecord.through {slot : Fin 24} {a b : List FileRecord} {r r' : FileRecord} {st st' st'' : Store}
    (own : r.slot = slot) (h : KeepsButRecord slot (a ++ r :: b) st st')
    (k : KeepsButRecord slot (a ++ r' :: b) st' st'') : KeepsButRecord slot (a ++ r :: b) st st'' := by
  refine ⟨fun m => (k.1 m).trans (h.1 m), fun x mem ne i => ?_⟩
  have : x ∈ a ++ r' :: b := by
    simp only [List.mem_append, List.mem_cons] at mem ⊢
    rcases mem with mem | rfl | mem
    · exact Or.inl mem
    · exact absurd own ne
    · exact Or.inr (Or.inr mem)
  exact (k.2 x this ne i).trans (h.2 x mem ne i)

/-- A run appended to a record's chain keeps one holder for each block and moves no other queue or chain. -/
theorem OneHolder.pushChainRun {st : Store} {a b : List FileRecord} {r : FileRecord} (h : OneHolder st (a ++ r :: b))
    (run : List Cell) :
    let p := st.pushChainRun r.chain run
    OneHolder p.1 (a ++ { r with chain := p.2 } :: b) ∧ KeepsButRecord r.slot (a ++ r :: b) st p.1 := by
  induction run generalizing st r with
  | nil => exact ⟨h, fun _ => rfl, fun _ _ _ _ => rfl⟩
  | cons c run ih =>
    obtain ⟨one, keeps, _⟩ := h.pushChainCell c
    obtain ⟨whole, rest⟩ := ih one
    exact ⟨whole, KeepsButRecord.through rfl keeps rest⟩

/-- A run whose blocks stand on the stack follows what the chain held. -/
theorem OneHolder.chainCells_pushChainRun {st : Store} {a b : List FileRecord} {r : FileRecord}
    (h : OneHolder st (a ++ r :: b)) {run : List Cell} (enough : r.chain.blocksNeeded run ≤ st.free.length) :
    let p := st.pushChainRun r.chain run
    p.2.count = r.chain.count + run.length
      ∧ (∀ i, i < r.chain.count → p.1.chainCell p.2 i = st.chainCell r.chain i)
      ∧ ∀ i, i < run.length → p.1.chainCell p.2 (r.chain.count + i) = run[i]? := by
  induction run generalizing st r with
  | nil => exact ⟨rfl, fun _ _ => rfl, fun _ small => absurd small (by simp)⟩
  | cons c run ih =>
    have needed := blocksFor_succ r.chain.room run.length
    simp only [Chain.blocksNeeded, List.length_cons] at enough
    have some : r.chain.room ≠ 0 ∨ st.free ≠ [] := by
      by_cases room : r.chain.room = 0
      · right; rintro free; rw [free, needed, if_pos room] at enough; simp at enough
      · exact Or.inl room
    obtain ⟨one, _, old, more⟩ := h.pushChainCell c
    obtain ⟨count, new, room', free'⟩ := more some
    obtain ⟨count', old', new'⟩ := ih one (by
      simp only [Chain.blocksNeeded, room', free']
      split_ifs at needed ⊢
      · simp only [List.length_tail]; omega
      · omega)
    simp only [count] at count' old' new'
    refine ⟨by rw [pushChainRun_cons, count', List.length_cons]; omega, fun i small => ?_, fun i small => ?_⟩
    · exact (old' i (by omega)).trans (old i small)
    · cases i with
      | zero => exact (old' _ (by omega)).trans new
      | succ i =>
        have cell := new' i (by simpa using small)
        rw [Nat.add_assoc, Nat.add_comm 1 i] at cell
        rw [List.getElem?_cons_succ, ← cell]
        rfl

end Sys2Proof.Machine
end

section
/-!
Appends, notices, removals, flushes and deletions, as the character store holds them (R14 to R27, R79, R134).
-/

namespace Sys2Proof.Machine

/-! ### The space check and an append (R17 to R19, R27) -/

theorem reservePasses_iff (c : ReserveClass) (free needed : Nat) :
    reservePasses c free needed = true ↔
      needed = 0 ∨ needed + (match c with | .respect => 5 | .mayUse => 0) ≤ free := by
  cases c <;> simp [reservePasses]

theorem spaceCheck_iff (st : Store) (n : QueueName) (c : ReserveClass) (run : List Cell) :
    st.spaceCheck n c run = true ↔
      (st.queue n).blockCount + (st.queue n).blocksNeeded run ≤ (st.queue n).limit
        ∧ reservePasses c st.free.length ((st.queue n).blocksNeeded run) = true := by
  simp [Store.spaceCheck, Queue.limitPasses, Store.freeCount]

/-- A run that passes the reserve test finds its blocks on the stack. -/
theorem enough_of_reserve {c : ReserveClass} {free needed : Nat} (passes : reservePasses c free needed = true) :
    needed ≤ free := by
  have := (reservePasses_iff c free needed).mp passes
  omega

theorem enough_of_spaceCheck {st : Store} {n : QueueName} {c : ReserveClass} {run : List Cell}
    (passes : st.spaceCheck n c run = true) : (st.queue n).blocksNeeded run ≤ st.free.length :=
  enough_of_reserve ((spaceCheck_iff st n c run).mp passes).2

theorem placeRun_eq (n : QueueName) (run : List Cell) (s : State) :
    placeRun n run s =
      { s with
        cs := s.cs.pushRun n run
        cm.sendTimer :=
          if n = .send ∧ run ≠ [] ∧ s.cs.send.cellCount ≤ s.cs.send.inFlight then .running (ms 400)
          else s.cm.sendTimer } := by
  unfold placeRun startSendTimer Store.unsentCount
  simp only [Nat.sub_eq_zero_iff_le]
  split_ifs <;> rfl

theorem appendRun_refused {n : QueueName} {c : ReserveClass} {run : List Cell} {s : State}
    (fails : s.cs.spaceCheck n c run = false) : appendRun n c run s = none := by simp [appendRun, fails]

/-- A run that passes is placed, and the flow levels are tested where it takes a block. -/
theorem appendRun_passed {n : QueueName} {c : ReserveClass} {run : List Cell} {s : State}
    (passes : s.cs.spaceCheck n c run = true) :
    appendRun n c run s =
      some (if (s.cs.queue n).blocksNeeded run = 0 then placeRun n run s else flowTest (placeRun n run s)) := by
  by_cases zero : (s.cs.queue n).blocksNeeded run = 0 <;> simp [appendRun, passes, signal, takesBlock, zero, blockTaken]

theorem notice_absent {n : Notice} {s : State} (absent : s.pu.present = false) : notice n s = s := by
  simp [notice, absent]

theorem notice_present {n : Notice} {s : State} (present : s.pu.present = true) :
    notice n s = (appendRun .print .mayUse n.run s).getD s := by simp [notice, present]

/-! ### What a removal leaves (R23) -/

/-- A queue with a head cell, through a removal. -/
theorem popCell_of_cell {st : Store} {file : List FileRecord} (h : OneHolder st file) {n : QueueName} {c : Cell}
    (head : st.headCell n = some c) :
    let q := st.queue n
    let emptied := q.headIndex = 31 ∨ q.cellCount = 1
    st.queueCells n = c :: (st.popCell n).queueCells n
      ∧ ((st.popCell n).queue n).cellCount = q.cellCount - 1
      ∧ ((st.popCell n).queue n).blockCount = (if emptied then q.blockCount - 1 else q.blockCount)
      ∧ (st.popCell n).free = (if emptied then q.head.toList ++ st.free else st.free) := by
  have nodup : (blocksOf st n).Nodup := h.nodup_place (queue_mem _ n)
  have queue := h.queues n
  cases blocks : blocksOf st n with
  | nil =>
    have none : (st.queue n).head = none := by rw [queue.head, blocks]; rfl
    simp [Store.headCell, none] at head
  | cons b bs =>
    rw [blocks] at nodup queue
    obtain ⟨holds, cells, _, free, count⟩ := queue.pop nodup
    rw [head] at cells
    refine ⟨cells, count, ?_, ?_⟩
    · rw [holds.count, queue.count]
      split_ifs <;> simp
    · rw [free, queue.head]; rfl

/-- Settles O22: the space check by its two tests, and each act by what it leaves of the queue or the chain it acts on, over a
store with one holder for each block. -/
theorem appendPassesTheSpaceCheck : Obligations.AppendPassesTheSpaceCheck := by
  refine ⟨fun n c run s => ?_, fun n s => ⟨rfl, notice_absent, notice_present⟩, fun n s holder => ?_⟩
  · intro q room needed passes
    have needs : needed = (s.cs.queue n).blocksNeeded run := rfl
    have check : passes ↔ s.cs.spaceCheck n c run = true :=
      ((spaceCheck_iff s.cs n c run).trans (and_congr_right fun _ => reservePasses_iff c _ _)).symm
    refine ⟨fun fails => appendRun_refused (by simpa using fun k => fails (check.mpr k)), fun pass => ?_⟩
    have pass := check.mp pass
    have enough := enough_of_spaceCheck pass
    obtain ⟨cells, blocks, free⟩ := pushRun_counts enough
    refine ⟨by rw [appendRun_passed pass, placeRun_eq, needs], cells, blocks, free, fun holder => ?_⟩
    have one := blocksHaveOneHolder_iff.mp holder
    obtain ⟨_, queues, chains⟩ := one.pushRun n run
    exact ⟨one.queueCells_pushRun enough, queues, chains⟩
  · have one := blocksHaveOneHolder_iff.mp holder
    obtain ⟨_, popQueues, popChains⟩ := one.popCell n
    obtain ⟨_, ⟨flushQueues, flushChains⟩, cells, free⟩ := one.flushQueue n
    have record := Store.queue_flushQueue s.cs n
    refine ⟨fun c head => popCell_of_cell one head, cells, ?_, ?_, ?_, free,
      fun m hm => ⟨popQueues m hm, flushQueues m hm⟩, fun r mem i => ⟨popChains r mem i, flushChains r mem i⟩,
      fun r mem => ?_⟩
    · rw [record]; rfl
    · rw [record]; rfl
    · rw [record]
    · obtain ⟨_, ⟨queues, chains⟩, free⟩ := one.drop mem
      exact ⟨free, queues, chains⟩

/-! ### Device reset (R29, R179) -/

theorem queueHolds_empty {st : Store} {n : QueueName} {limit : Nat} (record : st.queue n = Queue.empty limit) :
    QueueHolds st n [] :=
  queueHolds_emptied (q := st.queue n) (by simp [record, Queue.empty]) (by simp [record, Queue.empty])
    (by simp [record, Queue.empty, Queue.emptied])

theorem oneHolder_reset (l : Limits) : OneHolder (Store.reset l) [] := by
  have queues (n : QueueName) : QueueHolds (Store.reset l) n [] := by
    cases n
    · exact queueHolds_empty (limit := l.send) rfl
    · exact queueHolds_empty (limit := l.print) rfl
    · exact queueHolds_empty (limit := l.punch) rfl
  refine ⟨?_, fun n => (queues n).blocks.symm ▸ queues n, List.nodup_nil, fun _ mem => absurd mem List.not_mem_nil⟩
  rw [heldIn_eq, (queues .send).blocks, (queues .print).blocks, (queues .punch).blocks]
  exact List.Perm.of_eq (by simp [Store.reset])

/-- Settles O15, invariant by invariant. -/
theorem resetMeetsTheInvariants : Obligations.ResetMeetsTheInvariants := by
  refine ⟨⟨rfl, rfl⟩, ?_, fun k => absurd rfl k, ?_, ?_, ?_, ?_, ?_, ?_, ?_,
    blocksHaveOneHolder_iff.mpr (oneHolder_reset _), fun n => ?_, fun _ => ⟨rfl, rfl, rfl, rfl, rfl, rfl, rfl, rfl⟩⟩
  · simp [keyboardBounds, State.reset, KeyboardUnit.reset]
  · simp [heatInRange, State.reset, PrintUnit.reset]
  · simp [ringFollowsRecord, State.reset, AnsweringUnit.reset, MotorTerminal.reset, CallManager.reset, CallRecord.reset]
  · simp [motorFollowsDemand, State.reset, MotorTerminal.reset, demandHeld]
  · simp [holdsOnlyInOpen, State.reset, CallManager.reset, CallRecord.reset]
  · simp [callHoldsView, State.reset, CallManager.reset, CallRecord.reset, LineView.reset]
  · simp [fileInOrder, State.reset, AnsweringUnit.reset]
  · simp [inFlightIsTheText, liveText, State.reset, Store.reset, Queue.empty, LineUnit.reset]
  · cases n <;> exact Nat.zero_le _

/-- Settles O23: RESET taken low puts every block at its device-reset values; its release, before the load has ended, is
followed by nothing. -/
theorem deviceReset : Obligations.DeviceReset := by
  refine ⟨fun s => rfl, fun s => ⟨_, rfl, ?_⟩, fun straps lines s low => ?_⟩
  · refine ⟨rfl, rfl, rfl, rfl, rfl, rfl, rfl, rfl, rfl, rfl, rfl, rfl, rfl, rfl, rfl, rfl, rfl, rfl, rfl, rfl, rfl,
      rfl, rfl, rfl, fun n => ?_, rfl, rfl, rfl, rfl, rfl, rfl, rfl, rfl, rfl, rfl, rfl, rfl, rfl, rfl, rfl, rfl, rfl,
      rfl, rfl, rfl, rfl, rfl, rfl, rfl, rfl, rfl, rfl, fun _ => rfl, rfl, rfl, rfl, rfl, rfl, rfl, rfl, rfl⟩
    cases n <;> exact ⟨rfl, rfl, rfl, rfl, rfl, rfl⟩
  · have unloaded : loaded (release straps lines s) = false := by simp [loaded, release]
    show actIf s.cl.resetLow (release straps lines) s = _
    rw [actIf_of _ s low, settle_of_not_loaded unloaded]
    rfl

end Sys2Proof.Machine
end

section
/-!
What an act does to the store and the file: it is a row of moves, each on one queue, one chain or the file's list. The moves that
follow a call's end (runs to PRINT, the flags of records, records that go) stand apart as `PrintMove`: they leave SEND and
PUNCH with what they hold, and PRINT with what it held first.
-/

namespace Sys2Proof.Machine

/-! ### Moves -/

/-- The store and the file's records. -/
abbrev Holding : Type := Store × List FileRecord

/-- What a state holds. -/
def storeFile (s : State) : Holding := (s.cs, s.au.file)

/-- A record without the two flags of printing (R168). -/
def FileRecord.unflagged (r : FileRecord) : FileRecord := { r with printed := false, printStarted := false }

/-- The moves of notices, replay headers and the print cursor: a run to PRINT, flags of records changed, a record gone whose
chain may go. -/
inductive PrintMove (may : Chain → Prop) : Holding → Holding → Prop where
  | append (st : Store) (file : List FileRecord) (run : List Cell) (passes : st.print.limitPasses run = true) :
    PrintMove may (st, file) (st.pushRun .print run, file)
  | flags (st : Store) (file : List FileRecord) (f : FileRecord → FileRecord)
      (same : ∀ r, (f r).unflagged = r.unflagged) : PrintMove may (st, file) (st, file.map f)
  | drop (st : Store) (file : List FileRecord) (r : FileRecord) (mem : ∃ x ∈ file, x.unflagged = r.unflagged)
      (gone : may r.chain) :
    PrintMove may (st, file) (st.flushChain r.chain, file.filter fun x => x.slot ≠ r.slot)

theorem slot_of_unflagged {r x : FileRecord} (h : r.unflagged = x.unflagged) : r.slot = x.slot := by
  simpa only [FileRecord.unflagged] using congrArg FileRecord.slot h
theorem chain_of_unflagged {r x : FileRecord} (h : r.unflagged = x.unflagged) : r.chain = x.chain := by
  simpa only [FileRecord.unflagged] using congrArg FileRecord.chain h

/-- A row of such moves. -/
def PrintMoves (may : Chain → Prop) : Holding → Holding → Prop := Relation.ReflTransGen (PrintMove may)

/-- The store with the chains of these records flushed, one after the other. -/
def Store.flushChains (st : Store) (rs : List FileRecord) : Store := rs.foldl (fun x r => x.flushChain r.chain) st

/-- All moves of the machine on the store and the file, but for the limits set at the end of the load. -/
inductive Move : Holding → Holding → Prop where
  | print {p q : Holding} (move : PrintMove (fun _ => True) p q) : Move p q
  | append (st : Store) (file : List FileRecord) (n : QueueName) (run : List Cell)
      (passes : (st.queue n).limitPasses run = true) : Move (st, file) (st.pushRun n run, file)
  | remove (st : Store) (file : List FileRecord) (n : QueueName) : Move (st, file) (st.popCell n, file)
  | flush (st : Store) (file : List FileRecord) (n : QueueName) : Move (st, file) (st.flushQueue n, file)
  | mark (st : Store) (file : List FileRecord) (n : QueueName) (inFlight : Nat) (openMark : Option Station) :
    Move (st, file) (st.setQueue n { st.queue n with inFlight := inFlight, openMark := openMark }, file)
  | records (st : Store) (file : List FileRecord) (f : FileRecord → FileRecord)
      (same : ∀ r, (f r).slot = r.slot ∧ (f r).chain = r.chain) : Move (st, file) (st, file.map f)
  | opened (st : Store) (file : List FileRecord) (r : FileRecord) (empty : r.chain = Chain.empty)
      (fresh : ∀ x ∈ file, x.slot ≠ r.slot) : Move (st, file) (st, file ++ [r])
  | fileRun (st : Store) (file : List FileRecord) (r : FileRecord) (mem : r ∈ file) (run : List Cell)
      (f : FileRecord → FileRecord)
      (same : ∀ x, (f x).slot = x.slot ∧ (f x).chain = (st.pushChainRun r.chain run).2) :
    Move (st, file) ((st.pushChainRun r.chain run).1, file.map fun x => if x.slot = r.slot then f x else x)
  | drops (st : Store) (file : List FileRecord) (rs : List FileRecord) (sub : rs.Sublist file) :
    Move (st, file) (st.flushChains rs, file.filter fun x => x.slot ∉ rs.map FileRecord.slot)

/-- A row of moves. -/
def Moves : Holding → Holding → Prop := Relation.ReflTransGen Move

theorem PrintMoves.refl {may : Chain → Prop} (p : Holding) : PrintMoves may p p := Relation.ReflTransGen.refl
theorem PrintMoves.trans {may : Chain → Prop} {p q r : Holding} (h : PrintMoves may p q) (k : PrintMoves may q r) :
    PrintMoves may p r := Relation.ReflTransGen.trans h k
theorem PrintMove.moves {may : Chain → Prop} {p q : Holding} (h : PrintMove may p q) : PrintMoves may p q :=
  Relation.ReflTransGen.single h
theorem Moves.refl (p : Holding) : Moves p p := Relation.ReflTransGen.refl
theorem Moves.trans {p q r : Holding} (h : Moves p q) (k : Moves q r) : Moves p r := Relation.ReflTransGen.trans h k
theorem Move.moves {p q : Holding} (h : Move p q) : Moves p q := Relation.ReflTransGen.single h

theorem Moves.of_eq {p q : Holding} (h : q = p) : Moves p q := h ▸ Moves.refl p

theorem PrintMove.mono {some more : Chain → Prop} (sub : ∀ ch, some ch → more ch) {p q : Holding}
    (h : PrintMove some p q) : PrintMove more p q := by
  cases h with
  | append st file run passes => exact .append st file run passes
  | flags st file f same => exact .flags st file f same
  | drop st file r mem gone => exact .drop st file r mem (sub _ gone)

theorem PrintMoves.mono {some more : Chain → Prop} (sub : ∀ ch, some ch → more ch) {p q : Holding}
    (h : PrintMoves some p q) : PrintMoves more p q := Relation.ReflTransGen.mono (fun _ _ k => PrintMove.mono sub k) _ _ h

theorem PrintMoves.toMoves {may : Chain → Prop} {p q : Holding} (h : PrintMoves may p q) : Moves p q :=
  Relation.ReflTransGen.mono (fun _ _ k => Move.print (PrintMove.mono (fun _ _ => trivial) k)) _ _ h

/-- What one move keeps, a row of moves keeps. -/
theorem Moves.keeps {P : Holding → Prop} (step : ∀ p q, Move p q → P p → P q) {p q : Holding} (h : Moves p q) (k : P p) :
    P q := by
  induction h with
  | refl => exact k
  | tail _ move ih => exact step _ _ move ih

/-! ### What moves keep -/

theorem flushChains_cons (st : Store) (r : FileRecord) (rs : List FileRecord) :
    st.flushChains (r :: rs) = (st.flushChain r.chain).flushChains rs := rfl

@[simp] theorem queue_flushChains (st : Store) (rs : List FileRecord) (m : QueueName) :
    (st.flushChains rs).queue m = st.queue m := by
  induction rs generalizing st with
  | nil => rfl
  | cons r rs ih => rw [flushChains_cons, ih, Store.queue_flushChain]

/-- The form of the two memories (R12). -/
theorem Move.keeps_canonical {p q : Holding} (h : Move p q) (k : p.1.canonical) : q.1.canonical := by
  cases h with
  | print move =>
    cases move with
    | append st file run => exact Store.canonical_pushRun _ _ k
    | flags => exact k
    | drop st file r => exact Store.canonical_flushChain _ k
  | append st file n run => exact Store.canonical_pushRun _ _ k
  | remove st file n => exact Store.canonical_popCell _ k
  | flush st file n => exact Store.canonical_flushQueue _ k
  | mark st file n => exact Store.canonical_setQueue _ _ k
  | records => exact k
  | opened => exact k
  | fileRun st file r mem run => exact Store.canonical_pushChainRun _ _ k
  | drops st file rs =>
    dsimp only at k ⊢
    clear * - k
    induction rs generalizing st with
    | nil => exact k
    | cons r rs ih => exact ih _ (Store.canonical_flushChain _ k)

/-- Each queue counts at most as many blocks as its limit. -/
def WithinLimits (st : Store) : Prop := ∀ n, (st.queue n).blockCount ≤ (st.queue n).limit

theorem withinLimits_pushRun {st : Store} (n : QueueName) {run : List Cell} (h : WithinLimits st)
    (passes : (st.queue n).limitPasses run = true) : WithinLimits (st.pushRun n run) := by
  intro m
  by_cases hm : m = n
  · subst hm
    rw [(st.pushRun_fixed m run).1]
    exact Nat.le_trans (st.blockCount_pushRun m run) (of_decide_eq_true passes)
  · rw [Store.queue_pushRun_ne run hm]; exact h m

/-- An act on one queue that leaves its limit and counts no more blocks there. -/
theorem WithinLimits.of_one {st st' : Store} (h : WithinLimits st) (n : QueueName)
    (others : ∀ m, m ≠ n → st'.queue m = st.queue m) (limit : (st'.queue n).limit = (st.queue n).limit)
    (blocks : (st'.queue n).blockCount ≤ (st.queue n).blockCount) : WithinLimits st' := by
  intro m
  by_cases hm : m = n
  · subst hm; rw [limit]; exact Nat.le_trans blocks (h m)
  · rw [others m hm]; exact h m

theorem withinLimits_of_queues {st st' : Store} (h : WithinLimits st) (same : ∀ m, st'.queue m = st.queue m) :
    WithinLimits st' := fun m => by rw [same]; exact h m

theorem blockCount_popCell (st : Store) (n : QueueName) :
    ((st.popCell n).queue n).blockCount ≤ (st.queue n).blockCount := by
  unfold Store.popCell
  dsimp only
  split
  · exact Nat.le_refl _
  · split_ifs <;> simp [Queue.emptied]

/-- The limits of the queues (R15). -/
theorem Move.keeps_limits {p q : Holding} (h : Move p q) (k : WithinLimits p.1) : WithinLimits q.1 := by
  cases h with
  | print move =>
    cases move with
    | append st file run passes => exact withinLimits_pushRun .print k passes
    | flags => exact k
    | drop st file r => exact withinLimits_of_queues k fun m => Store.queue_flushChain _ _ m
  | append st file n run passes => exact withinLimits_pushRun n k passes
  | remove st file n =>
    exact k.of_one n (fun m hm => Store.queue_popCell_ne hm) (st.popCell_fixed n).1 (blockCount_popCell st n)
  | flush st file n =>
    exact k.of_one n (fun m hm => Store.queue_flushQueue_ne hm) (by simp [Queue.emptied]) (by simp [Queue.emptied])
  | mark st file n =>
    exact k.of_one n (fun m hm => Store.queue_setQueue_ne hm) (by simp) (by simp)
  | records => exact k
  | opened => exact k
  | fileRun st file r mem run => exact withinLimits_of_queues k fun m => Store.queue_pushChainRun _ _ _ m
  | drops st file rs => exact withinLimits_of_queues k fun m => queue_flushChains _ _ m

/-- Records that the file has, deleted one after the other. -/
theorem OneHolder.drops {st : Store} {file : List FileRecord} (h : OneHolder st file) {rs : List FileRecord}
    (sub : ∀ r ∈ rs, r ∈ file) (slots : (rs.map FileRecord.slot).Nodup) :
    OneHolder (st.flushChains rs) (file.filter fun x => x.slot ∉ rs.map FileRecord.slot) := by
  induction rs generalizing st file with
  | nil => simpa [Store.flushChains] using h
  | cons r rs ih =>
    obtain ⟨new, rest⟩ := List.nodup_cons.mp slots
    have one := (h.drop (sub r (by simp))).1
    have whole := ih one (fun x mem => List.mem_filter.mpr ⟨sub x (by simp [mem]), by
      simpa using fun e => new (List.mem_map.mpr ⟨x, mem, e⟩)⟩) rest
    rw [flushChains_cons]
    convert whole using 1
    rw [List.filter_filter]
    refine List.filter_congr fun x _ => ?_
    simp [Bool.and_comm]

/-- One holder for each block (R12 to R16, R25). -/
theorem Move.keeps_oneHolder {p q : Holding} (h : Move p q) (k : OneHolder p.1 p.2) : OneHolder q.1 q.2 := by
  cases h with
  | print move =>
    cases move with
    | append st file run => exact (k.pushRun .print run).1
    | flags st file f same =>
      refine k.congr ?_
      simp only [slotsAndChains, List.map_map]
      exact List.map_congr_left fun r _ => Prod.ext (slot_of_unflagged (same r)) (chain_of_unflagged (same r))
    | drop st file r mem =>
      obtain ⟨x, hx, e⟩ := mem
      rw [← slot_of_unflagged e, ← chain_of_unflagged e]
      exact (k.drop hx).1
  | append st file n run => exact (k.pushRun n run).1
  | remove st file n => exact (k.popCell n).1
  | flush st file n => exact (k.flushQueue n).1
  | mark st file n i m =>
    exact (OneHolder.setQueue (q := { st.queue n with inFlight := i, openMark := m }) k rfl).1
  | records st file f same =>
    refine k.congr ?_
    simp only [slotsAndChains, List.map_map]
    exact List.map_congr_left fun r _ => Prod.ext (same r).1 (same r).2
  | opened st file r empty fresh => exact k.opened empty fresh
  | fileRun st file r mem run f same =>
    obtain ⟨a, b, rfl⟩ := List.append_of_mem mem
    have slots := k.slots
    dsimp only
    rw [map_slot_split slots]
    refine (k.pushChainRun run).1.congr ?_
    simp [slotsAndChains, same]
  | drops st file rs sub =>
    exact k.drops (fun r mem => sub.subset mem) ((sub.map _).nodup k.slots)

/-! ### Acts that leave the store and the file -/

theorem au_of_storeCore {s t : State} (h : storeCore t = storeCore s) :
    t.au.file = s.au.file ∧ t.au.cursor = s.au.cursor ∧ t.cl = s.cl := by
  simp only [storeCore, State.mk.injEq, AnsweringUnit.mk.injEq] at h
  tauto

theorem storeFile_of_storeCore {s t : State} (h : storeCore t = storeCore s) (cs : t.cs = s.cs) :
    storeFile t = storeFile s := Prod.ext cs (au_of_storeCore h).1

@[simp] theorem storeFile_requestOrDrop (r : Request) (s : State) : storeFile (requestOrDrop r s) = storeFile s :=
  storeFile_of_storeCore (storeCore_requestOrDrop r s) (cs_requestOrDrop r s)
@[simp] theorem storeFile_flowTest (s : State) : storeFile (flowTest s) = storeFile s :=
  storeFile_of_storeCore (storeCore_flowTest s) (cs_flowTest s)
@[simp] theorem storeFile_signal (r t : Bool) (s : State) : storeFile (signal r t s) = storeFile s :=
  storeFile_of_storeCore (storeCore_signal r t s) (cs_signal r t s)
@[simp] theorem storeFile_startSendTimer (n : QueueName) (run : List Cell) (s : State) :
    storeFile (startSendTimer n run s) = storeFile s :=
  storeFile_of_storeCore (storeCore_startSendTimer n run s) (cs_startSendTimer n run s)

@[simp] theorem storeFile_placeRun (n : QueueName) (run : List Cell) (s : State) :
    storeFile (placeRun n run s) = (s.cs.pushRun n run, s.au.file) :=
  Prod.ext rfl (au_of_storeCore (storeCore_placeRun n run s)).1

/-- What an append leaves of the store and the file, where it passes. -/
theorem storeFile_appendRun {n : QueueName} {c : ReserveClass} {run : List Cell} {s t : State}
    (h : appendRun n c run s = some t) : storeFile t = (s.cs.pushRun n run, s.au.file) :=
  Prod.ext (cs_appendRun h) (au_of_storeCore (storeCore_appendRun h)).1

/-- A run is appended only where its queue's limit allows it (R15, R18). -/
theorem limitPasses_of_appendRun {n : QueueName} {c : ReserveClass} {run : List Cell} {s t : State}
    (h : appendRun n c run s = some t) : (s.cs.queue n).limitPasses run = true := by
  unfold appendRun at h
  split at h
  · rename_i passes
    exact (Bool.and_eq_true_iff.mp passes).1
  · cases h

@[simp] theorem storeFile_fileChange (w : Bool) (s : State) : storeFile (fileChange w s) = storeFile s := by
  unfold fileChange
  split_ifs
  · exact storeFile_flowTest s
  · rfl

@[simp] theorem storeFile_abandonCursor (s : State) : storeFile (abandonCursor s) = storeFile s := by
  unfold abandonCursor
  split <;> rfl

/-! ### The Answering Unit's operations as moves -/

/-- What keep-printed lets go: nothing where it is on (R173). -/
def MayGo (keep : Bool) : Chain → Prop := fun _ => keep = false

/-- What a replay that ends at once may delete: a chain of no cell, with keep-printed off (R173). -/
def MayGoEmpty (keep : Bool) : Chain → Prop := fun ch => keep = false ∧ ch.count = 0

theorem PrintMoves.mayGo {keep : Bool} {p q : Holding} (h : PrintMoves (MayGoEmpty keep) p q) :
    PrintMoves (MayGo keep) p q := h.mono fun _ k => k.1

variable {may : Chain → Prop}

theorem printMoves_appendRun {c : ReserveClass} {run : List Cell} {s t : State} (h : appendRun .print c run s = some t) :
    PrintMoves may (storeFile s) (storeFile t) := by
  rw [storeFile_appendRun h]
  exact (PrintMove.append s.cs s.au.file run (limitPasses_of_appendRun h)).moves

theorem printMoves_appendRun_getD (c : ReserveClass) (run : List Cell) (s : State) :
    PrintMoves may (storeFile s) (storeFile ((appendRun .print c run s).getD s)) := by
  cases h : appendRun .print c run s with
  | none => exact .refl _
  | some t => exact printMoves_appendRun h

theorem printMoves_notice (n : Notice) (s : State) : PrintMoves may (storeFile s) (storeFile (notice n s)) := by
  unfold notice
  split_ifs
  · exact printMoves_appendRun_getD _ _ s
  · exact .refl _

theorem printMoves_noticeIf (n : Option Notice) (s : State) :
    PrintMoves may (storeFile s) (storeFile (noticeIf n s)) := by
  cases n with
  | none => exact .refl _
  | some x => exact printMoves_notice x s

theorem printMoves_placeNotice (n : Notice) (s : State) :
    PrintMoves may (storeFile s) (storeFile (placeNotice n s).1) := by
  unfold placeNotice
  split
  · rename_i passes
    obtain ⟨_, space⟩ := Bool.and_eq_true_iff.mp passes
    rw [storeFile_placeRun]
    exact (PrintMove.append s.cs s.au.file n.run (Bool.and_eq_true_iff.mp space).1).moves
  · exact .refl _

/-- Flags of a record changed. -/
theorem printMoves_updateRecord (slot : Fin 24) (f : FileRecord → FileRecord) (same : ∀ r, (f r).unflagged = r.unflagged)
    (s : State) : PrintMoves may (storeFile s) (storeFile (updateRecord slot f s)) :=
  (PrintMove.flags s.cs s.au.file (fun r => if r.slot = slot then f r else r)
    (fun r => by split_ifs <;> simp [same])).moves

theorem recordIn_mem {s : State} {slot : Fin 24} {r : FileRecord} (h : recordIn s slot = some r) :
    r ∈ s.au.file ∧ r.slot = slot :=
  ⟨List.mem_of_find?_eq_some h, by simpa using List.find?_some h⟩

theorem printMoves_dropPrinted {r : FileRecord} {s : State} (mem : ∃ x ∈ s.au.file, x.unflagged = r.unflagged)
    (gone : s.cl.config.keepPrinted = false → may r.chain) :
    PrintMoves may (storeFile s) (storeFile (dropPrinted r s)) := by
  unfold dropPrinted
  split
  · exact .refl _
  · rename_i keep
    exact (PrintMove.drop s.cs s.au.file r mem (gone (by simpa using keep))).moves

/-- The cursor's end (R173). -/
theorem printMoves_endCursor {s : State}
    (gone : ∀ c r, s.au.cursor = some c → recordIn s c.record = some r → s.cl.config.keepPrinted = false → may r.chain) :
    PrintMoves may (storeFile s) (storeFile (endCursor s)) := by
  unfold endCursor
  split
  · exact .refl _
  · rename_i c cursor
    split
    · exact .refl _
    · rename_i r found
      obtain ⟨mem, slot⟩ := recordIn_mem found
      dsimp only
      rw [storeFile_fileChange, storeFile_signal]
      have flagged := printMoves_updateRecord (may := may) c.record (fun x => { x with printed := true }) (fun _ => rfl) s
      have noticed := flagged.trans (printMoves_placeNotice (may := may) (.endMsg r.number) _)
      refine noticed.trans (printMoves_dropPrinted (s := freeCursor true _) ?_ ?_)
      · refine ⟨{ r with printed := true }, ?_, rfl⟩
        show _ ∈ (placeNotice (.endMsg r.number) _).1.au.file
        rw [(au_of_storeCore (storeCore_placeNotice _ _)).1]
        exact List.mem_map.mpr ⟨r, mem, by rw [if_pos slot]⟩
      · intro keep
        refine gone c r cursor found ?_
        have same := (au_of_storeCore (storeCore_placeNotice (.endMsg r.number)
          (updateRecord c.record (fun x => { x with printed := true }) s))).2.2
        exact (congrArg (fun x : ConfigLoader => x.config.keepPrinted) same).symm.trans keep

theorem printMoves_tryHeader (s : State) : PrintMoves may (storeFile s) (storeFile (tryHeader s)) := by
  unfold tryHeader
  split
  · exact .refl _
  · split
    · split
      · exact .refl _
      · split
        · rename_i t passed
          exact show PrintMoves may (storeFile s) (storeFile t) from
            printMoves_appendRun (s := { s with au.headerRetryDue := false }) passed
        · exact .refl _
    · exact .refl _

/-- The records as they were, and the cursor where it was (R174). -/
theorem au_tryHeader (s : State) : (tryHeader s).au.file = s.au.file
    ∧ (tryHeader s).au.cursor.map Cursor.offset = s.au.cursor.map Cursor.offset := by
  unfold tryHeader
  split
  · exact ⟨rfl, rfl⟩
  · rename_i c cursor
    split
    · split
      · exact ⟨rfl, rfl⟩
      · split
        · rename_i t passed
          exact ⟨(au_of_storeCore (storeCore_appendRun passed)).1, by simp [cursor]⟩
        · exact ⟨rfl, rfl⟩
    · exact ⟨rfl, rfl⟩

/-- A cursor that is done has passed every cell of its record (R173). -/
theorem count_of_cursorDone {s : State} {c : Cursor} {r : FileRecord} (done : cursorDone s = true)
    (cursor : s.au.cursor = some c) (found : recordIn s c.record = some r) : r.chain.count ≤ c.offset := by
  simp only [cursorDone, cursor, found, Bool.and_eq_true, decide_eq_true_eq] at done
  exact done.2

/-- A replay (R174): where it ends at once, its record has no cell. -/
theorem printMoves_startReplay {keep : Bool} {r : FileRecord} {s : State} (kept : s.cl.config.keepPrinted = keep) :
    PrintMoves (MayGoEmpty keep) (storeFile s) (storeFile (startReplay r s)) := by
  unfold startReplay
  dsimp only
  set s1 : State := { updateRecord r.slot (fun x => { x with printStarted := true }) s with
    au.cursor := some ⟨r.slot, 0, .replay, true, r.printStarted⟩ } with hs1
  have flagged : PrintMoves (MayGoEmpty keep) (storeFile s) (storeFile s1) :=
    printMoves_updateRecord r.slot (fun x => { x with printStarted := true }) (fun _ => rfl) s
  have headed := flagged.trans (printMoves_tryHeader s1)
  split_ifs with done
  · refine headed.trans (printMoves_endCursor fun c x cursor found keptOff => ⟨?_, ?_⟩)
    · rw [← kept, ← keptOff, (cl_of_callCore (callCore_tryHeader s1)).1]; rfl
    · have offset := (au_tryHeader s1).2
      rw [cursor] at offset
      have past := count_of_cursorDone done cursor found
      rw [show c.offset = 0 from Option.some.inj offset] at past
      exact Nat.le_zero.mp past
  · exact headed

theorem printMoves_followTest (s : State) : PrintMoves may (storeFile s) (storeFile (followTest s)) := by
  unfold followTest
  split
  · rename_i r _
    exact printMoves_updateRecord r.slot (fun x => { x with printStarted := true }) (fun _ => rfl) s
  · exact .refl _

/-- The AU's tests (R172, R175). -/
theorem printMoves_auTestsFor {keep : Bool} (n : Nat) {s : State} (kept : s.cl.config.keepPrinted = keep) :
    PrintMoves (MayGoEmpty keep) (storeFile s) (storeFile (auTestsFor n s)) := by
  induction n generalizing s with
  | zero => exact printMoves_followTest s
  | succ n ih =>
    have follows : (followTest s).cl.config.keepPrinted = keep := by
      rw [(cl_of_callCore (callCore_followTest s)).1, kept]
    unfold auTestsFor
    dsimp only
    split
    · rename_i r _
      have replayed : (startReplay r (followTest s)).cl.config.keepPrinted = keep := by
        rw [(cl_of_callCore (callCore_startReplay r _)).1, follows]
      have moves := (printMoves_followTest s).trans (printMoves_startReplay (r := r) follows)
      split_ifs
      · exact moves.trans (ih replayed)
      · exact moves
    · exact printMoves_followTest s

theorem printMoves_auTests {keep : Bool} {s : State} (kept : s.cl.config.keepPrinted = keep) :
    PrintMoves (MayGoEmpty keep) (storeFile s) (storeFile (auTests s)) := printMoves_auTestsFor _ kept

theorem printMoves_becomeAttendance {keep : Bool} (target : Attendance) {s : State}
    (kept : s.cl.config.keepPrinted = keep) :
    PrintMoves (MayGoEmpty keep) (storeFile s) (storeFile (becomeAttendance target s)) := by
  unfold becomeAttendance
  split
  · exact .refl _
  · exact printMoves_auTests (s := { s with
      au.attendance := target
      au.attendTimer := if target = .attended then attendTimerFull s else none }) kept

theorem printMoves_attendRequest {keep : Bool} (target : Attendance) (cause : AttendCause) {s : State}
    (kept : s.cl.config.keepPrinted = keep) :
    PrintMoves (MayGoEmpty keep) (storeFile s) (storeFile (attendRequest target cause s)) := by
  unfold attendRequest
  split_ifs
  · exact printMoves_becomeAttendance target (s := { s with au.pending := none }) kept
  · exact .refl _
  · exact .refl _

/-- What follows the record's return to IDLE (R160, R167, R175). -/
theorem printMoves_tellIdle {keep : Bool} {s : State} (kept : s.cl.config.keepPrinted = keep) :
    PrintMoves (MayGoEmpty keep) (storeFile s) (storeFile (tellIdle s)) := by
  have applied : PrintMoves (MayGoEmpty keep) (storeFile s)
      (storeFile (applyPending { s with au.autoAnswered := false })) := by
    unfold applyPending
    split
    · exact printMoves_becomeAttendance _ (s := { s with au.autoAnswered := false, au.pending := none }) kept
    · exact .refl _
  refine applied.trans (printMoves_auTests ?_)
  rw [(cl_of_callCore (callCore_applyPending _)).1]
  exact kept

theorem printMoves_finishCursor {keep : Bool} {s : State} (kept : s.cl.config.keepPrinted = keep) :
    PrintMoves (MayGo keep) (storeFile s) (storeFile (finishCursor s)) := by
  unfold finishCursor
  split
  · refine (printMoves_endCursor fun _ _ _ _ off => kept.symm.trans off).trans (printMoves_auTests ?_).mayGo
    rw [(cl_of_callCore (callCore_endCursor s)).1, kept]
  · exact .refl _

end Sys2Proof.Machine
end

section
/-!
Acts: what each operation of a command does to the store, the file and the cells in flight, said once for each operation, and
with it for every command but device reset and the end of the load.
-/

namespace Sys2Proof.Machine

/-! ### Acts -/

/-- What every act of a command does: moves on the store and the file, and the cells of SEND in flight stay those of the TEXT
in the place (R24, R44). -/
structure Act (s t : State) : Prop where
  moves : Moves (storeFile s) (storeFile t)
  inFlight : inFlightIsTheText s → inFlightIsTheText t

theorem Act.refl (s : State) : Act s s := ⟨.refl _, id⟩
theorem Act.trans {s t u : State} (h : Act s t) (k : Act t u) : Act s u := ⟨h.moves.trans k.moves, k.inFlight ∘ h.inFlight⟩

/-- SEND's in-flight count, whether a TEXT not withdrawn stands in the place, and the record's state. -/
def sendState (s : State) : Nat × Bool × CallState := (s.cs.send.inFlight, (liveText s).isSome, s.cm.call.state)

theorem inFlightIsTheText_iff (s : State) :
    inFlightIsTheText s ↔ (sendState s).1 ≤ 48 ∧ ((sendState s).1 ≠ 0 ↔ (sendState s).2.1 = true)
      ∧ ((sendState s).2.1 = true → (sendState s).2.2 = .opened) := by
  simp only [inFlightIsTheText, sendState, ← Option.isSome_iff_ne_none]

theorem inFlightIsTheText_congr {s t : State} (same : sendState t = sendState s) :
    inFlightIsTheText s → inFlightIsTheText t := by
  rw [inFlightIsTheText_iff, inFlightIsTheText_iff, same]
  exact id

/-- With nothing in flight and no TEXT in the place, in whatever state the record stands. -/
theorem inFlightIsTheText_of_none {s : State} (count : s.cs.send.inFlight = 0) (text : (liveText s).isSome = false) :
    inFlightIsTheText s := by
  rw [inFlightIsTheText_iff]
  simp [sendState, count, text]

/-- Outside OPEN nothing is in flight (R24, R44). -/
theorem none_of_inFlightIsTheText {s : State} (h : inFlightIsTheText s) (state : s.cm.call.state ≠ .opened) :
    s.cs.send.inFlight = 0 ∧ (liveText s).isSome = false := by
  obtain ⟨_, count, opened⟩ := (inFlightIsTheText_iff s).mp h
  have text : (liveText s).isSome = false := by
    cases live : (liveText s).isSome with
    | false => rfl
    | true => exact absurd (opened live) state
  exact ⟨by_contra fun some => Bool.false_ne_true (text.symm.trans (count.mp some)), text⟩

theorem Act.of_moves {s t : State} (moves : Moves (storeFile s) (storeFile t)) (same : sendState t = sendState s) :
    Act s t := ⟨moves, inFlightIsTheText_congr same⟩

/-- An act that changes neither. -/
theorem Act.of_eq {s t : State} (held : storeFile t = storeFile s) (text : (liveText t).isSome = (liveText s).isSome)
    (state : t.cm.call.state = s.cm.call.state) : Act s t :=
  .of_moves (.of_eq held) (by
    have store := congrArg (fun p : Holding => p.1.send.inFlight) held
    exact Prod.ext store (Prod.ext text state))

/-- An act on a state that differs from the first elsewhere. -/
theorem Act.after {s x t : State} (h : Act x t) (held : storeFile x = storeFile s)
    (text : (liveText x).isSome = (liveText s).isSome) (state : x.cm.call.state = s.cm.call.state) : Act s t :=
  (Act.of_eq held text state).trans h

/-- An act under a condition. -/
theorem act_ite {p : Prop} [Decidable p] {s a : State} (h : Act s a) : Act s (if p then a else s) := by
  split
  · exact h
  · exact .refl s

/-- The one act or the other. -/
theorem act_either {p : Prop} [Decidable p] {s a b : State} (h : Act s a) (k : Act s b) : Act s (if p then a else b) := by
  split
  · exact h
  · exact k

/-- The passing of time. -/
theorem act_elapse (d : Tick) (s : State) : Act s (elapse d s) := by
  refine .of_eq (Prod.ext (elapse_cs d s) ?_) ?_ ?_
  · unfold elapse; split <;> rfl
  · unfold elapse
    split
    · rfl
    · simp only [liveText, LineUnit.elapse]
      cases s.lu.text with
      | none => rfl
      | some p =>
        have same : (p.elapse d).withdrawn = p.withdrawn := rfl
        cases withdrawn : p.withdrawn <;> simp [Option.filter, same, withdrawn]
  · unfold elapse; split <;> rfl

theorem sendState_of_fileCore {s t : State} (core : fileCore t = fileCore s)
    (count : t.cs.send.inFlight = s.cs.send.inFlight) : sendState t = sendState s := by
  have text : t.lu.text = s.lu.text := (rest_of_fileCore core).2.2.2.2.2.2
  refine Prod.ext count (Prod.ext ?_ (call_of_fileCore core).1)
  show (liveText t).isSome = (liveText s).isSome
  rw [liveText, liveText, text]

theorem inFlight_of_queueCore {s t : State} (queues : queueCore t = queueCore s) :
    t.cs.send.inFlight = s.cs.send.inFlight := congrArg (fun q => q.1.inFlight) queues

theorem Act.of_storeCore {s t : State} (moves : Moves (storeFile s) (storeFile t)) (core : storeCore t = storeCore s)
    (count : t.cs.send.inFlight = s.cs.send.inFlight) : Act s t :=
  .of_moves moves (sendState_of_fileCore (fileCore_of_storeCore core) count)

/-- An act of the Answering Unit. -/
theorem Act.of_print {may : Chain → Prop} {s t : State} (moves : PrintMoves may (storeFile s) (storeFile t))
    (core : fileCore t = fileCore s) (queues : queueCore t = queueCore s) : Act s t :=
  .of_moves moves.toMoves (sendState_of_fileCore core (inFlight_of_queueCore queues))

/-! ### The store's operations -/

theorem act_requestOrDrop (r : Request) (s : State) : Act s (requestOrDrop r s) :=
  .of_storeCore (.of_eq (storeFile_requestOrDrop r s)) (storeCore_requestOrDrop r s) (by rw [cs_requestOrDrop])
theorem act_queueHold (s : State) : Act s (queueHold s) := act_requestOrDrop _ s
theorem act_setHeld (s : State) : Act s (setHeld s) := (act_queueHold s).trans (.of_eq rfl rfl rfl)
theorem act_flowTest (s : State) : Act s (flowTest s) :=
  .of_storeCore (.of_eq (storeFile_flowTest s)) (storeCore_flowTest s) (by rw [cs_flowTest])
theorem act_signal (r t : Bool) (s : State) : Act s (signal r t s) :=
  .of_storeCore (.of_eq (storeFile_signal r t s)) (storeCore_signal r t s) (by rw [cs_signal])
theorem act_refuseKey (s : State) : Act s (refuseKey s) := .of_eq rfl rfl rfl

theorem inFlight_pushRun (st : Store) (n : QueueName) (run : List Cell) :
    (st.pushRun n run).send.inFlight = st.send.inFlight := by
  show ((st.pushRun n run).queue .send).inFlight = (st.queue .send).inFlight
  by_cases same : QueueName.send = n
  · subst same; exact (st.pushRun_fixed .send run).2.2
  · rw [Store.queue_pushRun_ne run same]

theorem act_placeRun {n : QueueName} {run : List Cell} {s : State} (passes : (s.cs.queue n).limitPasses run = true) :
    Act s (placeRun n run s) :=
  .of_storeCore (by rw [storeFile_placeRun]; exact (Move.append _ _ n run passes).moves) (storeCore_placeRun n run s)
    (inFlight_pushRun s.cs n run)

theorem act_appendRun {n : QueueName} {c : ReserveClass} {run : List Cell} {s t : State} (h : appendRun n c run s = some t) :
    Act s t :=
  .of_storeCore (by rw [storeFile_appendRun h]; exact (Move.append _ _ n run (limitPasses_of_appendRun h)).moves)
    (storeCore_appendRun h) (by rw [cs_appendRun h, inFlight_pushRun])

theorem act_appendRun_getD {n : QueueName} {c : ReserveClass} {run : List Cell} {s d : State} (refused : Act s d) :
    Act s ((appendRun n c run s).getD d) := by
  cases h : appendRun n c run s with
  | none => exact refused
  | some t => exact act_appendRun h

theorem act_notice (n : Notice) (s : State) : Act s (notice n s) :=
  .of_print (may := fun _ => True) (printMoves_notice n s) (fileCore_notice n s) (queueCore_notice n s)
theorem act_noticeIf (n : Option Notice) (s : State) : Act s (noticeIf n s) :=
  .of_print (may := fun _ => True) (printMoves_noticeIf n s) (fileCore_noticeIf n s) (queueCore_noticeIf n s)
theorem act_placeNotice (n : Notice) (s : State) : Act s (placeNotice n s).1 :=
  .of_print (may := fun _ => True) (printMoves_placeNotice n s) (fileCore_placeNotice n s) (queueCore_placeNotice n s)

/-- A removal from PRINT or PUNCH (R23). -/
theorem act_removeHead {n : QueueName} (other : n ≠ .send) (s : State) : Act s (removeHead n s) := by
  refine .of_storeCore (t := removeHead n s) ?_ (storeCore_removeHead n s) ?_
  · unfold removeHead
    rw [storeFile_signal]
    exact (Move.remove s.cs s.au.file n).moves
  · unfold removeHead
    rw [cs_signal]
    exact congrArg Queue.inFlight (Store.queue_popCell_ne (st := s.cs) (m := .send) (n := n) other.symm)

theorem moves_flushSend (s : State) : Moves (storeFile s) (storeFile (flushSend s)) := by
  unfold flushSend
  rw [storeFile_signal]
  exact (Move.flush s.cs s.au.file .send).moves

/-- SEND flushed, and no TEXT in the place. -/
theorem inFlightIsTheText_flushSend {s : State} (text : (liveText s).isSome = false) : inFlightIsTheText (flushSend s) := by
  refine inFlightIsTheText_of_none (by rw [(flushSend_send s).1]) ?_
  rw [liveText, (rest_of_storeCore (storeCore_flushSend s)).2.2.2.2.2.1]
  exact text

theorem moves_popCells (st : Store) (file : List FileRecord) (n : QueueName) (k : Nat) :
    Moves (st, file) (Store.popCells n k st, file) := by
  induction k generalizing st with
  | zero => exact .refl _
  | succ k ih => exact (Move.remove st file n).moves.trans (ih _)

/-- The cells in flight leave SEND, no TEXT in the place (R24). -/
theorem act_ackSend {s : State} (text : (liveText s).isSome = false) :
    Moves (storeFile s) (storeFile (ackSend s)) ∧ inFlightIsTheText (ackSend s) := by
  constructor
  · unfold ackSend
    rw [storeFile_signal]
    exact (moves_popCells s.cs s.au.file .send _).trans (Move.mark _ _ .send 0 _).moves
  · refine inFlightIsTheText_of_none (by unfold ackSend; rw [cs_signal]) ?_
    rw [liveText, (rest_of_storeCore (storeCore_ackSend s)).2.2.2.2.2.1]
    exact text

theorem moves_appendEnd (n : QueueName) (s : State) : Moves (storeFile s) (storeFile (appendEnd n s)) := by
  unfold appendEnd
  split
  · exact .refl _
  · exact (act_appendRun_getD (c := .mayUse) (run := [.boundary .finish _]) (Act.refl s)).moves.trans
      (Move.mark _ _ n _ none).moves

theorem moves_closeFile (filed : Bool) (s : State) : Moves (storeFile s) (storeFile (closeFile filed s)) := by
  unfold closeFile
  split
  · exact .refl _
  · refine (Move.records s.cs s.au.file _ fun r => ?_).moves
    split_ifs <;> exact ⟨rfl, rfl⟩

theorem act_discardEdit (s : State) : Act s (discardEdit s) := by
  unfold discardEdit
  split_ifs
  · exact .refl _
  · exact (act_notice _ { s with ku.editStack := [] }).after rfl rfl rfl

theorem act_endRun (s : State) : Act s (endRun s) := by
  unfold endRun
  split <;> exact .of_eq rfl rfl rfl

theorem act_stopSendRun (s : State) : Act s (stopSendRun s) := by
  unfold stopSendRun
  split
  · split
    · split
      · exact act_endRun s
      · exact .refl s
    · exact .refl s
  · exact .refl s

/-! ### The call's operations -/

/-- Outside OPEN the record's state may change. -/
theorem act_setCallState {c : CallState} {s : State} (state : s.cm.call.state ≠ .opened) : Act s (setCallState c s) := by
  refine ⟨.refl _, fun h => ?_⟩
  obtain ⟨count, text⟩ := none_of_inFlightIsTheText h state
  exact inFlightIsTheText_of_none count text

theorem liveText_withdrawText (l : LineUnit) (s : State) : (liveText { s with lu := withdrawText l }).isSome = false := by
  simp only [liveText, withdrawText]
  split_ifs
  · cases l.text <;> simp [Option.filter]
  · rfl

/-- Leaving OPEN flushes SEND and withdraws the TEXT (R95). -/
theorem inFlightIsTheText_leaveOpen {c : CallState} (filed : Bool) (s : State) (leaves : c ≠ .opened) :
    inFlightIsTheText (leaveOpen c filed s) := by
  obtain ⟨_, _, _, _, _, _, _, _, lu, send, _⟩ := leaveOpen_spec filed s leaves
  refine inFlightIsTheText_of_none (by rw [send]) ?_
  have text : liveText (leaveOpen c filed s) = liveText { s with lu := withdrawText s.lu } := by
    rw [liveText, lu]; rfl
  rw [text]
  exact liveText_withdrawText s.lu s

theorem act_leaveOpen {c : CallState} (filed : Bool) {s : State} (leaves : c ≠ .opened) : Act s (leaveOpen c filed s) := by
  constructor
  · unfold leaveOpen
    dsimp only
    refine .trans ?_ (moves_closeFile filed _)
    refine .trans ?_ (moves_appendEnd .punch _)
    refine .trans ?_ (moves_appendEnd .print _)
    refine .trans ?_ (moves_flushSend _)
    refine .trans ?_ (act_discardEdit _).moves
    exact (act_stopSendRun (clearHolds (withdrawOpen (setCallState c s)))).moves
  · exact fun _ => inFlightIsTheText_leaveOpen filed s leaves

theorem act_finishCursor (s : State) : Act s (finishCursor s) :=
  .of_print (printMoves_finishCursor rfl) (fileCore_finishCursor s) (queueCore_finishCursor s)
theorem act_tellIdle (s : State) : Act s (tellIdle s) :=
  .of_print (printMoves_tellIdle rfl) (fileCore_tellIdle s) (queueCore_tellIdle s)
theorem act_auTests (s : State) : Act s (auTests s) :=
  .of_print (printMoves_auTests rfl) (fileCore_auTests s) (queueCore_auTests s)
theorem act_followTest (s : State) : Act s (followTest s) :=
  .of_print (may := fun _ => True) (printMoves_followTest s) (fileCore_followTest s) (queueCore_followTest s)
theorem act_tryHeader (s : State) : Act s (tryHeader s) :=
  .of_print (may := fun _ => True) (printMoves_tryHeader s) (fileCore_tryHeader s) (queueCore_tryHeader s)
theorem act_startReplay (r : FileRecord) (s : State) : Act s (startReplay r s) :=
  .of_print (printMoves_startReplay rfl) (fileCore_startReplay r s) (queueCore_startReplay r s)
theorem act_attendRequest (target : Attendance) (cause : AttendCause) (s : State) : Act s (attendRequest target cause s) :=
  .of_print (printMoves_attendRequest target cause rfl) (fileCore_attendRequest target cause s)
    (queueCore_attendRequest target cause s)
theorem act_abandonCursor (s : State) : Act s (abandonCursor s) := by
  unfold abandonCursor; split <;> exact .of_eq rfl rfl rfl

theorem act_toIdle (filed : Bool) (n : Option Notice) (s : State) : Act s (toIdle filed n s) := by
  unfold toIdle
  dsimp only
  refine .trans (t := if s.cm.call.state = .opened then leaveOpen .idle filed s else setCallState .idle s) ?_ ?_
  · split
    · exact act_leaveOpen filed (by decide)
    · rename_i state; exact act_setCallState state
  · exact ((act_noticeIf n _).trans (act_finishCursor _)).trans (act_tellIdle _)

theorem act_luRequest {r : Request} {s t : State} (h : luRequest r s = some t) : Act s t := by
  unfold luRequest at h
  split at h
  · cases h
    exact .of_storeCore (.refl _) (storeCore_enterRequest r s) rfl
  · cases h

theorem act_exhausted (r : Request) (s : State) : Act s (exhausted r s) := by
  unfold exhausted
  refine act_ite ?_
  cases r.kind with
  | call => exact act_ite (act_toIdle _ _ s)
  | accept => exact act_ite (act_toIdle _ _ s)
  | clear => exact act_ite (act_toIdle _ _ s)
  | who => exact act_notice _ s
  | _ => exact .refl s

theorem act_sendRequest (r : Request) (s : State) : Act s (sendRequest r s) := by
  unfold sendRequest
  split
  · rename_i h; exact act_luRequest h
  · exact act_exhausted r s

theorem act_openToClearing (filed : Bool) (n : Option Notice) (c : Cause) (s : State) :
    Act s (openToClearing filed n c s) :=
  (((act_leaveOpen filed (by decide)).trans (act_noticeIf n _)).trans (act_finishCursor _)).trans (act_sendRequest _ _)

theorem act_textExhausted (s : State) : Act s (textExhausted s) := by
  unfold textExhausted
  exact act_ite (act_openToClearing _ _ _ s)

theorem act_requestWho (d : Addr) (s : State) : Act s (requestWho d s) := act_sendRequest _ s

/-- The record enters OPEN from another state (R78). -/
theorem act_enterOpen {s : State} (state : s.cm.call.state ≠ .opened) : Act s (enterOpen s) := by
  unfold enterOpen
  dsimp only
  have entered : Act s (engageView (openFields (setCallState .opened s))) :=
    (act_setCallState state).trans (.of_eq rfl rfl rfl)
  generalize engageView (openFields (setCallState .opened s)) = x at entered
  have told : Act s (if x.cm.call.role = some .member then x else notice (.callOpen (partyNumber x)) x) := by
    split
    · exact entered
    · exact entered.trans (act_notice _ _)
  generalize (if x.cm.call.role = some .member then x else notice (.callOpen (partyNumber x)) x) = y at told
  split
  · exact told.trans (act_requestWho _ _)
  · exact told

theorem act_answerAccept (s : State) : Act s (answerAccept s) :=
  (act_sendRequest _ { s with cm.call.answer := .acceptSent }).after rfl rfl rfl

theorem act_answerRefuse (r : Reason) (s : State) : Act s (answerRefuse r s) :=
  (act_requestOrDrop _ s).trans (act_toIdle _ _ _)

/-- Steps 1 to 4 of R86. -/
theorem act_stopSending (s : State) : Act s (stopSending s) := by
  refine ⟨?_, fun _ => inFlightIsTheText_flushSend (liveText_withdrawText _ _)⟩
  refine .trans ((act_stopSendRun s).moves.trans ?_) (moves_flushSend _)
  exact .of_eq (by unfold withdrawPlace stepSequence; split <;> rfl)

/-! ### The delivery of a TEXT (R21, R22, R66, R169) -/

theorem moves_dropRecord {r : FileRecord} {s : State} (mem : r ∈ s.au.file) :
    Moves (storeFile s) (storeFile (dropRecord r s)) :=
  (Move.print (PrintMove.drop (may := fun _ => True) s.cs s.au.file r ⟨r, mem, rfl⟩ trivial)).moves

theorem act_dropRecord {r : FileRecord} {s : State} (mem : r ∈ s.au.file) : Act s (dropRecord r s) :=
  .of_moves (moves_dropRecord mem)
    (Prod.ext (congrArg Queue.inFlight (Store.queue_flushChain s.cs r.chain .send)) rfl)

theorem mem_of_oldestPrinted {s : State} {r : FileRecord} (h : oldestPrinted s = some r) : r ∈ s.au.file :=
  List.mem_of_find?_eq_some h

theorem act_reclaimFor (needed k : Nat) (s : State) : Act s (reclaimFor needed k s) := by
  induction k generalizing s with
  | zero => exact .refl s
  | succ k ih =>
    unfold reclaimFor
    split
    · exact .refl s
    · split
      · rename_i found; exact (act_dropRecord (mem_of_oldestPrinted found)).trans (ih _)
      · exact .refl s

theorem recordIn_of_lowestSlot {s : State} {slot : Fin 24} (h : lowestSlot s = some slot) :
    ∀ x ∈ s.au.file, x.slot ≠ slot := by
  have free : (recordIn s slot).isNone = true := by simpa using List.find?_some h
  intro x mem same
  have none := List.find?_eq_none.mp (Option.isNone_iff_eq_none.mp free) x mem
  simp [same] at none

/-- The state in which a new record finds its slot: with 24 records the oldest closed printed one has gone (R169). -/
def slotFreed (s : State) : State :=
  if s.au.file.length < 24 then s
  else
    match oldestPrinted s with
    | some r => dropRecord r s
    | none => s

/-- The record that opens in a slot (R169). -/
def newRecord (slot : Fin 24) (s : State) : FileRecord where
  slot
  number := s.au.nextNumber
  source := s.cm.call.partyStation.getD 0
  destination := s.cm.call.callAddr
  window := s.cm.call.window
  openedAt := s.au.clock
  completedAt := none
  state := .opened
  printed := false
  printStarted := false
  chain := Chain.empty
  gapCount := 0
  answerback := s.cm.call.answerback

theorem slotFreed_cases (s : State) :
    slotFreed s = s ∧ (s.au.file.length < 24 ∨ oldestPrinted s = none)
      ∨ ∃ r, oldestPrinted s = some r ∧ 24 ≤ s.au.file.length ∧ slotFreed s = dropRecord r s := by
  unfold slotFreed
  split
  · rename_i room; exact .inl ⟨rfl, .inl room⟩
  · rename_i full
    cases found : oldestPrinted s with
    | some r => exact .inr ⟨r, rfl, Nat.le_of_not_lt full, rfl⟩
    | none => exact .inl ⟨rfl, .inr rfl⟩

theorem openRecord_of_none {s : State} (h : lowestSlot (slotFreed s) = none) : openRecord s = slotFreed s := by
  show (match lowestSlot (slotFreed s) with | none => slotFreed s | some slot => _) = _
  rw [h]

/-- The record that opens stands last in the file's order (R169). -/
theorem openRecord_of_slot {s : State} {slot : Fin 24} (h : lowestSlot (slotFreed s) = some slot) :
    openRecord s =
      { slotFreed s with
        au.file := (slotFreed s).au.file ++ [newRecord slot (slotFreed s)]
        au.nextNumber := numberAfter (slotFreed s).au.nextNumber
        cm.call.fileLink := some slot } := by
  show (match lowestSlot (slotFreed s) with | none => slotFreed s | some slot => _) = _
  rw [h]
  rfl

theorem act_slotFreed (s : State) : Act s (slotFreed s) := by
  rcases slotFreed_cases s with ⟨same, _⟩ | ⟨r, found, _, dropped⟩
  · rw [same]; exact .refl s
  · rw [dropped]; exact act_dropRecord (mem_of_oldestPrinted found)

theorem queue_slotFreed (s : State) (m : QueueName) : (slotFreed s).cs.queue m = s.cs.queue m := by
  rcases slotFreed_cases s with ⟨same, _⟩ | ⟨r, _, _, dropped⟩
  · rw [same]
  · rw [dropped]; exact Store.queue_flushChain s.cs r.chain m

theorem act_openRecord (s : State) : Act s (openRecord s) := by
  cases found : lowestSlot (slotFreed s) with
  | none => rw [openRecord_of_none found]; exact act_slotFreed s
  | some slot =>
    rw [openRecord_of_slot found]
    exact (act_slotFreed s).trans
      (.of_moves (Move.opened _ _ _ rfl (recordIn_of_lowestSlot found)).moves rfl)

/-- The opening of a record leaves the queues. -/
theorem queue_openRecord (s : State) (m : QueueName) : (openRecord s).cs.queue m = s.cs.queue m := by
  cases found : lowestSlot (slotFreed s) with
  | none => rw [openRecord_of_none found, queue_slotFreed]
  | some slot => rw [openRecord_of_slot found]; exact queue_slotFreed s m

/-- The reclaiming of blocks leaves the queues. -/
theorem queue_reclaimFor (needed k : Nat) (s : State) (m : QueueName) :
    (reclaimFor needed k s).cs.queue m = s.cs.queue m := by
  induction k generalizing s with
  | zero => rfl
  | succ k ih =>
    unfold reclaimFor
    split
    · rfl
    · split
      · rw [ih]; exact Store.queue_flushChain s.cs _ m
      · rfl

theorem act_appendFile (run : List Cell) (lost : Nat) (s : State) : Act s (appendFile run lost s) := by
  unfold appendFile
  split
  · exact .refl s
  · rename_i slot _
    split
    · exact .refl s
    · rename_i r found
      obtain ⟨mem, rfl⟩ := recordIn_mem found
      refine .of_moves (Move.fileRun s.cs s.au.file r mem run
        (fun x => { x with chain := (s.cs.pushChainRun r.chain run).2, gapCount := min 255 (x.gapCount + lost) })
        fun x => ⟨rfl, rfl⟩).moves ?_
      exact Prod.ext (congrArg Queue.inFlight (Store.queue_pushChainRun s.cs r.chain run .send)) rfl

/-- The state of a delivery once its record is open and the blocks it needs are had (R21, R22, R169). -/
def deliveryReady (e : Route) (r : TextRuns) (s : State) : State :=
  let needed := deliveryBlocks s r
  let s := if e.file ∧ s.cm.call.fileLink = none then openRecord s else s
  if e.file then reclaimFor needed s.au.file.length s else s

/-- That state with the runs of PRINT and PUNCH, and the marks that a START sets (R26, R66). -/
def deliveryPushed (r : TextRuns) (party : Station) (s : State) : State :=
  let s := { s with cs := (s.cs.pushRun .print r.print).pushRun .punch r.punch }
  { s with cs.print := markStart s.cs.print party r.print, cs.punch := markStart s.cs.punch party r.punch }

/-- A delivery in its three parts. -/
theorem deliver_eq (e : Route) (r : TextRuns) (party : Station) (lost : Nat) (s : State) :
    deliver e r party lost s =
      if e.file then appendFile r.file lost (deliveryPushed r party (deliveryReady e r s))
      else deliveryPushed r party (deliveryReady e r s) := rfl

theorem queue_deliveryReady (e : Route) (r : TextRuns) (s : State) (m : QueueName) :
    (deliveryReady e r s).cs.queue m = s.cs.queue m := by
  unfold deliveryReady
  dsimp only
  split_ifs <;> simp only [queue_reclaimFor, queue_openRecord]

theorem act_deliveryReady (e : Route) (r : TextRuns) (s : State) : Act s (deliveryReady e r s) := by
  unfold deliveryReady
  dsimp only
  have opened : Act s (if e.file = true ∧ s.cm.call.fileLink = none then openRecord s else s) := act_ite (act_openRecord s)
  generalize (if e.file = true ∧ s.cm.call.fileLink = none then openRecord s else s) = x at opened
  exact opened.trans (act_ite (act_reclaimFor _ _ _))

theorem markStart_eq (q : Queue) (party : Station) (run : List Cell) :
    ∃ m, markStart q party run = { q with openMark := m } := by
  unfold markStart
  split
  · exact ⟨_, rfl⟩
  · exact ⟨q.openMark, rfl⟩

theorem moves_markStart (st : Store) (file : List FileRecord) (n : QueueName) (party : Station) (run : List Cell) :
    Moves (st, file) (st.setQueue n (markStart (st.queue n) party run), file) := by
  obtain ⟨m, h⟩ := markStart_eq (st.queue n) party run
  rw [h]
  exact (Move.mark st file n _ m).moves

theorem act_deliveryPushed {r : TextRuns} {s : State} (party : Station) (print : s.cs.print.limitPasses r.print = true)
    (punch : s.cs.punch.limitPasses r.punch = true) : Act s (deliveryPushed r party s) := by
  refine .of_moves ?_ ?_
  · have first := (Move.append s.cs s.au.file .print r.print print).moves
    have second := (Move.append (s.cs.pushRun .print r.print) s.au.file .punch r.punch (by
      rw [Store.queue_pushRun_ne (n := .print) (m := .punch) r.print (by decide)]; exact punch)).moves
    exact ((first.trans second).trans (moves_markStart _ _ .print party r.print)).trans
      (moves_markStart _ _ .punch party r.punch)
  · refine Prod.ext ?_ rfl
    exact (inFlight_pushRun _ .punch r.punch).trans (inFlight_pushRun s.cs .print r.print)

theorem act_deliver {e : Route} {r : TextRuns} {s : State} (party : Station) (lost : Nat)
    (print : s.cs.print.limitPasses r.print = true) (punch : s.cs.punch.limitPasses r.punch = true) :
    Act s (deliver e r party lost s) := by
  have same (m : QueueName) := queue_deliveryReady e r s m
  have pushed := (act_deliveryReady e r s).trans (act_deliveryPushed party
    (by rw [show (deliveryReady e r s).cs.print = s.cs.print from same .print]; exact print)
    (by rw [show (deliveryReady e r s).cs.punch = s.cs.punch from same .punch]; exact punch))
  rw [deliver_eq]
  split
  · exact pushed.trans (act_appendFile _ _ _)
  · exact pushed

theorem act_acceptText (t : Telegram) (run : List Resolved) (s : State) : Act s (acceptText t run s).2 := by
  unfold acceptText
  split
  · split
    · exact .refl s
    · rename_i lost _
      dsimp only
      split
      · exact .refl s
      · split
        · rename_i passes
          obtain ⟨limits, _⟩ := Bool.and_eq_true_iff.mp passes
          obtain ⟨print, punch⟩ := Bool.and_eq_true_iff.mp limits
          have delivered := act_deliver (e := effective s) t.source lost print punch
          have recorded := delivered.trans (.of_eq (t := { deliver (effective s)
            (textRuns s (effective s) t.source lost run) t.source lost s with cm.call.recvSeq := t.sequence }) rfl rfl rfl)
          have signalled {a b : Bool} := recorded.trans (act_signal a b _)
          dsimp only
          split
          · exact signalled.trans (act_followTest _)
          · exact signalled
        · exact .refl s
  · exact .refl s

/-! ### Forming a TEXT (R24, R79, R80) -/

theorem fitCount_le_length (u : Bool) (room : Nat) (k : Option Case) (rs : List Resolved) :
    fitCount u room k rs ≤ rs.length := by
  induction rs generalizing room k with
  | nil => exact Nat.le_refl 0
  | cons r rs ih =>
    unfold fitCount
    split
    · exact Nat.succ_le_succ (ih _ _)
    · exact Nat.zero_le _

/-- Each character takes a code at least. -/
theorem fitCount_le_room (u : Bool) (room : Nat) (k : Option Case) (rs : List Resolved) : fitCount u room k rs ≤ room := by
  induction rs generalizing room k with
  | nil => exact Nat.zero_le _
  | cons r rs ih =>
    unfold fitCount
    split
    · obtain ⟨one, _⟩ := generate_length u k r
      have := ih (room - (generate u k r).1.length) (generate u k r).2
      omega
    · exact Nat.zero_le _

theorem fitCount_pos {u : Bool} {room : Nat} (k : Option Case) {rs : List Resolved} (room2 : 2 ≤ room) (cells : rs ≠ []) :
    1 ≤ fitCount u room k rs := by
  cases rs with
  | nil => exact absurd rfl cells
  | cons r rs =>
    unfold fitCount
    rw [if_pos (Nat.le_trans (generate_length u k r).2 room2)]
    exact Nat.le_add_left 1 _

/-- What is taken fits. -/
theorem generateAll_take_fitCount (u : Bool) (room : Nat) (k : Option Case) (rs : List Resolved) :
    (generateAll u k (rs.take (fitCount u room k rs))).length ≤ room := by
  induction rs generalizing room k with
  | nil => exact Nat.zero_le _
  | cons r rs ih =>
    unfold fitCount
    split
    · have := ih (room - (generate u k r).1.length) (generate u k r).2
      simp only [List.take_succ_cons, generateAll, List.length_append]
      omega
    · exact Nat.zero_le _

/-- One more does not. -/
theorem room_lt_generateAll_take (u : Bool) (room : Nat) (k : Option Case) {rs : List Resolved}
    (more : fitCount u room k rs < rs.length) :
    room < (generateAll u k (rs.take (fitCount u room k rs + 1))).length := by
  induction rs generalizing room k with
  | nil => exact absurd more (Nat.not_lt_zero _)
  | cons r rs ih =>
    unfold fitCount at more ⊢
    split at more
    · rename_i fits
      have := ih (room - (generate u k r).1.length) (generate u k r).2 (Nat.lt_of_succ_lt_succ more)
      rw [if_pos fits]
      simp only [List.take_succ_cons, generateAll, List.length_append]
      omega
    · rename_i full
      rw [if_neg full]
      simp only [List.take_succ_cons, generateAll, List.length_append]
      omega

/-- A TEXT is formed now (R24, R44, R45, R79, R80). -/
def formsText (s : State) : Prop :=
  s.lu.text = none ∧ textMayBeChosen s ∧ permitsText s ∧ s.cs.send.inFlight = 0 ∧ readyToGo s

/-- The characters a TEXT takes now (R80). -/
def textCount (s : State) : Nat := fitCount (unshift s) 48 (some .ltrs) (unsentChars s)

theorem formText_of_not_forms {s : State} (h : ¬ formsText s) : formText s = s := if_neg h

theorem formText_of_forms {s : State} (h : formsText s) :
    formText s =
      { s with
        cs.send.inFlight := textCount s
        cm.sendTimer := if textCount s = (unsentChars s).length then .stopped else s.cm.sendTimer
        lu.text := some ⟨s.cm.call.partyAddr, s.cm.call.sendSeq,
          lineSend (unshift s) ((unsentChars s).take (textCount s)), 0, 0, .ready, false⟩ } := if_pos h

theorem unsentChars_of_forms {s : State} (h : formsText s) : unsentChars s ≠ [] := by
  obtain ⟨_, _, _, _, ready⟩ := h
  simp only [readyToGo, Bool.and_eq_true, Bool.not_eq_true', List.isEmpty_eq_false_iff] at ready
  exact ready.1

theorem opened_of_forms {s : State} (h : formsText s) : s.cm.call.state = .opened := by
  obtain ⟨_, _, permits, _⟩ := h
  simp only [permitsText, maySend, Bool.and_eq_true, decide_eq_true_eq] at permits
  exact permits.1.2.1

theorem textCount_pos {s : State} (h : formsText s) : 1 ≤ textCount s :=
  fitCount_pos _ (by omega) (unsentChars_of_forms h)

theorem act_formText (s : State) : Act s (formText s) := by
  by_cases forms : formsText s
  · rw [formText_of_forms forms]
    refine ⟨(Move.mark s.cs s.au.file .send (textCount s) s.cs.send.openMark).moves, fun _ => ?_⟩
    rw [inFlightIsTheText_iff]
    have some := Nat.one_le_iff_ne_zero.mp (textCount_pos forms)
    have opened := opened_of_forms forms
    exact ⟨fitCount_le_room _ _ _ _, ⟨fun _ => rfl, fun _ => some⟩, fun _ => opened⟩
  · rw [formText_of_not_forms forms]; exact .refl s

theorem act_settle (s : State) : Act s (settle s) := by
  unfold settle
  refine act_ite ?_
  obtain ⟨m, h⟩ := refreshDemand_eq (formText s)
  rw [h]
  exact (act_formText s).trans (.of_eq rfl rfl rfl)

/-- The guard of a TEXT in the words of R44, R45, R79 and R80. -/
theorem formsText_iff (s : State) :
    formsText s ↔
      s.lu.text = none ∧ s.lu.slot = none ∧ s.lu.condition = .clear ∧ s.lu.restartClear = false
        ∧ (∀ e ∈ s.lu.control, e.readiness.isReady = false)
        ∧ s.lu.joinState = .joined ∧ s.cm.call.state = .opened
        ∧ (s.cm.call.role = some .caller ∨ s.cm.call.role = some .called)
        ∧ s.cm.call.holdSet = [] ∧ s.cs.send.inFlight = 0
        ∧ unsentChars s ≠ []
        ∧ (48 ≤ encodedLength (unshift s) (unsentChars s) ∨ .cr ∈ unsentChars s ∨ s.cm.sendTimer = .expired) := by
  simp only [formsText, textMayBeChosen, permitsText, maySend, readyToGo, Bool.and_eq_true, Bool.or_eq_true,
    Bool.not_eq_true', decide_eq_true_eq, List.any_eq_false, List.isEmpty_eq_false_iff, List.isEmpty_iff,
    List.contains_iff_mem, Bool.not_eq_true]
  tauto

/-- Settles O5, by what `fitCount` takes. -/
theorem textIsFormed : Obligations.TextIsFormed := by
  intro s
  refine ⟨fun cannot => formText_of_not_forms (mt (formsText_iff s).mp cannot), fun can => ?_⟩
  have forms := (formsText_iff s).mpr can
  exact ⟨textCount s, textCount_pos forms, fitCount_le_length _ _ _ _, generateAll_take_fitCount _ _ _ _,
    room_lt_generateAll_take _ _ _, formText_of_forms forms⟩

/-! ### The TEXT in the place through the LU's operations (R44) -/

/-- A TEXT not withdrawn stands in the place. -/
def LineUnit.hasText (l : LineUnit) : Bool := (l.text.filter fun p => !p.withdrawn).isSome

theorem liveText_isSome (s : State) : (liveText s).isSome = s.lu.hasText := rfl

/-- Changes of the TEXT that leave whether it is withdrawn. -/
theorem hasText_map (l : LineUnit) {f : TextPlace → TextPlace} (same : ∀ p, (f p).withdrawn = p.withdrawn) :
    { l with text := l.text.map f }.hasText = l.hasText := by
  unfold LineUnit.hasText
  cases l.text with
  | none => rfl
  | some p => cases withdrawn : p.withdrawn <;> simp [Option.filter, same, withdrawn]

theorem hasText_appendFresh (r : Option Request) (l : LineUnit) : (appendFresh r l).hasText = l.hasText := by
  cases r <;> rfl

theorem hasText_entryReadyAgain (k : Kind) (l : LineUnit) : (entryReadyAgain k l).hasText = l.hasText := by
  unfold entryReadyAgain
  split
  · rfl
  · split
    · rw [hasText_appendFresh]; rfl
    · split <;> rfl

theorem hasText_readyAgain (source : SlotSource) (l : LineUnit) : (readyAgain source l).hasText = l.hasText := by
  cases source with
  | control k => exact hasText_entryReadyAgain k l
  | text =>
    unfold readyAgain textReadyAgain LineUnit.hasText
    cases l.text with
    | none => rfl
    | some p => cases withdrawn : p.withdrawn <;> simp [Option.filter, withdrawn]
  | probe => rfl

theorem hasText_setCollisions (n : Nat) (source : SlotSource) (l : LineUnit) :
    (setCollisions n source l).hasText = l.hasText := by
  cases source with
  | control k => rfl
  | text => exact hasText_map l fun _ => rfl
  | probe => rfl

theorem hasText_clearCollisions (l : LineUnit) : (clearCollisions l).hasText = l.hasText := hasText_map l fun _ => rfl

theorem hasText_stopAttempt (l : LineUnit) : (stopAttempt l).hasText = l.hasText := by
  unfold stopAttempt
  split
  · rw [hasText_readyAgain]; rfl
  · rfl

theorem hasText_makeReady (which : Kind) (l : LineUnit) : (makeReady which l).hasText = l.hasText := by
  cases which with
  | text => exact hasText_map l fun _ => rfl
  | _ => rfl

/-- An act on the LU that leaves the TEXT. -/
theorem act_lu {l : LineUnit} {s : State} (same : l.hasText = s.lu.hasText) : Act s { s with lu := l } :=
  .of_eq rfl same rfl

/-! ### The mechanisms -/

theorem act_printOp (op : PrintOp) (s : State) : Act s (startPrintOp op s) := by
  cases op <;> exact .of_eq rfl rfl rfl

theorem act_nextPrintOp (s : State) : Act s (nextPrintOp s) := by
  unfold nextPrintOp
  split
  · split
    · exact act_ite ((act_printOp _ _).after rfl rfl rfl)
    · exact .of_eq rfl rfl rfl
  · exact .refl s

theorem act_finishPrintOp (op : PrintOp) (s : State) : Act s (finishPrintOp op s) :=
  (act_nextPrintOp _).after rfl rfl rfl

theorem act_beginWork (src : Source) (c : Cell) (s : State) : Act s (beginWork src c s) := by
  unfold beginWork
  dsimp only
  split
  · exact .of_eq rfl rfl rfl
  · split
    · exact (act_printOp _ _).after rfl rfl rfl
    · exact .of_eq rfl rfl rfl

theorem act_takePrintCell (src : Source) (c : Cell) (s : State) : Act s (takePrintCell src c s) := by
  cases src with
  | queue => exact (act_beginWork .queue c s).trans (act_removeHead (by decide) _)
  | cursor =>
    exact (act_beginWork .cursor c s).trans ((act_finishCursor (advanceCursor (beginWork .cursor c s))).after rfl rfl rfl)

theorem act_printerChange (was : Bool) (s : State) : Act s (printerChange was s) := by
  unfold printerChange
  split
  · exact .refl s
  · have tested : Act s (if s.cm.call.route.print = true then flowTest s else s) := act_ite (act_flowTest s)
    exact tested.trans (act_either (act_abandonCursor _) (act_auTests _))

theorem act_punchChange (was : Bool) (s : State) : Act s (punchChange was s) := by
  unfold punchChange
  split
  · exact .refl s
  · exact act_ite (act_flowTest s)

theorem act_nextPunchOp (s : State) : Act s (nextPunchOp s) := by
  unfold nextPunchOp
  split
  · split
    · exact act_ite (.of_eq rfl rfl rfl)
    · exact .of_eq rfl rfl rfl
  · exact .refl s

theorem act_takePunchCell (c : Cell) (s : State) : Act s (takePunchCell c s) :=
  Act.trans (t := nextPunchOp { s with tu.punchWork := some ⟨c, punchCodes s c⟩ })
    ((act_nextPunchOp { s with tu.punchWork := some ⟨c, punchCodes s c⟩ }).after rfl rfl rfl)
    (act_removeHead (n := .punch) (by decide) _)

theorem act_endRunWith (n : Notice) (s : State) : Act s (endRunWith n s) := (act_endRun s).trans (act_notice n _)

theorem act_readerLast {r : ReaderRun} {ch : Resolved} {s : State}
    (passes : (s.cs.queue r.destination).limitPasses (readerCell ch) = true) : Act s (readerLast r ch s) := by
  unfold readerLast
  dsimp only
  have placed := (act_placeRun passes).trans
    (.of_eq (t := { placeRun r.destination (readerCell ch) s with tu.run := some r.counted }) rfl rfl rfl)
  exact ((placed.trans (act_endRun _)).trans (act_placeNotice _ _)).trans (act_signal _ _ _)

theorem act_readerAppend (r : ReaderRun) (ch : Resolved) (s : State) : Act s (readerAppend r ch s) := by
  unfold readerAppend
  split
  · rename_i t appended
    exact act_either (act_readerLast (limitPasses_of_appendRun appended))
      ((act_appendRun appended).trans (.of_eq rfl rfl rfl))
  · exact .of_eq rfl rfl rfl

theorem act_readerCode (r : ReaderRun) (row : Code) (s : State) : Act s (readerCode r row s) := by
  unfold readerCode
  dsimp only
  generalize (if row = 0 then r.blanks + 1 else 0) = blanks
  split
  · exact (act_endRunWith .tapeEnd _).after rfl rfl rfl
  · split
    · exact (act_readerAppend _ _ _).after rfl rfl rfl
    · exact .of_eq rfl rfl rfl

theorem act_readerStep (r : ReaderRun) (s : State) : Act s (readerStep r s) := by
  unfold readerStep
  exact act_either (act_endRunWith .tapeEnd s) (act_either (.of_eq rfl rfl rfl) (.of_eq rfl rfl rfl))

theorem act_readerGoOn (r : ReaderRun) (s : State) : Act s (readerGoOn r s) := by
  unfold readerGoOn
  split
  · exact act_readerAppend _ _ s
  · exact act_ite (.of_eq rfl rfl rfl)

theorem act_enterRunning (s : State) : Act s (enterRunning s) :=
  ((act_nextPrintOp _).trans (act_nextPunchOp _)).after rfl rfl rfl

theorem act_enterFaulted (s : State) : Act s (enterFaulted s) :=
  (((act_printerChange _ _).trans (act_punchChange _ _)).trans ((act_endRun _).trans (act_notice _ _))).after rfl rfl rfl

theorem act_leaveFaulted (s : State) : Act s (leaveFaulted s) := by
  unfold leaveFaulted
  dsimp only
  have stopped : Act s (if demandHeld s.mt = true then startMotor s
      else { s with mt.motor := .stopped, mt.faultWait := none }) :=
    act_either (.of_eq rfl rfl rfl) (.of_eq rfl rfl rfl)
  exact stopped.trans ((act_printerChange _ _).trans (act_punchChange _ _))

/-! ### The line -/

theorem act_enterListen (s : State) : Act s (enterListen s) := .of_eq rfl rfl rfl
theorem act_enterProbe (s : State) : Act s (enterProbe s) := .of_eq rfl rfl rfl

theorem hasText_enterRequest (r : Request) (l : LineUnit) : (enterRequest r l).hasText = l.hasText := by
  unfold enterRequest
  split_ifs <;> rfl

theorem act_enterJoined (s : State) : Act s (enterJoined s) := act_lu (hasText_enterRequest _ _)

theorem act_reportExhausted (rs : List Request) (s : State) : Act s (reportExhausted rs s) := by
  unfold reportExhausted
  induction rs generalizing s with
  | nil => exact .refl s
  | cons r rs ih => exact (act_exhausted r s).trans (ih _)

theorem act_reportText (p : Option TextPlace) (s : State) : Act s (reportText p s) := by
  unfold reportText
  split
  · split
    · exact .refl s
    · exact act_textExhausted s
  · exact .refl s

/-- An exhaustion leaves a record that is OPEN there (R96). -/
theorem exhausted_opened (r : Request) {s : State} (opened : s.cm.call.state = .opened) :
    (exhausted r s).cm.call.state = .opened := by
  unfold exhausted
  split
  · cases r.kind <;> simp [opened, (call_of_storeCore (storeCore_notice _ s)).1]
  · exact opened

theorem reportExhausted_opened (rs : List Request) {s : State} (opened : s.cm.call.state = .opened) :
    (reportExhausted rs s).cm.call.state = .opened := by
  unfold reportExhausted
  induction rs generalizing s with
  | nil => exact opened
  | cons r rs ih => exact ih (exhausted_opened r opened)

/-- The end of an OPEN call by an exhausted TEXT leaves nothing in flight (R81, R95). -/
theorem inFlightIsTheText_textExhausted {s : State} (opened : s.cm.call.state = .opened) :
    inFlightIsTheText (textExhausted s) := by
  unfold textExhausted
  rw [if_pos opened]
  exact (((act_noticeIf _ _).trans (act_finishCursor _)).trans (act_sendRequest _ _)).inFlight
    (inFlightIsTheText_leaveOpen false s (by decide))

/-- The TEXT leaves the place as exhausted (R53, R81): where it stood not withdrawn the record is OPEN, and leaves it. -/
theorem act_enterListenOnly (s : State) : Act s (enterListenOnly s) := by
  unfold enterListenOnly
  dsimp only
  have listens : Moves (storeFile s) (storeFile { s with lu := luListenOnly s.lu }) := .refl _
  have reported := act_reportExhausted (s.lu.control.filterMap reportedContent) { s with lu := luListenOnly s.lu }
  refine ⟨listens.trans ((reported.trans (act_reportText _ _)).trans (act_notice _ _)).moves, fun h => ?_⟩
  refine (act_notice _ _).inFlight ?_
  cases live : s.lu.hasText with
  | false =>
    have emptied : inFlightIsTheText { s with lu := luListenOnly s.lu } :=
      (Act.of_eq (s := s) (t := { s with lu := luListenOnly s.lu }) rfl live.symm rfl).inFlight h
    exact (reported.trans (act_reportText _ _)).inFlight emptied
  | true =>
    have opened := ((inFlightIsTheText_iff s).mp h).2.2 live
    obtain ⟨p, place⟩ : ∃ p, s.lu.text = some p := by
      cases text : s.lu.text with
      | none => simp [LineUnit.hasText, text] at live
      | some p => exact ⟨p, rfl⟩
    have kept : p.withdrawn = false := by simpa [LineUnit.hasText, place, Option.filter] using live
    rw [place, reportText, if_neg (by simp [kept])]
    exact inFlightIsTheText_textExhausted (reportExhausted_opened _ opened)

theorem act_turnDecision (k : Kind) (t : Telegram) (s : State) : Act s (turnDecision k t s).2.2 := by
  unfold turnDecision
  split
  · exact .refl s
  · split
    · split
      · exact act_notice _ s
      · exact .refl s
    · split
      · exact .refl s
      · split
        · exact .refl s
        · exact act_acceptText t _ s
        · exact .refl s

theorem act_turnHeard (k : Kind) (t : Telegram) (s : State) : Act s (turnHeard k t s) :=
  (act_turnDecision k t s).trans (.of_eq rfl rfl rfl)

theorem act_startTelegram (c : Candidate) (s : State) : Act s (startTelegram c s) :=
  (act_elapse _ s).trans (.of_eq rfl rfl rfl)

theorem act_listenAfterAttempt (s : State) : Act s (listenAfterAttempt s) := by
  unfold listenAfterAttempt
  split <;> exact .of_eq rfl rfl rfl

theorem act_endRestartClear (source : SlotSource) (s : State) : Act s (endRestartClear source s) :=
  act_ite (act_listenAfterAttempt s)

theorem act_loseArbitration (x : Slot) (s : State) : Act s (loseArbitration x s) := act_lu (hasText_readyAgain _ _)

theorem act_entryUnanswered (k : Kind) (s : State) : Act s (entryUnanswered k s) := by
  unfold entryUnanswered
  split
  · exact .refl s
  · split
    · exact act_lu (hasText_appendFresh _ _)
    · split
      · exact .of_eq rfl rfl rfl
      · exact act_either (.of_eq rfl rfl rfl) ((act_exhausted _ { s with lu := dropEntry k s.lu }).after rfl rfl rfl)

/-- An unanswered TEXT that has used its retries ends the call, which is OPEN (R81). -/
theorem act_textUnanswered (s : State) : Act s (textUnanswered s) := by
  unfold textUnanswered
  split
  · exact .refl s
  · rename_i p place
    have live : (liveText s).isSome = !p.withdrawn := by
      cases withdrawn : p.withdrawn <;> simp [liveText, place, Option.filter, withdrawn]
    split
    · rename_i withdrawn
      exact .of_eq rfl (by rw [live, withdrawn]; rfl) rfl
    · rename_i kept
      split
      · exact act_lu ((hasText_map s.lu (f := fun x => { x with retriesUsed := p.retriesUsed + 1, readiness := retryWait s })
          fun _ => rfl) ▸ by rw [place]; rfl)
      · refine ⟨(act_textExhausted { s with lu.text := none }).moves, fun h => ?_⟩
        refine inFlightIsTheText_textExhausted (((inFlightIsTheText_iff s).mp h).2.2 ?_)
        exact live.trans (by simpa using kept)

theorem act_probeUnanswered (s : State) : Act s (probeUnanswered s) :=
  act_either (.of_eq rfl rfl rfl) ((act_enterJoined { s with lu.probeCount := 3 }).after rfl rfl rfl)

theorem act_entryTaken (k : Kind) (s : State) : Act s (entryTaken k s) := by
  unfold entryTaken
  split
  · exact .refl s
  · rename_i e _
    have gone : Act s { s with lu := appendFresh e.beside (dropEntry k s.lu) } := act_lu (hasText_appendFresh _ _)
    exact act_either (gone.trans (act_toIdle _ _ _)) gone

theorem act_textTaken (s : State) : Act s (textTaken s) := by
  unfold textTaken
  split
  · exact .refl s
  · rename_i p place
    split
    · rename_i withdrawn
      exact .of_eq rfl (by simp [liveText, place, Option.filter, withdrawn]) rfl
    · obtain ⟨moves, none⟩ := act_ackSend
        (s := { s with lu.text := none, cm.call.sendSeq := s.cm.call.sendSeq + 1 }) rfl
      exact ⟨moves, fun _ => none⟩

theorem act_collisionUnanswered (source : SlotSource) (s : State) : Act s (collisionUnanswered source s) := by
  cases source with
  | control k => exact act_entryUnanswered k s
  | text => exact act_textUnanswered s
  | probe => exact .of_eq rfl rfl rfl

theorem act_collide (x : Slot) (s : State) : Act s (collide x s) := by
  unfold collide
  dsimp only
  refine Act.after (act_either (act_enterListenOnly _)
    ((act_collisionUnanswered _ _).trans (act_endRestartClear _ _))) rfl ?_ rfl
  exact hasText_setCollisions _ _ _

theorem act_attemptOutcome (source : SlotSource) (ack : Bool) (s : State) : Act s (attemptOutcome source ack s) := by
  cases source <;> cases ack
  case control.true k => exact act_entryTaken k s
  case control.false k => exact act_entryUnanswered k s
  case text.true => exact act_textTaken s
  case text.false => exact act_textUnanswered s
  case probe.true => exact act_enterListenOnly s
  case probe.false => exact act_probeUnanswered s

theorem act_endAttempt (x : Slot) (ack handedOn : Bool) (s : State) : Act s (endAttempt x ack handedOn s) := by
  unfold endAttempt
  dsimp only
  refine Act.after ((act_attemptOutcome _ _ _).trans (act_endRestartClear _ _)) rfl ?_ rfl
  exact hasText_setCollisions _ _ _

theorem act_breakRestartClear (was : LineUnit) (s : State) : Act s (breakRestartClear was s) :=
  act_ite (.of_eq rfl rfl rfl)

theorem act_lineBroken (s : State) : Act s (lineBroken s) := by
  unfold lineBroken
  dsimp only
  refine Act.after ((act_breakRestartClear _ _).trans (act_notice _ _)) rfl ?_ rfl
  exact (hasText_clearCollisions _).trans (hasText_stopAttempt _)

theorem act_readSpace (after : Nat) (s : State) : Act s (readSpace after s) :=
  (act_elapse _ s).trans ((act_ite (act_lineBroken _)).after rfl rfl rfl)

theorem act_lineRestored (s : State) : Act s (lineRestored s) :=
  (act_elapse _ s).trans (((act_ite (act_enterProbe _)).trans (act_notice _ _)).after rfl rfl rfl)

theorem act_readBrokenSpace (s : State) : Act s (readBrokenSpace s) := (act_elapse _ s).trans (.of_eq rfl rfl rfl)

/-! ### The hand-on (R37) -/

theorem act_ringView (s : State) : Act s (ringView s) := .of_eq rfl rfl rfl

theorem act_ownCall (h : Handed) (s : State) : Act s (ownCall h s) := by
  unfold ownCall
  split
  · exact .refl s
  · split
    · exact act_requestOrDrop _ s
    · split
      · rename_i calling
        have state : s.cm.call.state ≠ .opened := by rw [calling]; decide
        exact act_either (act_enterOpen state) ((act_setCallState state).trans (act_ringView _))
      · exact .refl s

theorem act_overtaken (s : State) : Act s (overtaken s) := (act_toIdle _ _ _).after rfl rfl rfl

theorem act_undoDialing (s : State) : Act s (undoDialing s) := (act_notice _ _).after rfl rfl rfl

/-- An outcome that puts the record in a call finds it outside one (R76). -/
theorem not_opened_of_appliesTo {o : AnswerOutcome} {c : CallState} (applies : appliesTo o c = true)
    (call : ∀ r, o ≠ .refuse r) : c ≠ .opened := by
  rintro rfl
  cases o with
  | refuse r => exact call r rfl
  | _ => cases applies

theorem act_enterRinging (t : Telegram) (w : Fin 8) {s : State} (state : s.cm.call.state ≠ .opened) :
    Act s (enterRinging t w s) :=
  ((act_setCallState (s := setCalled .called t.source t.destination w s) state).trans (act_ringView _)).after rfl rfl rfl

theorem act_refuseCall (t : Telegram) (r : Reason) (undone : Bool) (s : State) : Act s (refuseCall t r undone s) :=
  (act_requestOrDrop _ s).trans (act_ite (act_toIdle _ _ _))

theorem act_applyOutcome {o : AnswerOutcome} (w : Fin 8) (t : Telegram) (undone : Bool) {s : State}
    (applies : appliesTo o s.cm.call.state = true) : Act s (applyOutcome o w t undone s) := by
  cases o with
  | ring =>
    have state := not_opened_of_appliesTo applies (by simp)
    exact (act_enterRinging t w state).trans (.of_eq rfl rfl rfl)
  | accept =>
    have state := not_opened_of_appliesTo applies (by simp)
    exact (act_enterRinging t w state).trans ((act_answerAccept (setAutoAnswered true (enterRinging t w s))).after rfl rfl rfl)
  | glare =>
    have state := not_opened_of_appliesTo applies (by simp)
    have rings := act_enterRinging t w (s := { s with lu := withdraw .call s.lu }) state
    exact (rings.after (s := s) rfl rfl rfl).trans ((act_answerAccept (setAutoAnswered false (enterRinging t w
      { s with lu := withdraw .call s.lu }))).after rfl rfl rfl)
  | refuse r => exact (act_refuseCall t r undone (setAutoAnswered false s)).after rfl rfl rfl
  | memberJoin =>
    have state := not_opened_of_appliesTo applies (by simp)
    exact (act_enterOpen (s := setAutoAnswered false (setCalled .member t.source t.destination w s)) state).after rfl rfl rfl
  | notTaken => exact .refl s

theorem act_takenCall (o : AnswerOutcome) (w : Fin 8) (atTurn : CallState) (t : Telegram) (s : State) :
    Act s (takenCall o w atTurn t s) := by
  unfold takenCall
  split
  · rename_i applies
    have undone : appliesTo o (undoDialing s).cm.call.state = true := by
      rw [undoDialing, (call_of_storeCore (storeCore_notice _ _)).1]; exact applies
    exact act_either ((act_undoDialing s).trans (act_applyOutcome w t true undone)) (act_applyOutcome w t false applies)
  · exact .refl s

theorem act_heardCall (tookView : Bool) (h : Handed) (s : State) : Act s (heardCall tookView h s) := by
  unfold heardCall
  dsimp only
  have first : Act s (if tookView && s.cm.call.state = .calling && !sparesAttempt h s then overtaken s else s) :=
    act_ite (act_overtaken s)
  split
  · exact first.trans (act_takenCall _ _ _ _ _)
  · exact first

theorem act_ownAccept (h : Handed) (s : State) : Act s (ownAccept h s) := by
  unfold ownAccept
  split
  · rename_i accepted
    obtain ⟨_, _, ringing, _⟩ := accepted
    exact act_enterOpen (by rw [ringing]; decide)
  · exact .refl s

theorem act_takenAccept (h : Handed) (s : State) : Act s (takenAccept h s) := by
  unfold takenAccept
  split
  · split
    · rename_i awaiting
      exact act_enterOpen (by rw [awaiting]; decide)
    · exact .refl s
    · exact act_requestOrDrop _ s
  · exact .refl s

theorem act_heardRefuse (freed : Bool) (h : Handed) (s : State) : Act s (heardRefuse freed h s) := by
  unfold heardRefuse
  split
  · exact .refl s
  · exact act_ite (act_either (act_toIdle _ _ s) (act_ite (act_notice _ s)))

theorem act_memberLeft (n : Station) (s : State) : Act s (memberLeft n s) := (act_notice _ _).after rfl rfl rfl

theorem act_heardClear (freed : Bool) (h : Handed) (s : State) : Act s (heardClear freed h s) := by
  unfold heardClear
  split
  · exact .refl s
  · dsimp only
    refine act_either (act_ite (act_memberLeft _ s)) (act_ite ?_)
    split
    · exact act_toIdle _ _ s
    · exact (act_toIdle _ _ _).after rfl rfl rfl
    · exact act_toIdle _ _ s
    · exact act_ite ((act_toIdle _ _ _).after rfl rfl rfl)
    · exact .refl s
    · exact .refl s
    · exact .refl s

theorem act_askedHold (s : State) :
    Act s (if s.cm.call.state ≠ .opened then s else if s.cm.call.heldByMe then queueHold s else setHeld s) :=
  act_either (.refl s) (act_either (act_queueHold s) (act_setHeld s))

theorem act_heardText (h : Handed) (s : State) : Act s (heardText h s) := by
  unfold heardText
  split
  · exact act_flowTest s
  · exact act_askedHold s
  · exact act_askedHold s
  · exact .refl s

theorem act_takenHold (h : Handed) (s : State) : Act s (takenHold h s) :=
  act_ite (.of_eq rfl (hasText_map s.lu fun _ => rfl) rfl)

theorem act_takenGo (h : Handed) (s : State) : Act s (takenGo h s) := act_ite (.of_eq rfl rfl rfl)

theorem act_takenBreak (h : Handed) (s : State) : Act s (takenBreak h s) :=
  act_ite ((act_stopSending s).trans (act_notice _ _))

theorem act_takenPoll (h : Handed) (s : State) : Act s (takenPoll h s) := by
  unfold takenPoll
  refine act_ite ?_
  split
  · exact .of_eq rfl rfl rfl
  · exact act_requestOrDrop _ s

theorem act_takenWho (h : Handed) (s : State) : Act s (takenWho h s) := act_ite (act_requestOrDrop _ s)

theorem act_capture (run : List Resolved) (s : State) : Act s (capture run s) := by
  unfold capture
  dsimp only
  split
  · refine .of_moves (Move.records s.cs s.au.file _ fun r => ?_).moves rfl
    split_ifs <;> exact ⟨rfl, rfl⟩
  · exact .of_eq rfl rfl rfl

theorem act_takenHereis (h : Handed) (s : State) : Act s (takenHereis h s) :=
  act_ite ((act_notice _ s).trans (act_ite (act_capture _ _)))

theorem act_luHandOn (h : Handed) (s : State) : Act s (luHandOn h s) :=
  act_either (.refl s) (act_either (act_either (act_enterListenOnly s) (act_enterProbe s)) (act_ite (act_enterListenOnly s)))

theorem act_cmHandOn (tookView freed : Bool) (h : Handed) (s : State) : Act s (cmHandOn tookView freed h s) := by
  unfold cmHandOn
  split
  · split
    · exact act_ownCall h s
    · exact act_ownAccept h s
    · exact .refl s
  · split
    · exact act_heardCall tookView h s
    · exact act_takenAccept h s
    · exact act_heardRefuse freed h s
    · exact act_heardClear freed h s
    · exact act_heardText h s
    · exact act_takenHold h s
    · exact act_takenGo h s
    · exact act_takenBreak h s
    · exact act_takenWho h s
    · exact act_takenHereis h s
    · exact act_takenPoll h s

theorem act_endFreed (freed : Bool) (h : Handed) (s : State) : Act s (endFreed freed h s) :=
  act_ite ((act_toIdle _ _ _).after rfl rfl rfl)

theorem act_handOn (h : Handed) (s : State) : Act s (handOn h s) :=
  (act_luHandOn h s).trans (((act_cmHandOn _ _ h _).trans (act_endFreed _ h _)).after rfl rfl rfl)

/-! ### Restart and the call's timers -/

/-- Restart empties the LU, and the end of the call flushes SEND (R54, R97). -/
theorem act_cmRestart_luEmpty (s : State) : Act s (cmRestart (luEmpty s)) := by
  unfold cmRestart
  dsimp only
  refine Act.trans ?_ (.of_eq (t := freeView _) rfl rfl rfl)
  split
  · exact ⟨(act_leaveOpen false (s := luEmpty s) (by decide)).moves, fun _ => inFlightIsTheText_leaveOpen _ _ (by decide)⟩
  · exact ⟨moves_flushSend (setCallState .idle (luEmpty s)), fun _ => inFlightIsTheText_flushSend rfl⟩

theorem act_restartAll (lines : PresenceLines) (s : State) : Act s (restartAll lines s) := by
  unfold restartAll
  dsimp only
  have ended := act_cmRestart_luEmpty (setScan restartPosition ⟨.down, 0⟩ (pressReport s))
  have emptied := ended.trans ((act_discardEdit { cmRestart (luEmpty (setScan restartPosition ⟨.down, 0⟩ (pressReport s))) with
    ku.fifo := [], ku.headWaiting := false, ku.retryDue := false, ku.dial := [] }).after rfl rfl rfl)
  have stopped (x : State) : Act x (tapeRestart lines x) := (act_endRun _).after rfl rfl rfl
  have told (x : State) : Act x (auRestart x) := (act_abandonCursor x).trans (act_tellIdle _)
  have listens (p : Option Addr) (x : State) : Act x (luRestart p x) := by cases p <;> exact .of_eq rfl rfl rfl
  exact (((emptied.trans (stopped _)).trans (told _)).trans (listens _ _)).trans
    ((act_nextPrintOp _).trans (act_nextPunchOp _)) |>.after rfl rfl rfl

theorem act_countDiscarded (units : List Bool) (s : State) : Act s (countDiscarded units s) := by
  unfold countDiscarded
  dsimp only
  exact act_either (.refl s) (act_either ((act_lineBroken _).after rfl rfl rfl) (.of_eq rfl rfl rfl))

theorem act_answerWaitEnds (s : State) : Act s (answerWaitEnds s) := by
  unfold answerWaitEnds
  split
  · exact act_toIdle _ _ s
  · exact (act_toIdle _ _ _).after rfl rfl rfl
  · exact .refl s

theorem act_silence (s : State) : Act s (silence s) := by
  unfold silence
  dsimp only
  refine act_either ?_ ((act_answerWaitEnds (freeView s)).after rfl rfl rfl)
  have left := (act_leaveOpen (c := .idle) false (s := freeView s) (by decide)).after rfl rfl rfl (s := s)
  exact ((((left.trans (act_requestOrDrop _ _)).trans (act_notice _ _)).trans (act_finishCursor _))).trans (act_tellIdle _)

theorem act_abandonCall (s : State) : Act s (abandonCall s) := by
  unfold abandonCall
  dsimp only
  refine act_either (Act.after (act_toIdle _ _ _) rfl ?_ rfl) (.of_eq rfl rfl rfl)
  unfold withdrawCall
  dsimp only
  split <;> rfl

theorem act_holdExpires (n : Station) (s : State) : Act s (holdExpires n s) := (act_notice _ _).after rfl rfl rfl

/-! ### The keyboard -/

theorem act_pressAt (p : BitVec 6) (k : KeyScan) (s : State) : Act s (pressAt p k s) := by
  have entered (j : Key) (x : State) : Act x (enterFifo j x) := by unfold enterFifo; split <;> exact .of_eq rfl rfl rfl
  have taken (j : Key) (x : State) : Act x (takePress j x) :=
    act_either ((entered j x).trans (.of_eq rfl rfl rfl)) (.of_eq rfl rfl rfl)
  unfold pressAt pressTaken
  refine act_either (Act.after (x := setScan p k s) ?_ rfl rfl rfl) (.of_eq rfl rfl rfl)
  split
  · exact taken _ _
  · exact .refl _

/-- A number dialed, in a record outside OPEN (R72). -/
theorem act_placeCall (d : Addr) {s : State} (state : s.cm.call.state ≠ .opened) : Act s (placeCall d s) := by
  unfold placeCall
  dsimp only
  have calling : Act s (setCaller d (setCallState .calling s)) := (act_setCallState state).trans (.of_eq rfl rfl rfl)
  exact act_either (calling.trans (act_sendRequest _ _)) ((act_toIdle _ _ s).trans (act_refuseKey _))

theorem act_endDialing {s : State} (state : s.cm.call.state ≠ .opened) : Act s (endDialing s) := by
  unfold endDialing
  dsimp only
  have refused : Act s (refuseKey (toIdle false none { s with ku.dial := [] })) :=
    ((act_toIdle _ _ _).trans (act_refuseKey _)).after rfl rfl rfl
  split
  · exact refused
  · exact act_either refused ((act_placeCall _ (s := { s with ku.dial := [] }) state).after rfl rfl rfl)

theorem act_dialKey (k : Key) {s : State} (state : s.cm.call.state ≠ .opened) : Act s (dialKey k s) := by
  unfold dialKey
  refine act_either (act_endDialing state) ?_
  split
  · exact act_either (.of_eq rfl rfl rfl) (act_refuseKey s)
  · exact act_refuseKey s

theorem act_echoRun (echo : Bool) (run : List Cell) (s : State) : Act s (echoRun echo run s) :=
  act_ite (act_appendRun_getD (act_refuseKey s))

theorem act_dealtWith (k : Key) (s : State) : Act s (dealtWith k s) := .of_eq rfl rfl rfl

theorem act_keyRuns (main : QueueName) (echo : Bool) (k : Key) (ch : Resolved) (s : State) :
    Act s (keyRuns main echo k ch s) := by
  unfold keyRuns
  refine act_either ?_ (.of_eq rfl rfl rfl)
  split
  · rename_i appended
    exact ((act_appendRun appended).trans (act_echoRun _ _ _)).trans (act_dealtWith _ _)
  · exact (act_refuseKey s).trans (act_dealtWith _ _)

/-- The commit of the edit stack: the run to SEND, and to PRINT where the printer is present (R108). -/
theorem act_commitLine (s : State) : Act s (commitLine s) := by
  unfold commitLine
  dsimp only
  split
  · rename_i passes
    generalize cellsOf .keyboard (s.ku.editStack ++ [.cr]) = run at passes ⊢
    obtain ⟨limits, _⟩ := Bool.and_eq_true_iff.mp passes
    obtain ⟨send, print⟩ := Bool.and_eq_true_iff.mp limits
    have sent : Act s (placeRun .send run s) := act_placeRun send
    refine Act.trans ?_ (act_signal _ _ _)
    split
    · rename_i present
      rw [present] at print
      have second := act_placeRun (n := .print) (s := placeRun .send run s) (run := run) (by
        show ((s.cs.pushRun .send run).queue .print).limitPasses run = true
        rw [Store.queue_pushRun_ne run (by decide)]; exact print)
      exact sent.trans (second.trans (.of_eq (Prod.ext rfl (congrArg Prod.snd (storeFile_startSendTimer .print run _)).symm) rfl rfl))
    · exact sent.trans (.of_eq rfl rfl rfl)
  · exact act_refuseKey s

theorem act_editKey (k : Key) (ch : Resolved) (s : State) : Act s (editKey k ch s) := by
  have refused : Act s (dealtWith k (refuseKey s)) := (act_refuseKey s).trans (act_dealtWith _ _)
  refine act_either ((act_commitLine s).trans (act_dealtWith _ _)) (act_either (act_either (act_keyRuns _ _ _ _ s) refused) ?_)
  exact act_either (.of_eq rfl rfl rfl) refused

theorem act_modeKey (k : Key) (ch : Resolved) (s : State) : Act s (modeKey k ch s) := by
  have refused : Act s (dealtWith k (refuseKey s)) := (act_refuseKey s).trans (act_dealtWith _ _)
  unfold modeKey
  split
  · exact act_either refused (act_either (act_editKey k ch s) (act_keyRuns _ _ _ _ s))
  · exact act_either (act_keyRuns _ _ _ _ s) refused
  · exact act_either (act_keyRuns _ _ _ _ s) refused

theorem act_interpretChar (k : Key) (ch : Resolved) (s : State) : Act s (interpretChar k ch s) := by
  unfold interpretChar
  split
  · rename_i dialing
    exact (act_dialKey k (by rw [dialing]; decide)).trans (act_dealtWith _ _)
  · exact act_modeKey k ch s

theorem act_setMode (m : KeyMode) (s : State) : Act s (setMode m s) := act_either (.of_eq rfl rfl rfl) (act_refuseKey s)

theorem act_backspaceKey (s : State) : Act s (backspaceKey s) := act_either (.of_eq rfl rfl rfl) (act_refuseKey s)

theorem act_answerByKey (s : State) : Act s (answerByKey s) := act_ite ((act_answerAccept _).after rfl rfl rfl)
theorem act_refuseByKey (s : State) : Act s (refuseByKey s) := act_ite ((act_answerRefuse _ _).after rfl rfl rfl)
theorem act_cancelDialing (s : State) : Act s (cancelDialing s) := (act_toIdle _ _ _).after rfl rfl rfl

theorem act_takenRinging {f : State → State} {s : State} (h : Act s (f s)) : Act s (takenRinging f s) :=
  act_either h (act_refuseKey s)

theorem act_takenDialing {f : State → State} {s : State} (h : s.cm.call.state ≠ .opened → Act s (f s)) :
    Act s (takenDialing f s) := by
  unfold takenDialing
  split
  · rename_i dialing; exact h (by rw [dialing]; decide)
  · exact .of_eq rfl rfl rfl

theorem act_requestDialing (s : State) : Act s (requestDialing s) := by
  unfold requestDialing
  split
  · rename_i idle
    exact (act_setCallState (c := .dialing) (s := s) (by rw [idle]; decide)).trans (.of_eq rfl rfl rfl)
  · exact act_refuseKey s

theorem act_callKeyAct (read : CallState) (s : State) : Act s (callKeyAct read s) := by
  unfold callKeyAct
  split
  · exact act_takenDialing act_endDialing
  · exact act_takenRinging (act_answerByKey s)
  · exact act_requestDialing s

theorem act_requestClear (s : State) : Act s (requestClear s) := by
  unfold requestClear
  split
  · exact act_cancelDialing s
  · exact (act_toIdle _ _ _).after rfl rfl rfl
  · rename_i awaiting
    exact (act_setCallState (by rw [awaiting]; decide)).trans (act_sendRequest _ _)
  · exact act_openToClearing _ _ _ s
  · exact act_refuseByKey s
  · exact .refl s
  · exact .refl s

theorem act_clearKeyAct (read : CallState) (s : State) : Act s (clearKeyAct read s) := by
  unfold clearKeyAct
  split
  · exact .refl s
  · exact .refl s
  · exact act_takenDialing fun _ => act_cancelDialing s
  · exact act_takenRinging (act_refuseByKey s)
  · exact act_requestClear s

theorem act_whoKeyAct (s : State) : Act s (whoKeyAct s) := by
  unfold whoKeyAct
  split
  · exact act_requestWho _ s
  · exact act_requestWho _ s
  · exact act_refuseKey s

theorem act_hereisKeyAct (s : State) : Act s (hereisKeyAct s) := by
  unfold hereisKeyAct
  refine act_either ?_ (act_either (act_appendRun_getD (act_refuseKey s)) (act_refuseKey s))
  split
  · rename_i appended; exact (act_appendRun appended).trans (act_echoRun _ _ _)
  · exact act_refuseKey s

theorem act_breakKeyAct (s : State) : Act s (breakKeyAct s) :=
  act_either (act_either (act_stopSending s) (act_requestOrDrop _ s)) (act_refuseKey s)

theorem act_pollKeyAct (s : State) : Act s (pollKeyAct s) := act_either (act_requestOrDrop _ s) (act_refuseKey s)

theorem act_readStartAct (s : State) : Act s (readStartAct s) := by
  unfold readStartAct
  refine act_either (act_refuseKey s) ?_
  split
  · exact .of_eq rfl rfl rfl
  · exact act_refuseKey s

theorem act_readStopAct (s : State) : Act s (readStopAct s) := act_either (act_endRunWith _ s) (act_refuseKey s)

theorem act_filePrintAct (s : State) : Act s (filePrintAct s) := by
  unfold filePrintAct
  refine act_either (act_refuseKey s) ?_
  split
  · exact act_refuseKey s
  · dsimp only
    exact act_either ((act_startReplay _ s).trans (act_auTests _)) (act_startReplay _ s)

/-! ### The file and the terminal -/

theorem dropRecords_eq (rs : List FileRecord) (s : State) :
    dropRecords rs s =
      { s with cs := s.cs.flushChains rs, au.file := s.au.file.filter fun x => x.slot ∉ rs.map FileRecord.slot } := by
  induction rs generalizing s with
  | nil => simp [dropRecords, Store.flushChains]
  | cons r rs ih =>
    have first : dropRecords (r :: rs) s = dropRecords rs (dropRecord r s) := rfl
    rw [first, ih]
    simp only [dropRecord, flushChains_cons, List.filter_filter, State.mk.injEq, AnsweringUnit.mk.injEq, true_and, and_true]
    refine List.filter_congr fun x _ => ?_
    simp [Bool.and_comm]

theorem act_dropRecords {rs : List FileRecord} {s : State} (sub : rs.Sublist s.au.file) : Act s (dropRecords rs s) := by
  rw [dropRecords_eq]
  exact .of_moves (Move.drops s.cs s.au.file rs sub).moves
    (Prod.ext (congrArg Queue.inFlight (queue_flushChains s.cs rs .send)) rfl)

theorem act_fileClearAct (s : State) : Act s (fileClearAct s) := by
  have cleared := act_dropRecords (s := s) (List.filter_sublist (p := FileRecord.isPrinted))
  exact (cleared.trans (act_signal _ _ _)).trans (act_ite (act_flowTest _))

theorem act_attendKeyAct (s : State) : Act s (attendKeyAct s) := act_either (.refl s) (act_attendRequest _ _ s)

theorem act_setPaper (p : Supply) (s : State) : Act s (setPaper p s) :=
  ((act_printerChange _ _).trans (act_nextPrintOp _)).after rfl rfl rfl

theorem act_completePrintOp (s : State) : Act s (completePrintOp s) := by
  unfold completePrintOp
  split
  · exact act_finishPrintOp _ s
  · exact .refl s

theorem act_setTape (t : Supply) (s : State) : Act s (setTape t s) := by
  unfold setTape
  dsimp only
  have renewed : Act { s with tu.tape := t } (if s.tu.tape = .out ∧ t ≠ .out then newTape { s with tu.tape := t }
      else { s with tu.tape := t }) := act_ite (.of_eq rfl rfl rfl)
  exact (renewed.trans ((act_punchChange _ _).trans (act_nextPunchOp _))).after rfl rfl rfl

theorem act_completeCycle (row : Code) (s : State) : Act s (completeCycle row s) := by
  unfold completeCycle
  dsimp only
  split
  · exact act_either (.of_eq rfl rfl rfl) ((act_readerCode _ row _).after rfl rfl rfl)
  · exact .of_eq rfl rfl rfl

theorem act_runUpEnds (s : State) : Act s (runUpEnds s) :=
  act_either (.of_eq rfl rfl rfl) ((act_enterRunning { s with mt.runUp := none }).after rfl rfl rfl)

theorem act_senseTaken (level : Level) (s : State) : Act s (senseTaken level s) := by
  unfold senseTaken
  dsimp only
  split
  · exact act_either ((act_enterRunning _).after rfl rfl rfl) (.of_eq rfl rfl rfl)
  · exact (act_enterFaulted _).after rfl rfl rfl
  · exact .of_eq rfl rfl rfl

theorem act_switchTaken (level : Level) (s : State) : Act s (switchTaken level s) :=
  (act_attendRequest _ _ _).after rfl rfl rfl

theorem act_answerByTimer (s : State) : Act s (answerByTimer s) := by
  unfold answerByTimer
  dsimp only
  refine act_either ?_ ((act_answerRefuse _ _).after rfl rfl rfl)
  split
  · exact (act_answerAccept _).after rfl rfl rfl
  · exact (act_answerRefuse _ _).after rfl rfl rfl

/-! ### The answers of commands -/

/-- Whatever next state a command answers is reached by an act. -/
def AnswerActs (s : State) (r : Result) : Prop := ∀ t, r = .next t → Act s t

theorem answerActs_unmoved (s : State) : AnswerActs s (unmoved s) := by
  rintro t ⟨⟩
  exact .refl s

theorem answerActs_acted {s t : State} (h : Act s t) : AnswerActs s (acted t) := by
  rintro u ⟨⟩
  exact h.trans (act_settle t)

theorem answerActs_actIf {can : Bool} {f : State → State} {s : State} (h : Act s (f s)) : AnswerActs s (actIf can f s) := by
  unfold actIf
  split
  · exact answerActs_acted h
  · exact answerActs_unmoved s

theorem answerActs_expire {timer : Option Tick} {can : Bool} {f : State → State} {s : State} (h : ∀ x, Act x (f x)) :
    AnswerActs s (expire timer can f s) := by
  unfold expire
  split
  · exact answerActs_actIf ((act_elapse _ s).trans (h _))
  · exact answerActs_unmoved s

theorem answerActs_keyAct {k : Key} {f : State → State} {s : State} (h : ∀ x, Act x (f x)) : AnswerActs s (keyAct k f s) :=
  answerActs_actIf ((h s).trans (.of_eq rfl rfl rfl))

theorem answerActs_breakLine (s : State) : AnswerActs s (breakLine s) := answerActs_actIf (act_lineBroken s)

theorem answerActs_readUnits {units : List Bool} {f : State → State} {s : State} (h : ∀ x, Act x (f x)) :
    AnswerActs s (readUnits units f s) := by
  unfold readUnits
  split
  · exact answerActs_breakLine s
  · exact answerActs_acted ((h (countUnits units s)).after rfl rfl rfl)

theorem answerActs_transmitStart (s : State) : AnswerActs s (execTransmitStart s) := by
  unfold execTransmitStart
  dsimp only
  split
  · exact answerActs_actIf ((act_formText s).trans (act_startTelegram _ _))
  · exact answerActs_unmoved s

theorem answerActs_telegramTurn (t : Telegram) (s : State) : AnswerActs s (execTelegramTurn t s) := by
  unfold execTelegramTurn
  split
  · exact answerActs_readUnits (act_turnHeard _ t)
  · split
    · exact answerActs_readUnits fun _ => .of_eq rfl rfl rfl
    · exact answerActs_unmoved s
  · exact answerActs_readUnits fun _ => .of_eq rfl rfl rfl
  · exact answerActs_unmoved s
  · exact answerActs_unmoved s

theorem answerActs_malformedDiscard (t : Telegram) (s : State) : AnswerActs s (execMalformedDiscard t s) := by
  unfold execMalformedDiscard
  split
  · exact answerActs_readUnits fun _ => .of_eq rfl rfl rfl
  · exact answerActs_unmoved s

theorem answerActs_telegramHandOn (slot : SlotUnits) (s : State) : AnswerActs s (execTelegramHandOn slot s) := by
  unfold execTelegramHandOn
  split
  · split
    · split
      · exact answerActs_breakLine s
      · exact answerActs_acted ((act_handOn _ _).after rfl rfl rfl)
    · exact answerActs_unmoved s
  · exact answerActs_unmoved s

theorem answerActs_arbitrationLoss (s : State) : AnswerActs s (execArbitrationLoss s) := by
  unfold execArbitrationLoss
  split
  · exact answerActs_acted (act_loseArbitration _ s)
  · exact answerActs_unmoved s

theorem answerActs_collision (s : State) : AnswerActs s (execCollision s) := by
  unfold execCollision
  split
  · rename_i x _
    dsimp only
    split
    · exact answerActs_readUnits fun y => (act_collide x { y with lu.spaceLeft := _ }).after rfl rfl rfl
    · exact answerActs_acted (act_collide x s)
  · exact answerActs_unmoved s

theorem answerActs_attemptEnd (ackSpace : Bool) (s : State) : AnswerActs s (execAttemptEnd ackSpace s) := by
  unfold execAttemptEnd
  split
  · exact answerActs_actIf (act_endAttempt _ _ _ s)
  · exact answerActs_unmoved s

theorem answerActs_keyPress (key : KeySamples) (s : State) : AnswerActs s (execKeyPress key s) := by
  unfold execKeyPress
  split
  · exact answerActs_actIf (act_pressAt _ _ s)
  · exact answerActs_unmoved s

theorem answerActs_keyRelease (key : KeySamples) (s : State) : AnswerActs s (execKeyRelease key s) := by
  unfold execKeyRelease
  split
  · exact answerActs_acted (.of_eq rfl rfl rfl)
  · exact answerActs_unmoved s

theorem answerActs_characterKey (s : State) : AnswerActs s (execCharacterKey s) := by
  unfold execCharacterKey
  split
  · exact answerActs_actIf (act_interpretChar _ _ s)
  · exact answerActs_unmoved s

theorem answerActs_keyHeadRetry (s : State) : AnswerActs s (execKeyHeadRetry s) := by
  unfold execKeyHeadRetry
  split
  · exact answerActs_actIf (act_interpretChar _ _ s)
  · exact answerActs_unmoved s

theorem answerActs_puTakeCell (s : State) : AnswerActs s (execPuTakeCell s) := by
  unfold execPuTakeCell
  split
  · exact answerActs_actIf (act_takePrintCell _ _ s)
  · exact answerActs_unmoved s

theorem answerActs_punchTakeCell (s : State) : AnswerActs s (execPunchTakeCell s) := by
  unfold execPunchTakeCell
  split
  · exact answerActs_actIf (act_takePunchCell _ s)
  · exact answerActs_unmoved s

theorem answerActs_readerCycleStart (s : State) : AnswerActs s (execReaderCycleStart s) := by
  unfold execReaderCycleStart
  split
  · exact answerActs_actIf (act_readerStep _ s)
  · exact answerActs_unmoved s

theorem answerActs_readerResume (s : State) : AnswerActs s (execReaderResume s) := by
  unfold execReaderResume
  split
  · exact answerActs_actIf ((act_readerGoOn _ _).after rfl rfl rfl)
  · exact answerActs_unmoved s

/-! ### Every command -/

/-- The commands that end the configuration load (R180, R182). -/
def endsLoad : Instr → Bool
  | .configReadDone _ _ => true
  | .configNoAck _ => true
  | .configLoadTimeout _ => true
  | _ => false

/-- Every command but RESET_ASSERT and the load's three ends is an act. -/
theorem exec_acts {c : Instr} {s : State} (noReset : c ≠ .resetAssert) (noLoad : endsLoad c = false) :
    AnswerActs s (exec c s) := by
  cases c with
  | resetAssert => exact absurd rfl noReset
  | resetRelease straps lines => exact answerActs_actIf (.of_eq rfl rfl rfl)
  | configReadDone image inputs => cases noLoad
  | configNoAck inputs => cases noLoad
  | configLoadTimeout inputs => cases noLoad
  | telegramTurn t => exact answerActs_telegramTurn t s
  | malformedDiscard t => exact answerActs_malformedDiscard t s
  | telegramHandOn slot => exact answerActs_telegramHandOn slot s
  | transmitStart => exact answerActs_transmitStart s
  | arbitrationLoss => exact answerActs_arbitrationLoss s
  | collision => exact answerActs_collision s
  | attemptEnd ackSpace => exact answerActs_attemptEnd ackSpace s
  | retryWaitExpiry which =>
    rw [exec, execRetryWaitExpiry]
    exact answerActs_expire fun x => act_lu (hasText_makeReady which x.lu)
  | lineBreak => exact answerActs_breakLine s
  | lineRestored => exact answerActs_actIf (act_lineRestored s)
  | listenQuietExpiry =>
    rw [exec, execListenQuietExpiry]
    exact answerActs_actIf ((act_elapse _ s).trans (act_enterProbe _))
  | listenWindowExpiry =>
    rw [exec, execListenWindowExpiry]
    exact answerActs_expire fun _ => (act_notice _ _).after rfl rfl rfl
  | probeWaitExpiry =>
    rw [exec, execProbeWaitExpiry]
    exact answerActs_expire fun _ => .of_eq rfl rfl rfl
  | sendTimerExpiry =>
    rw [exec, execSendTimerExpiry]
    exact answerActs_expire fun _ => .of_eq rfl rfl rfl
  | silenceExpiry => exact answerActs_expire act_silence
  | ringWaitExpiry =>
    rw [exec, execRingWaitExpiry]
    exact answerActs_expire fun x => (act_answerWaitEnds (freeView x)).after rfl rfl rfl
  | breakTimerExpiry => exact answerActs_expire act_abandonCall
  | holdEntryExpiry station => exact answerActs_expire (act_holdExpires station)
  | heldSinceExpiry =>
    rw [exec, execHeldSinceExpiry]
    exact answerActs_expire fun _ => act_openToClearing _ _ _ _
  | keyPress key => exact answerActs_keyPress key s
  | keyHeadRetry => exact answerActs_keyHeadRetry s
  | characterKey => exact answerActs_characterKey s
  | ltrsKey =>
    rw [exec, execLtrsKey]
    exact answerActs_keyAct fun _ => .of_eq rfl rfl rfl
  | figsKey =>
    rw [exec, execFigsKey]
    exact answerActs_keyAct fun _ => .of_eq rfl rfl rfl
  | lineKey => exact answerActs_keyAct (act_setMode .line)
  | localKey => exact answerActs_keyAct (act_setMode .localMode)
  | tapeKey => exact answerActs_keyAct (act_setMode .tape)
  | backspace => exact answerActs_keyAct act_backspaceKey
  | callKey =>
    rw [exec, execCallKey]
    exact answerActs_keyAct fun x => act_callKeyAct x.ku.headRead x
  | clearKey =>
    rw [exec, execClearKey]
    exact answerActs_keyAct fun x => act_clearKeyAct x.ku.headRead x
  | whoKey => exact answerActs_keyAct act_whoKeyAct
  | hereisKey => exact answerActs_keyAct act_hereisKeyAct
  | breakKey => exact answerActs_keyAct act_breakKeyAct
  | pollKey => exact answerActs_keyAct act_pollKeyAct
  | readStart => exact answerActs_keyAct act_readStartAct
  | readStop => exact answerActs_keyAct act_readStopAct
  | filePrint => exact answerActs_keyAct act_filePrintAct
  | fileClear => exact answerActs_keyAct act_fileClearAct
  | attendKey => exact answerActs_keyAct act_attendKeyAct
  | restart lines =>
    rw [exec, execRestart]
    exact answerActs_actIf ((act_countDiscarded lines.units s).trans (act_restartAll lines.toPresenceLines _))
  | paperStateChange first second => exact answerActs_actIf (act_setPaper _ s)
  | puTakeCell => exact answerActs_puTakeCell s
  | printOpComplete => exact answerActs_expire act_completePrintOp
  | heatTimerExpiry => exact answerActs_expire fun _ => .of_eq rfl rfl rfl
  | tapeStateChange first second => exact answerActs_actIf (act_setTape _ s)
  | punchTakeCell => exact answerActs_punchTakeCell s
  | punchOpComplete => exact answerActs_expire fun _ => (act_nextPunchOp _).after rfl rfl rfl
  | tapeInChange level => exact answerActs_actIf (f := fun x => { x with tu.tapeIn := isHigh level }) (.of_eq rfl rfl rfl)
  | readerCycleStart => exact answerActs_readerCycleStart s
  | readerCycleComplete row => exact answerActs_expire (act_completeCycle row)
  | readerResume => exact answerActs_readerResume s
  | runUpExpiry => exact answerActs_expire act_runUpEnds
  | senseWindowExpiry => exact answerActs_expire act_enterFaulted
  | motorSenseChange level => exact answerActs_actIf (act_senseTaken level s)
  | motorHoldExpiry =>
    rw [exec, execMotorHoldExpiry]
    exact answerActs_expire fun _ => .of_eq rfl rfl rfl
  | faultWaitExpiry => exact answerActs_expire act_leaveFaulted
  | bellPulseExpiry =>
    rw [exec, execBellPulseExpiry]
    exact answerActs_expire fun _ => .of_eq rfl rfl rfl
  | cadencePhaseExpiry =>
    rw [exec, execCadencePhaseExpiry]
    exact answerActs_expire fun _ => .of_eq rfl rfl rfl
  | callLampFlashExpiry =>
    rw [exec, execCallLampFlashExpiry]
    exact answerActs_expire fun _ => .of_eq rfl rfl rfl
  | attendSwitchChange level => exact answerActs_actIf (act_switchTaken level s)
  | attendTimerExpiry =>
    rw [exec, execAttendTimerExpiry]
    exact answerActs_expire fun _ => (act_attendRequest _ _ _).after rfl rfl rfl
  | ringTimerExpiry => exact answerActs_expire act_answerByTimer
  | replayHeaderRetry =>
    rw [exec, execReplayHeaderRetry]
    exact answerActs_actIf ((act_tryHeader s).trans (act_finishCursor _))
  | stationClockTick => exact answerActs_expire fun _ => .of_eq rfl rfl rfl
  | huntingSpaceRead afterUnits => exact answerActs_actIf (act_readSpace afterUnits s)
  | brokenSpaceRead => exact answerActs_actIf (act_readBrokenSpace s)
  | keyRelease key => exact answerActs_keyRelease key s

end Sys2Proof.Machine
end

section
/-!
Before the load has ended every block holds its device-reset values (R29, R49, R179), so that a command finds nothing to do,
but for RESET's release, the load's ends, the heat timer and the station clock.
-/

namespace Sys2Proof.Machine

/-- The machine at its device-reset values, with what the release of RESET samples and starts (R130, R168, R179, R180). -/
def resetWith (printer punch reader : Bool) (heat : Option Tick) (clock : BitVec 16) (minute : Option Tick)
    (cl : ConfigLoader) (pending : List Instr) : State :=
  { State.reset with
    pu.present := printer
    pu.heatTimer := heat
    tu.punchPresent := punch
    tu.readerPresent := reader
    au.clock := clock
    au.minuteLeft := minute
    cl
    pending }

/-- The machine holds its device-reset values. -/
def AtReset (s : State) : Prop :=
  ∃ printer punch reader heat clock minute, s = resetWith printer punch reader heat clock minute s.cl s.pending

theorem atReset_resetWith (printer punch reader : Bool) (heat : Option Tick) (clock : BitVec 16) (minute : Option Tick)
    (cl : ConfigLoader) (pending : List Instr) : AtReset (resetWith printer punch reader heat clock minute cl pending) :=
  ⟨printer, punch, reader, heat, clock, minute, rfl⟩

theorem atResetUntilLoaded_iff (s : State) : atResetUntilLoaded s ↔ (loaded s = false → AtReset s) := by
  refine forall_congr' fun _ => ⟨?_, ?_⟩
  · rintro ⟨lu, cm, cs, ku, pu, tu, mt, au⟩
    obtain ⟨slu, scm, scs, sku, spu, stu, smt, sau, scl, pending⟩ := s
    dsimp only at lu cm cs ku pu tu mt au
    subst lu cm cs ku mt
    refine ⟨spu.present, stu.punchPresent, stu.readerPresent, spu.heatTimer, sau.clock, sau.minuteLeft, ?_⟩
    rw [State.mk.injEq]
    exact ⟨rfl, rfl, rfl, rfl, pu, tu, rfl, au, rfl, rfl⟩
  · rintro ⟨printer, punch, reader, heat, clock, minute, h⟩
    rw [h]
    exact ⟨rfl, rfl, rfl, rfl, rfl, rfl, rfl, rfl⟩

theorem atReset_elapse (d : Tick) {s : State} (h : AtReset s) : AtReset (elapse d s) := by
  obtain ⟨printer, punch, reader, heat, clock, minute, h⟩ := h
  unfold elapse
  split
  · rw [h]; exact atReset_resetWith ..
  · refine ⟨printer, punch, reader, timeDown d heat, clock, timeDown d minute, ?_⟩
    rw [h]
    simp [resetWith, State.reset, LineUnit.reset, LineUnit.elapse, LineUnit.counting, CallManager.reset, CallManager.elapse,
      CallRecord.reset, LineView.reset, SendTimer.elapse, timeDown, PrintUnit.reset, PrintUnit.elapse, TapeUnit.reset,
      TapeUnit.elapse, MotorTerminal.reset, MotorTerminal.elapse, AnsweringUnit.reset, AnsweringUnit.elapse]

/-- The commands that act before the load has ended. -/
def actsBeforeLoad : Instr → Bool
  | .resetAssert => true
  | .resetRelease _ _ => true
  | .configReadDone _ _ => true
  | .configNoAck _ => true
  | .configLoadTimeout _ => true
  | .heatTimerExpiry => true
  | .stationClockTick => true
  | _ => false

theorem actIf_of_false {can : Bool} {f : State → State} {s : State} (h : can = false) : actIf can f s = .next s := by
  rw [actIf, h]; rfl

theorem expire_of_none {timer : Option Tick} {can : Bool} {f : State → State} {s : State} (h : timer = none) :
    expire timer can f s = .next s := by
  rw [h]; rfl

/-! ### Before the load has ended nothing is read or keyed (R49, R99, R101) -/

section
variable {s : State} (load : loaded s = false)
include load

theorem online_beforeLoad : online s = false := by simp [online, load]

theorem hunts_beforeLoad : hunts s = false := by simp [hunts, online, load]

theorem charHead_beforeLoad : charHead s = none := by simp [charHead, headKey, load]

theorem sampled_beforeLoad (l : KeyLevel) (key : KeySamples) : sampled l key s = none := by
  unfold sampled
  split
  · exact if_neg fun h => Bool.false_ne_true (load.symm.trans h.1)
  · rfl

theorem keyAct_beforeLoad (k : Key) (f : State → State) : keyAct k f s = .next s :=
  actIf_of_false (by simp [headKey, load])

/-- Any other command finds the machine as device reset left it, and changes nothing. -/
theorem exec_beforeLoad {c : Instr} (reset : AtReset s) (other : actsBeforeLoad c = false) : exec c s = .next s := by
  obtain ⟨printer, punch, reader, heat, clock, minute, h⟩ := reset
  generalize s.cl = cl at h
  generalize s.pending = pending at h
  subst h
  cases c with
  | resetAssert => cases other
  | resetRelease _ _ => cases other
  | configReadDone _ _ => cases other
  | configNoAck _ => cases other
  | configLoadTimeout _ => cases other
  | telegramTurn t => exact rfl
  | malformedDiscard t => exact rfl
  | telegramHandOn slot => exact rfl
  | transmitStart => exact rfl
  | arbitrationLoss => exact rfl
  | collision => exact rfl
  | attemptEnd ackSpace => exact rfl
  | retryWaitExpiry which =>
    rw [exec, execRetryWaitExpiry]
    exact expire_of_none (by cases which <;> rfl)
  | lineBreak => exact actIf_of_false (by simp [online_beforeLoad load])
  | lineRestored => exact actIf_of_false (by simp [isBroken, online_beforeLoad load])
  | listenQuietExpiry =>
    rw [exec, execListenQuietExpiry]
    exact actIf_of_false (by simp [hunts_beforeLoad load])
  | listenWindowExpiry => exact rfl
  | probeWaitExpiry => exact rfl
  | sendTimerExpiry => exact rfl
  | silenceExpiry => exact rfl
  | ringWaitExpiry => exact rfl
  | breakTimerExpiry => exact rfl
  | holdEntryExpiry station => exact rfl
  | heldSinceExpiry => exact rfl
  | keyPress key => rw [exec, execKeyPress, sampled_beforeLoad load]; rfl
  | keyHeadRetry => rw [exec, execKeyHeadRetry, charHead_beforeLoad load]; rfl
  | characterKey => rw [exec, execCharacterKey, charHead_beforeLoad load]; rfl
  | ltrsKey =>
    rw [exec, execLtrsKey]
    exact keyAct_beforeLoad load _ _
  | figsKey =>
    rw [exec, execFigsKey]
    exact keyAct_beforeLoad load _ _
  | lineKey => exact keyAct_beforeLoad load _ _
  | localKey => exact keyAct_beforeLoad load _ _
  | tapeKey => exact keyAct_beforeLoad load _ _
  | backspace => exact keyAct_beforeLoad load _ _
  | callKey => exact keyAct_beforeLoad load _ _
  | clearKey => exact keyAct_beforeLoad load _ _
  | whoKey => exact keyAct_beforeLoad load _ _
  | hereisKey => exact keyAct_beforeLoad load _ _
  | breakKey => exact keyAct_beforeLoad load _ _
  | pollKey => exact keyAct_beforeLoad load _ _
  | readStart => exact keyAct_beforeLoad load _ _
  | readStop => exact keyAct_beforeLoad load _ _
  | filePrint => exact keyAct_beforeLoad load _ _
  | fileClear => exact keyAct_beforeLoad load _ _
  | attendKey => exact keyAct_beforeLoad load _ _
  | restart lines => exact actIf_of_false (by simp [load])
  | paperStateChange first second => exact actIf_of_false load
  | puTakeCell => 
    rw [exec, execPuTakeCell]
    split
    · exact actIf_of_false load
    · rfl
  | printOpComplete => exact rfl
  | heatTimerExpiry => cases other
  | tapeStateChange first second => exact actIf_of_false load
  | punchTakeCell => 
    rw [exec, execPunchTakeCell]
    split
    · exact actIf_of_false load
    · rfl
  | punchOpComplete => exact rfl
  | tapeInChange level =>
    rw [exec, execTapeInChange]
    exact actIf_of_false load
  | readerCycleStart => exact rfl
  | readerCycleComplete row => exact rfl
  | readerResume => exact rfl
  | runUpExpiry => exact rfl
  | senseWindowExpiry => exact rfl
  | motorSenseChange level => exact actIf_of_false (by simp [load])
  | motorHoldExpiry => exact rfl
  | faultWaitExpiry => exact rfl
  | bellPulseExpiry => exact rfl
  | cadencePhaseExpiry => exact rfl
  | callLampFlashExpiry => exact rfl
  | attendSwitchChange level => exact actIf_of_false (by simp [load])
  | attendTimerExpiry => exact rfl
  | ringTimerExpiry => exact rfl
  | replayHeaderRetry => exact rfl
  | stationClockTick => cases other
  | huntingSpaceRead afterUnits => exact actIf_of_false (hunts_beforeLoad load)
  | brokenSpaceRead => exact actIf_of_false (by simp [isBroken, online_beforeLoad load])
  | keyRelease key => rw [exec, execKeyRelease, sampled_beforeLoad load]; rfl
end

end Sys2Proof.Machine
end

section
/-!
The invariants of the store and of the cells in flight: an act keeps them, device reset meets them, and the end of the load,
which hands out the queues' limits, finds the queues empty.
-/

namespace Sys2Proof.Machine

/-! ### The end of the load -/

theorem act_firstAttendance (s : State) : Act s (firstAttendance s) := by
  unfold firstAttendance
  dsimp only
  exact (act_ite (act_attendRequest _ _ s)).trans (.of_eq rfl rfl rfl)

theorem act_endLoad (result : Option Loaded) (inputs : InputLines) (s : State) :
    ∃ ok ld, Act (handOut ok ld inputs s) (endLoad result inputs s) := by
  cases result with
  | some ld => exact ⟨true, ld, (act_enterListen _).trans (act_firstAttendance _)⟩
  | none =>
    exact ⟨false, loadDefaults s.cl.station,
      ((act_notice _ _).trans (act_enterListen _)).trans (act_firstAttendance _)⟩

/-- The load ends in `t`: its values are handed out on a state with the store of `s`, and acts follow (R184). -/
def LoadEnds (s t : State) : Prop :=
  loadingNow s = true ∧ ∃ x ok ld inputs, x.cs = s.cs ∧ Act s x ∧ Act (handOut ok ld inputs x) t

theorem loadEnds_actIf {result : Option Loaded} {inputs : InputLines} {s x t : State} (store : x.cs = s.cs) (time : Act s x)
    (next : actIf (loadingNow s) (fun _ => endLoad result inputs x) s = .next t) : Act s t ∨ LoadEnds s t := by
  unfold actIf at next
  split at next
  · rename_i loading
    obtain ⟨ok, ld, ended⟩ := act_endLoad result inputs x
    cases next
    exact .inr ⟨loading, x, ok, ld, inputs, store, time, ended.trans (act_settle _)⟩
  · cases next
    exact .inl (.refl s)

theorem exec_endsLoad {c : Instr} {s t : State} (ends : endsLoad c = true) (next : exec c s = .next t) :
    Act s t ∨ LoadEnds s t := by
  cases c with
  | configReadDone image inputs => exact loadEnds_actIf rfl (.refl s) next
  | configNoAck inputs => exact loadEnds_actIf rfl (.refl s) next
  | configLoadTimeout inputs =>
    rw [exec, execConfigLoadTimeout] at next
    unfold expire at next
    split at next
    · exact loadEnds_actIf (elapse_cs _ s) (act_elapse _ s) next
    · cases next; exact .inl (.refl s)
  | _ => cases ends

/-- What a step does to the store and to the cells in flight. -/
theorem step_acts {s t : State} (next : step s = .next t) :
    Act s t ∨ (∃ p, t = { State.reset with pending := p }) ∨ LoadEnds s t := by
  unfold step at next
  split at next
  · cases next; exact .inl (act_elapse 1 s)
  · rename_i c rest _
    have taken : Act s { s with pending := rest } := .of_eq rfl rfl rfl
    by_cases reset : c = .resetAssert
    · subst reset
      cases next
      exact .inr (.inl ⟨rest, rfl⟩)
    · cases ends : endsLoad c with
      | false => exact .inl (taken.trans (exec_acts reset ends t next))
      | true =>
        rcases exec_endsLoad ends next with act | ⟨loading, x, ok, ld, inputs, store, time, ended⟩
        · exact .inl (taken.trans act)
        · exact .inr (.inr ⟨loading, x, ok, ld, inputs, store, taken.trans time, ended⟩)

/-- An invariant that acts and the handing out of the load's values keep, and that device reset meets. -/
theorem stepKeeps_of_acts {Inv : State → Prop} (act : ∀ s t, Act s t → Inv s → Inv t)
    (reset : ∀ p, Inv { State.reset with pending := p })
    (handed : ∀ s ok ld inputs, Inv s → Inv (handOut ok ld inputs s)) : StepKeeps Inv := by
  intro s t inv next
  rcases step_acts next with acts | ⟨p, rfl⟩ | ⟨_, x, ok, ld, inputs, _, time, ended⟩
  · exact act s t acts inv
  · exact reset p
  · exact act _ _ ended (handed x ok ld inputs (act s x time inv))

/-! ### The invariants -/

theorem oneHolder_handOut {s : State} (ok : Bool) (ld : Loaded) (inputs : InputLines) (h : OneHolder s.cs s.au.file) :
    OneHolder (handOut ok ld inputs s).cs s.au.file := by
  have send := (OneHolder.setQueue (n := .send) (q := { s.cs.send with limit := ld.limits.send }) h rfl).1
  have print := (OneHolder.setQueue (n := .print) (q := { s.cs.print with limit := ld.limits.print }) send rfl).1
  exact (OneHolder.setQueue (n := .punch) (q := { s.cs.punch with limit := ld.limits.punch }) print rfl).1

/-- Settles O14: every move keeps each block in one place. -/
theorem stepKeeps_blocksHaveOneHolder : Obligations.BlocksHaveOneHolder := by
  refine stepKeeps_of_acts (fun s t act inv => ?_) (fun p => ?_) (fun s ok ld inputs inv => ?_)
  · rw [blocksHaveOneHolder_iff] at inv ⊢
    exact act.moves.keeps (P := fun p => OneHolder p.1 p.2) (fun _ _ => Move.keeps_oneHolder) inv
  · exact blocksHaveOneHolder_iff.mpr (oneHolder_reset _)
  · rw [blocksHaveOneHolder_iff] at inv ⊢
    exact oneHolder_handOut ok ld inputs inv

/-- Settles O13: an act keeps the cells in flight with the TEXT in the place. -/
theorem stepKeeps_inFlightIsTheText : Obligations.InFlightIsTheText :=
  stepKeeps_of_acts (fun _ _ act => act.inFlight) (fun _ => inFlightIsTheText_of_none rfl rfl)
    fun _ _ _ _ => inFlightIsTheText_congr rfl

theorem withinLimits_empty {st : Store} (empty : ∀ n, (st.queue n).blockCount = 0) : WithinLimits st :=
  fun n => (empty n).symm ▸ Nat.zero_le _

theorem withinLimits_reset : WithinLimits (Store.reset Limits.default) :=
  withinLimits_empty fun n => by cases n <;> rfl

/-- The load has not ended while it is in progress. -/
theorem not_loaded_of_loadingNow {s : State} (h : loadingNow s = true) : loaded s = false := by
  cases load : loaded s with
  | false => rfl
  | true => exact absurd (loadingNow_of_loaded load) (by rw [h]; decide)

/-- The limits come to empty queues (R29, R184). -/
theorem withinLimits_handOut {s : State} (ok : Bool) (ld : Loaded) (inputs : InputLines)
    (store : s.cs = Store.reset Limits.default) : WithinLimits (handOut ok ld inputs s).cs :=
  withinLimits_empty fun n => by
    have queue : ((handOut ok ld inputs s).cs.queue n).blockCount = (s.cs.queue n).blockCount := by cases n <;> rfl
    rw [queue, store]
    cases n <;> rfl

theorem stepKeeps_limits {s t : State} (inv : queuesWithinLimits s) (next : step s = .next t) : WithinLimits t.cs := by
  obtain ⟨limits, untilLoaded⟩ := inv
  have keeps {x y : State} (act : Act x y) (h : WithinLimits x.cs) : WithinLimits y.cs :=
    act.moves.keeps (P := fun p => WithinLimits p.1) (fun _ _ => Move.keeps_limits) h
  rcases step_acts next with act | ⟨p, rfl⟩ | ⟨loading, x, ok, ld, inputs, store, _, ended⟩
  · exact keeps act limits
  · exact withinLimits_reset
  · obtain ⟨_, _, reset, _⟩ := untilLoaded (not_loaded_of_loadingNow loading)
    exact keeps ended (withinLimits_handOut ok ld inputs (store.trans reset))

/-! ### Until the load has ended (R179) -/

theorem loaded_of_cl {s t : State} (low : t.cl.resetLow = s.cl.resetLow) (load : t.cl.load = s.cl.load) :
    loaded t = loaded s := by simp [loaded, low, load]

/-- The handing out ends the load (R184), and what follows leaves the loader. -/
theorem cl_endLoad (result : Option Loaded) (inputs : InputLines) (s : State) :
    (endLoad result inputs s).cl.resetLow = s.cl.resetLow ∧ (endLoad result inputs s).cl.load ≠ .loading := by
  have attends (x : State) : (firstAttendance x).cl = x.cl := by
    unfold firstAttendance
    dsimp only
    split
    · exact (cl_of_callCore (callCore_attendRequest _ _ x)).1
    · rfl
  cases result with
  | some ld =>
    simp only [endLoad, attends]
    exact ⟨rfl, nofun⟩
  | none =>
    simp only [endLoad, attends, enterListen, (cl_of_callCore (callCore_notice _ _)).1]
    exact ⟨rfl, nofun⟩

theorem loaded_endLoad (result : Option Loaded) (inputs : InputLines) {s : State} (low : s.cl.resetLow = false) :
    loaded (settle (endLoad result inputs s)) = true := by
  obtain ⟨same, load⟩ := cl_endLoad result inputs s
  simp [loaded, settle_cl, same, low, load]

theorem resetLow_of_loadingNow {s : State} (h : loadingNow s = true) : s.cl.resetLow = false := by
  simp only [loadingNow, Bool.and_eq_true, Bool.not_eq_true'] at h
  exact h.1

theorem atReset_release (straps : Station) (lines : PresenceLines) {s : State} (h : AtReset s) :
    AtReset (release straps lines s) := by
  obtain ⟨printer, punch, reader, heat, clock, minute, h⟩ := h
  rw [h]
  exact atReset_resetWith (isHigh lines.printer) (isHigh lines.punch) (isHigh lines.reader) (some (ms 100)) clock
    (some (minutes 1)) _ _

theorem atReset_coolDown {s : State} (h : AtReset s) : AtReset (coolDown s) := by
  obtain ⟨printer, punch, reader, heat, clock, minute, h⟩ := h
  rw [h]
  exact atReset_resetWith printer punch reader (some (ms 100)) clock minute _ _

theorem atReset_minutePasses {s : State} (h : AtReset s) : AtReset (minutePasses s) := by
  obtain ⟨printer, punch, reader, heat, clock, minute, h⟩ := h
  rw [h]
  exact atReset_resetWith printer punch reader heat (clock + 1) (some (minutes 1)) _ _

/-- A command before the load has ended leaves the device-reset values, or ends the load. -/
theorem exec_atReset {c : Instr} {s t : State} (reset : AtReset s) (load : loaded s = false)
    (next : exec c s = .next t) : loaded t = true ∨ AtReset t := by
  have stays {can : Bool} {f : State → State} (acts : can = true → loaded (settle (f s)) = true ∨ AtReset (settle (f s)))
      (answer : actIf can f s = .next t) : loaded t = true ∨ AtReset t := by
    unfold actIf at answer
    split at answer
    · rename_i holds; cases answer; exact acts holds
    · cases answer; exact .inr reset
  have ends {result : Option Loaded} {inputs : InputLines} (d : Tick) (loading : loadingNow s = true) :
      loaded (settle (endLoad result inputs (elapse d s))) = true :=
    loaded_endLoad _ _ (by rw [elapse_resetLow]; exact resetLow_of_loadingNow loading)
  have timed {timer : Option Tick} {f : State → State} (kept : ∀ {x}, AtReset x → AtReset (f x))
      (loader : ∀ x, (f x).cl = x.cl) (answer : expire timer true f s = .next t) : loaded t = true ∨ AtReset t := by
    unfold expire at answer
    split at answer
    · rename_i left
      have notYet : loaded (f (elapse left s)) = false :=
        (loaded_of_cl (by rw [loader, elapse_resetLow]) (by rw [loader, elapse_load])).trans load
      refine stays (f := fun x => f (elapse left x)) (fun _ => .inr ?_) answer
      rw [settle_of_not_loaded notYet]
      exact kept (atReset_elapse left reset)
    · cases answer; exact .inr reset
  cases other : actsBeforeLoad c with
  | false =>
    rw [exec_beforeLoad load reset other] at next
    cases next; exact .inr reset
  | true =>
    cases c with
    | resetAssert => cases next; exact .inr (atReset_resetWith false false false none 0 none _ _)
    | resetRelease straps lines =>
      have notYet : loaded (release straps lines s) = false := rfl
      refine stays (fun _ => .inr ?_) next
      rw [settle_of_not_loaded notYet]
      exact atReset_release straps lines reset
    | configReadDone image inputs =>
      exact stays (fun loading => .inl (loaded_endLoad _ _ (resetLow_of_loadingNow loading))) next
    | configNoAck inputs =>
      exact stays (fun loading => .inl (loaded_endLoad _ _ (resetLow_of_loadingNow loading))) next
    | configLoadTimeout inputs =>
      rw [exec, execConfigLoadTimeout] at next
      unfold expire at next
      split at next
      · exact stays (fun loading => .inl (ends _ loading)) next
      · cases next; exact .inr reset
    | heatTimerExpiry => exact timed atReset_coolDown (fun _ => rfl) next
    | stationClockTick => exact timed atReset_minutePasses (fun _ => rfl) next
    | _ => cases other

/-- Once the load has ended it stays so, but for a device reset (R179, R185). -/
theorem loaded_exec {c : Instr} {s t : State} (load : loaded s = true) (noReset : c ≠ .resetAssert)
    (next : exec c s = .next t) : loaded t = true := by
  obtain ⟨_, left, loader, _⟩ := exec_keepsConfig load noReset t next
  rw [loaded_of_cl (s := s) (by rw [loader]) (by rw [loader]), load]

theorem stepKeeps_atResetUntilLoaded : StepKeeps atResetUntilLoaded := by
  intro s t inv next
  rw [atResetUntilLoaded_iff] at inv ⊢
  intro notYet
  unfold step at next
  split at next
  · cases next
    rw [loaded_of_cl (elapse_resetLow 1 s) (elapse_load 1 s)] at notYet
    exact atReset_elapse 1 (inv notYet)
  · rename_i c rest _
    by_cases reset : c = .resetAssert
    · subst reset
      cases next
      exact atReset_resetWith false false false none 0 none _ _
    · cases load : loaded s with
      | true => exact absurd (loaded_exec (s := { s with pending := rest }) load reset next) (by rw [notYet]; decide)
      | false =>
        obtain ⟨printer, punch, reader, heat, clock, minute, h⟩ := inv load
        have taken : AtReset { s with pending := rest } := by
          rw [h]; exact atReset_resetWith printer punch reader heat clock minute _ _
        exact (exec_atReset taken load next).resolve_left (by rw [notYet]; decide)

theorem stepKeeps_queuesWithinLimits : StepKeeps queuesWithinLimits :=
  fun s t inv next => ⟨stepKeeps_limits inv next, stepKeeps_atResetUntilLoaded s t inv.2 next⟩

theorem stepKeeps_storeCanonical : StepKeeps storeCanonical :=
  stepKeeps_of_acts
    (fun _ _ act inv => act.moves.keeps (P := fun p => p.1.canonical) (fun _ _ => Move.keeps_canonical) inv)
    (fun _ => ⟨rfl, rfl⟩) fun _ _ _ _ inv => inv

/-- Settles O6: the form of the lists, and the limits, which change with the queues empty. -/
theorem storeStaysCanonical : Obligations.StoreStaysCanonical :=
  ⟨stepKeeps_storeCanonical, stepKeeps_queuesWithinLimits⟩

end Sys2Proof.Machine
end

section
/-!
Where a TEXT may go and what holds it back (R28, R61 to R63, R83, R84), and the HEREIS key (R113).
-/

namespace Sys2Proof.Machine

/-! ### Availability and the flow levels (R28, R61) -/

theorem printerAvailable_iff (s : State) :
    printerAvailable s = true ↔ s.pu.present = true ∧ s.pu.paper ≠ .out ∧ s.mt.motor ≠ .faulted := by
  simp [printerAvailable, and_assoc]

theorem punchAvailable_iff (s : State) :
    punchAvailable s = true ↔ s.tu.punchPresent = true ∧ s.tu.tape ≠ .out ∧ s.mt.motor ≠ .faulted := by
  simp [punchAvailable, and_assoc]

theorem fileAvailable_iff (s : State) :
    fileAvailable s = true ↔
      s.cm.call.fileLink ≠ none
        ∨ (∀ r ∈ s.au.file, r.state ≠ .opened)
          ∧ (s.au.file.length < 24 ∨ ∃ r ∈ s.au.file, r.state ≠ .opened ∧ r.printed = true) := by
  simp [fileAvailable, slotFree, FileRecord.isClosed, FileRecord.isPrinted, Option.isSome_iff_ne_none]

theorem isEmpty_iff_none (r : Route) :
    r.isEmpty = false ↔ r.print = true ∨ r.punch = true ∨ r.file = true := by
  cases r with
  | mk print punch file => cases print <;> cases punch <;> cases file <;> simp [Route.isEmpty]

theorem holdLevel_iff (s : State) :
    holdLevel s = true ↔
      s.cs.free.length ≤ 12
        ∨ s.cm.call.route.print = true ∧ s.cs.print.limit ≤ s.cs.print.blockCount + 2
        ∨ s.cm.call.route.punch = true ∧ s.cs.punch.limit ≤ s.cs.punch.blockCount + 2 := by
  simp only [holdLevel, Bool.or_eq_true, Bool.and_eq_true, decide_eq_true_eq, or_assoc]
  exact Iff.rfl

theorem goLevel_iff (s : State) :
    goLevel s = true ↔
      20 ≤ s.cs.free.length
        ∧ (s.cm.call.route.print = true → s.cs.print.blockCount + 4 ≤ s.cs.print.limit)
        ∧ (s.cm.call.route.punch = true → s.cs.punch.blockCount + 4 ≤ s.cs.punch.limit)
        ∧ (s.cm.call.route.print = true ∧ printerAvailable s = true
          ∨ s.cm.call.route.punch = true ∧ punchAvailable s = true
          ∨ s.cm.call.route.file = true ∧ fileAvailable s = true) := by
  have free : s.cs.freeCount = s.cs.free.length := rfl
  simp only [goLevel, availableIn, Bool.and_eq_true, decide_eq_true_eq, Bool.or_eq_true, Bool.not_eq_true',
    isEmpty_iff_none, and_assoc, imp_iff_not_or, Bool.not_eq_true, free]

/-- A request to the LU: entered where it is JOINED and no restart CLEAR is waited for (R46, R54). -/
theorem requestOrDrop_eq (r : Request) (s : State) :
    requestOrDrop r s =
      { s with lu := if s.lu.joinState = .joined ∧ s.lu.restartClear = false then enterRequest r s.lu else s.lu } := by
  by_cases enters : s.lu.joinState = .joined ∧ s.lu.restartClear = false
  · rw [requestOrDrop_entered (by simp [entersRequests, enters]), if_pos enters]
  · rw [requestOrDrop_refused (by simpa [entersRequests, Bool.and_eq_false_iff, not_and_or] using enters), if_neg enters]

/-- The flow test in an OPEN call with a talking party (R28, R83, R84). -/
theorem flowTest_of_opened {s : State} (opened : s.cm.call.state = .opened) (party : isGroupCaller s.cm.call = false) :
    flowTest s =
      if holdLevel s = true ∧ s.cm.call.heldByMe = false then setHeld s
      else if ¬ holdLevel s = true ∧ goLevel s = true ∧ s.cm.call.heldByMe = true then clearHeld s
      else s := by
  have applies : flowApplies s = true := by simp [flowApplies, opened, party]
  cases hold : holdLevel s <;> cases held : s.cm.call.heldByMe <;> cases go : goLevel s <;>
    simp [flowTest, applies, hold, held, go]

theorem flowTest_of_not_applies {s : State} (h : s.cm.call.state ≠ .opened ∨ isGroupCaller s.cm.call = true) :
    flowTest s = s := by
  have applies : flowApplies s = false := by
    rcases h with state | group
    · simp [flowApplies, state]
    · simp [flowApplies, group]
  simp [flowTest, applies]

/-- Settles O21. -/
theorem effectiveDestinations : Obligations.EffectiveDestinations := by
  refine ⟨fun s attended => ?_, fun s unattended => ?_, fun s => ?_, fun s => ?_⟩
  · cases route : s.cm.call.route.print <;> simp [effective, attended, availableIn, route, and_assoc]
  · simp [effective, unattended, availableIn, and_assoc]
  · exact ⟨printerAvailable_iff s, punchAvailable_iff s, fileAvailable_iff s⟩
  · intro r hold go party asked
    refine ⟨holdLevel_iff s, goLevel_iff s, flowTest_of_not_applies, fun opened talking => ?_⟩
    rw [flowTest_of_opened opened talking]
    simp only [holdLevel_iff, goLevel_iff, setHeld, queueHold, clearHeld, requestOrDrop_eq]
    rfl

/-! ### The HEREIS key (R113) -/

/-- A function key dealt with: the entry leaves the FIFO, and the interpreter reads the record's state (R101). -/
def keyDealt (k : KeyboardUnit) (rest : List Key) (read : CallState) : KeyboardUnit :=
  { k with fifo := rest, headRead := read, headWaiting := false, retryDue := false }

/-- After an act on the store alone the entry leaves the FIFO as if it had been the act's only effect on the KU. -/
theorem dropHead_of_storeCore {s u : State} {k : Key} {rest : List Key} (core : storeCore u = storeCore s)
    (head : s.ku.fifo = k :: rest) : dropHead u = { u with ku := keyDealt s.ku rest s.cm.call.state } := by
  have state := (call_of_storeCore core).1
  simp only [storeCore, State.mk.injEq, KeyboardUnit.mk.injEq] at core
  obtain ⟨_, _, _, ⟨scan, fifo, _, _, _, case, mode, edit, dial⟩, _⟩ := core
  simp [dropHead, readHead, keyDealt, scan, fifo, case, mode, edit, dial, state, head]

/-- The same for a key refused. -/
theorem dropHead_refuseKey {s u : State} {k : Key} {rest : List Key} (core : storeCore u = storeCore s)
    (head : s.ku.fifo = k :: rest) :
    dropHead (refuseKey u) =
      { u with
        ku := keyDealt s.ku rest s.cm.call.state
        mt.pulses := s.mt.pulses ++ [⟨.keyboard, ms 100⟩] } := by
  have bell : u.mt = s.mt := (rest_of_storeCore core).2.2.2.2.1
  have dropped := dropHead_of_storeCore core head
  simp only [dropHead, readHead, State.mk.injEq] at dropped
  obtain ⟨_, _, _, ku, _⟩ := dropped
  simp only [dropHead, readHead, refuseKey, bellPulse, State.mk.injEq, bell, true_and, and_true]
  exact ku

theorem maySend_iff (c : CallRecord) :
    maySend c = true ↔ c.state = .opened ∧ (c.role = some .caller ∨ c.role = some .called) := by
  simp [maySend]

/-- Settles O47, case by case. -/
theorem hereisKeyActs : Obligations.HereisKeyActs := by
  intro s rest load head run sends dealt rung
  have acts : exec .hereisKey s = .next (settle (dropHead (hereisKeyAct s))) := keyAct_of_head load head
  have sendsIff : sends ↔ s.ku.mode = .line ∧ maySend s.cm.call = true := by rw [maySend_iff]
  have dealtWith (u : State) (core : storeCore u = storeCore s) : dropHead u = dealt u := dropHead_of_storeCore core head
  have rungFor (u : State) (core : storeCore u = storeCore s) : dropHead (refuseKey u) = rung u :=
    dropHead_refuseKey core head
  rw [acts]
  refine ⟨fun sending => ?_, fun silent => ?_⟩
  · have act : hereisKeyAct s = match appendRun .send .mayUse run s with
        | some s1 => echoRun s.pu.present run s1
        | none => refuseKey s := if_pos (sendsIff.mp sending)
    refine ⟨fun refused => ?_, fun u sent => ?_⟩
    · rw [act, refused]
      exact congrArg (fun x => Host.Outcome.next (settle x)) (rungFor s rfl)
    · have core := storeCore_appendRun sent
      rw [act, sent]
      refine ⟨fun absent => ?_, fun present refused => ?_, fun present v echoed => ?_⟩
      · simp only [echoRun, absent, Bool.false_eq_true, if_false]
        rw [dealtWith u core]
      · simp only [echoRun, present, if_true, refused, Option.getD_none]
        rw [rungFor u core]
      · simp only [echoRun, present, if_true, echoed, Option.getD_some]
        rw [dealtWith v ((storeCore_appendRun echoed).trans core)]
  · have act : hereisKeyAct s =
        if s.pu.present then (appendRun .print .mayUse run s).getD (refuseKey s) else refuseKey s :=
      if_neg (mt sendsIff.mpr silent)
    rw [act]
    refine ⟨fun present u printed => ?_, fun present refused => ?_, fun absent => ?_⟩
    · rw [if_pos present, printed, Option.getD_some, dealtWith u (storeCore_appendRun printed)]
    · rw [if_pos present, refused, Option.getD_none, rungFor s rfl]
    · rw [if_neg (by simp [absent]), rungFor s rfl]

end Sys2Proof.Machine
end

section
/-!
The mechanisms' supplies and the motor (R119, R132, R137, R141, R153 to R155): the operations of the PU and TU, equation by
equation, in the words of the statements.
-/

namespace Sys2Proof.Machine

/-! ### Supplies -/

theorem supplyOf_eq (a b : Level) : supplyOf a b = if a = .low then .out else if b = .high then .good else .low := by
  cases a <;> cases b <;> rfl

theorem printerOperable_iff (s : State) :
    printerOperable s = true ↔ s.pu.present = true ∧ s.pu.paper ≠ .out ∧ s.mt.motor = .running := by
  simp [printerOperable, and_assoc]

theorem punchOperable_iff (s : State) :
    punchOperable s = true ↔ s.tu.punchPresent = true ∧ s.tu.tape ≠ .out ∧ s.mt.motor = .running := by
  simp [punchOperable, and_assoc]

theorem printerChange_same {was : Bool} {s : State} (h : printerAvailable s = was) : printerChange was s = s := if_pos h

theorem pu_flowTest (s : State) : (flowTest s).pu = s.pu := (rest_of_storeCore (storeCore_flowTest s)).2.1

theorem cursor_flowTest (s : State) : (flowTest s).au.cursor = s.au.cursor :=
  (au_of_storeCore (storeCore_flowTest s)).2.1

/-- The work in hand that stays when the cursor is abandoned (R129). -/
def keptWork (w : PrintWork) : Bool := decide (w.source ≠ .cursor) || w.kept

theorem abandonCursor_none {s : State} (h : s.au.cursor = none) : abandonCursor s = s := by
  simp [abandonCursor, h]

theorem work_freeCursor (s : State) : (freeCursor false s).pu.work = s.pu.work.filter keptWork := by
  unfold freeCursor
  cases s.pu.work with
  | none => rfl
  | some w =>
    obtain ⟨cell, source, kept, todo⟩ := w
    cases source <;> cases kept <;> simp [Option.filter, keptWork]

theorem abandonCursor_some {s : State} {c : Cursor} (h : s.au.cursor = some c) :
    abandonCursor s =
      { s with
        au.cursor := none
        au.headerRetryDue := false
        pu.source := .queue
        pu.work := s.pu.work.filter keptWork } := by
  rw [← work_freeCursor]
  simp [abandonCursor, h, freeCursor]

/-- The printer that is no longer available (R120, R176). -/
theorem printerChange_lost {s : State} (now : printerAvailable s = false) :
    printerChange true s = abandonCursor (if s.cm.call.route.print = true then flowTest s else s) := by
  simp [printerChange, now]

/-- The printer that is available again (R120, R172, R175). -/
theorem printerChange_found {s : State} (now : printerAvailable s = true) :
    printerChange false s = auTests (if s.cm.call.route.print = true then flowTest s else s) := by
  simp [printerChange, now]

theorem punchChange_eq (was : Bool) (s : State) :
    punchChange was s = if punchAvailable s ≠ was ∧ s.cm.call.route.punch = true then flowTest s else s := by
  unfold punchChange
  by_cases same : punchAvailable s = was <;> simp [same]

/-- Settles O57: each supply's equation, with the availability that its change makes. -/
theorem suppliesFollowTheirLines : Obligations.SuppliesFollowTheirLines := by
  intro s a b load supply printing paper told able kept found punching tape changes
  have goesOn (u : State) : nextPrintOp u = printing u := by
    cases op : u.pu.op with
    | some _ => simp [nextPrintOp, printing, op]
    | none =>
      cases work : u.pu.work with
      | none => simp [nextPrintOp, printing, op, work]
      | some w => cases todo : w.todo <;> simp [nextPrintOp, printing, op, work, todo, printerOperable_iff]
  have paperActs : exec (.paperStateChange a b) s =
      .next (settle (printing (printerChange (printerAvailable s) paper))) := by
    rw [← goesOn]
    exact (actIf_of (setPaper (supplyOf a b)) s load).trans (by rw [setPaper, supplyOf_eq])
  refine ⟨?_, ?_, ?_, ?_, ?_⟩
  · intro same
    have still : printerAvailable paper = printerAvailable s := by
      rw [Bool.eq_iff_iff, printerAvailable_iff, printerAvailable_iff]
      show s.pu.present = true ∧ supply ≠ .out ∧ s.mt.motor ≠ .faulted ↔ _
      tauto
    rw [paperActs, printerChange_same still]
  · rintro ⟨present, motor⟩ before after
    have was : printerAvailable s = true := (printerAvailable_iff s).mpr ⟨present, before, motor⟩
    have now : printerAvailable paper = false := by
      rw [← Bool.not_eq_true, printerAvailable_iff]
      exact fun h => h.2.1 after
    have toldCursor : told.au.cursor = s.au.cursor := by
      show (if s.cm.call.route.print = true then flowTest paper else paper).au.cursor = _
      split
      · exact cursor_flowTest paper
      · rfl
    have toldPrinter : told.pu = paper.pu := by
      show (if s.cm.call.route.print = true then flowTest paper else paper).pu = _
      split
      · exact pu_flowTest paper
      · rfl
    rw [paperActs, was, printerChange_lost now]
    change (s.au.cursor = none → Host.Outcome.next (settle (printing (abandonCursor told))) = _)
      ∧ ∀ c, s.au.cursor = some c → Host.Outcome.next (settle (printing (abandonCursor told))) = _
    refine ⟨fun none => ?_, fun c cursor => ?_⟩
    · rw [abandonCursor_none (toldCursor.trans none)]
    · rw [abandonCursor_some (toldCursor.trans cursor), toldPrinter]
      rfl
  · rintro ⟨present, motor⟩ before after
    have was : printerAvailable s = false := by
      rw [← Bool.not_eq_true, printerAvailable_iff]
      exact fun h => h.2.1 before
    have now : printerAvailable paper = true := (printerAvailable_iff paper).mpr ⟨present, after, motor⟩
    rw [paperActs, was, printerChange_found now]
  · have goesOn (u : State) : nextPunchOp u = punching u := by
      cases op : u.tu.punchOp with
      | some _ => simp [nextPunchOp, punching, op]
      | none =>
        cases work : u.tu.punchWork with
        | none => simp [nextPunchOp, punching, op, work]
        | some w =>
          cases todo : w.todo <;>
            simp [nextPunchOp, punching, op, work, todo, punchOperable_iff, startPunchOp, unshift]
    have codes : retape (unshift s) = found := funext fun w => by
      obtain ⟨cell, todo⟩ := w
      cases todo with
      | nil => cases cell <;> rfl
      | cons code rest =>
        cases cell with
        | boundary => rfl
        | character r o => cases r <;> rfl
    have renewed : (if s.tu.tape = .out ∧ supply ≠ .out then newTape { s with tu.tape := supply }
        else { s with tu.tape := supply }) = tape := by
      show _ = if s.tu.tape = .out ∧ supply ≠ .out then
          { s with tu.tape := supply, tu.punchShift := none, tu.punchWork := s.tu.punchWork.map found }
        else { s with tu.tape := supply }
      rw [← codes]
      exact if_congr Iff.rfl rfl rfl
    have now : tape.tu.punchPresent = s.tu.punchPresent ∧ tape.tu.tape = supply ∧ tape.mt.motor = s.mt.motor
        ∧ tape.cm.call.route = s.cm.call.route := by
      by_cases new : s.tu.tape = .out ∧ supply ≠ .out <;> simp [tape, new]
    have change : punchAvailable tape ≠ punchAvailable s ↔ changes := by
      obtain ⟨present, tapeNow, motor, _⟩ := now
      rw [ne_eq, Bool.eq_iff_iff, punchAvailable_iff, punchAvailable_iff, present, tapeNow, motor]
      show _ ↔ s.tu.punchPresent = true ∧ s.mt.motor ≠ .faulted ∧ ¬ (s.tu.tape = .out ↔ supply = .out)
      tauto
    rw [← goesOn]
    refine (actIf_of (setTape (supplyOf a b)) s load).trans ?_
    simp only [setTape, supplyOf_eq]
    rw [renewed, punchChange_eq, now.2.2.2]
    simp only [change]
  · exact (actIf_of (fun x => { x with tu.tapeIn := isHigh a }) s load).trans (by cases a <;> rfl)

/-! ### The motor through `settle` (R152 to R154) -/

/-- What the demands leave of a motor that is not STOPPED: all but the hold timer, and that too unless it is RUNNING. -/
theorem refreshDemand_motor {s : State} (h : s.mt.motor ≠ .stopped) :
    (refreshDemand s).mt.motor = s.mt.motor ∧ (refreshDemand s).mt.runUp = s.mt.runUp
      ∧ (refreshDemand s).mt.senseWindow = s.mt.senseWindow ∧ (refreshDemand s).mt.faultWait = s.mt.faultWait
      ∧ (s.mt.motor ≠ .running → (refreshDemand s).mt.hold = s.mt.hold) := by
  have reported : (reportDemands s).mt.motor = s.mt.motor := rfl
  cases motor : s.mt.motor with
  | stopped => exact absurd motor h
  | _ =>
    unfold refreshDemand demandBegins demandEnds
    rw [reported, motor]
    split <;> simp [reportDemands, motor]

theorem settle_motor {s : State} (h : s.mt.motor ≠ .stopped) :
    (settle s).mt.motor = s.mt.motor ∧ (settle s).mt.runUp = s.mt.runUp
      ∧ (settle s).mt.senseWindow = s.mt.senseWindow ∧ (settle s).mt.faultWait = s.mt.faultWait
      ∧ (s.mt.motor ≠ .running → (settle s).mt.hold = s.mt.hold) := by
  unfold settle
  split
  · rw [← formText_mt s] at h ⊢
    exact refreshDemand_motor h
  · exact ⟨rfl, rfl, rfl, rfl, fun _ => rfl⟩

theorem settle_senseRunning (s : State) : (settle s).mt.senseRunning = s.mt.senseRunning := by
  unfold settle
  split
  · rw [(refreshDemand_bell _).2.2.2.1, formText_mt]
  · rfl

/-- A STOPPED motor stays, or starts (R153). -/
theorem settle_stopped {s : State} (h : s.mt.motor = .stopped) (wait : s.mt.faultWait = none) :
    ((settle s).mt.motor = .stopped ∨ (settle s).mt.motor = .starting) ∧ (settle s).mt.faultWait = none := by
  unfold settle
  split
  · have motor : (reportDemands (formText s)).mt.motor = .stopped :=
      (congrArg MotorTerminal.motor (formText_mt s)).trans h
    have waits : (reportDemands (formText s)).mt.faultWait = none :=
      (congrArg MotorTerminal.faultWait (formText_mt s)).trans wait
    unfold refreshDemand demandBegins demandEnds
    rw [motor]
    split
    · exact ⟨.inr rfl, rfl⟩
    · exact ⟨.inl motor, waits⟩
    · exact ⟨.inl motor, waits⟩
  · exact ⟨.inl h, wait⟩

theorem cellAt_congr {st st' : Store} (cells : st'.cells = st.cells) (b i : Nat) : st'.cellAt b i = st.cellAt b i := by
  unfold Store.cellAt
  rw [cells]

theorem link_congr {st st' : Store} (links : st'.links = st.links) (b : Nat) : st'.link b = st.link b := by
  unfold Store.link
  rw [links]

theorem chainBlocks_congr {st st' : Store} (links : st'.links = st.links) (k : Nat) (b : Option Nat) :
    st'.chainBlocks k b = st.chainBlocks k b := by
  induction k generalizing b with
  | zero => cases b <;> rfl
  | succ k ih =>
    cases b with
    | none => rfl
    | some b => simp only [Store.chainBlocks, link_congr links, ih]

theorem chainCell_congr {st st' : Store} (cells : st'.cells = st.cells) (links : st'.links = st.links) (ch : Chain)
    (i : Nat) : st'.chainCell ch i = st.chainCell ch i := by
  simp only [Store.chainCell, chainBlocks_congr links, cellAt_congr cells]

theorem cellsFrom_congr {st st' : Store} (cells : st'.cells = st.cells) (links : st'.links = st.links) (k : Nat)
    (b : Option Nat) (i : Nat) : st'.cellsFrom k b i = st.cellsFrom k b i := by
  induction k generalizing b i with
  | zero => cases b <;> rfl
  | succ k ih =>
    cases b with
    | none => rfl
    | some b => simp only [Store.cellsFrom, cellAt_congr cells, link_congr links, ih]

/-- The cells of a queue, by the two memories and its place in them. -/
theorem queueCells_congr {st st' : Store} {n : QueueName} (cells : st'.cells = st.cells) (links : st'.links = st.links)
    (count : (st'.queue n).cellCount = (st.queue n).cellCount) (head : (st'.queue n).head = (st.queue n).head)
    (index : (st'.queue n).headIndex = (st.queue n).headIndex) : st'.queueCells n = st.queueCells n := by
  rw [Store.queueCells, Store.queueCells, count, head, index, cellsFrom_congr cells links]

/-- The demands read the mechanisms, PRINT, PUNCH and the cursor's record (R133, R142, R150). -/
theorem demandHeld_congr {s t : State} (pu : t.pu = s.pu) (tu : t.tu = s.tu) (au : t.au = s.au) (mt : t.mt = s.mt)
    (memory : t.cs.cells = s.cs.cells ∧ t.cs.links = s.cs.links) (print : t.cs.print = s.cs.print)
    (punch : t.cs.punch = s.cs.punch) : demandHeld (reportDemands t).mt = demandHeld (reportDemands s).mt := by
  have head : t.cs.headCell .print = s.cs.headCell .print := by
    have queue : t.cs.queue .print = s.cs.queue .print := print
    simp only [Store.headCell, queue, cellAt_congr memory.1]
  have cursor : cursorCell t = cursorCell s := by
    simp only [cursorCell, recordIn, au, chainCell_congr memory.1 memory.2]
  have offers : offered t = offered s := funext fun src => by
    cases src with
    | queue => exact head
    | cursor => exact cursor
  have chosen : choose t = choose s := by
    unfold choose atLineBoundary
    rw [pu, offers]
  simp only [reportDemands, demandHeld, printerDemandNow, punchDemandNow, readerDemandNow, pu, tu, punch, chosen, mt]

/-- With no demand before or after, the motor's part is left. -/
theorem settle_idle {s : State} (before : demandHeld s.mt = false) (after : demandHeld (reportDemands s).mt = false) :
    (settle s).mt.motor = s.mt.motor ∧ (settle s).mt.hold = s.mt.hold := by
  have formed : demandHeld (reportDemands (formText s)).mt = false :=
    (demandHeld_congr (formText_pu s) (formText_tu s) (formText_au s) (formText_mt s)
      ⟨formText_cells s, formText_links s⟩ (formText_print s) (formText_punch s)).trans after
  unfold settle
  split
  · have same : refreshDemand (formText s) = reportDemands (formText s) := by
      unfold refreshDemand
      rw [formText_mt, before, formed]
    rw [same]
    have mt := formText_mt s
    constructor
    · show (formText s).mt.motor = _
      rw [mt]
    · show (formText s).mt.hold = _
      rw [mt]
  · exact ⟨rfl, rfl⟩

/-! ### RUNNING and FAULTED (R153 to R155) -/

theorem mt_nextPrintOp (s : State) : ∃ pulses, (nextPrintOp s).mt = { s.mt with pulses := pulses } := by
  have starts (op : PrintOp) (x : State) : ∃ pulses, (startPrintOp op x).mt = { x.mt with pulses := pulses } := by
    cases op <;> exact ⟨_, rfl⟩
  unfold nextPrintOp
  split
  · split
    · split
      · exact starts _ _
      · exact ⟨_, rfl⟩
    · exact ⟨_, rfl⟩
  · exact ⟨_, rfl⟩

theorem mt_nextPunchOp (s : State) : (nextPunchOp s).mt = s.mt := by
  unfold nextPunchOp
  split
  · split
    · split <;> rfl
    · rfl
  · rfl

theorem mt_enterRunning (s : State) :
    (enterRunning s).mt.motor = .running ∧ (enterRunning s).mt.runUp = none ∧ (enterRunning s).mt.senseWindow = none
      ∧ (enterRunning s).mt.senseRunning = s.mt.senseRunning := by
  obtain ⟨pulses, h⟩ := mt_nextPrintOp { s with
    mt.motor := .running
    mt.runUp := none
    mt.senseWindow := none
    mt.hold := if demandHeld s.mt then none else some (holdFull s) }
  unfold enterRunning
  rw [mt_nextPunchOp, h]
  exact ⟨rfl, rfl, rfl, rfl⟩

theorem endRun_of_none {s : State} (h : s.tu.run = none) : endRun s = s := by simp [endRun, h]

theorem endRun_of_some {s : State} {r : ReaderRun} (h : s.tu.run = some r) :
    endRun s =
      { s with
        tu.run := none
        tu.resumeDue := false
        tu.cycle := s.tu.cycle.map fun c => { c with dropped := true }
        cm.call.readerLink := if r.destination = .send then false else s.cm.call.readerLink } := by simp [endRun, h]

/-- The motor FAULTED, before what follows it (R133, R155). -/
def faultOff (s : State) : State :=
  { s with
    mt.motor := .faulted
    mt.runUp := none
    mt.senseWindow := none
    mt.hold := none
    mt.faultWait := some (sec 10)
    pu.shift := none
    pu.work := s.pu.work.map reshift }

/-- The printer's and the punch's availability gone with it (R120, R138). -/
def faultTold (s : State) : State :=
  punchChange (punchAvailable s) (printerChange (printerAvailable s) (faultOff s))

theorem enterFaulted_eq (s : State) : enterFaulted s = notice .motorFault (endRun (faultTold s)) := rfl

theorem callCore_printerChange (was : Bool) (s : State) : callCore (printerChange was s) = callCore s := by
  unfold printerChange
  dsimp only
  split_ifs <;> simp

theorem fileCore_printerChange (was : Bool) (s : State) : fileCore (printerChange was s) = fileCore s := by
  unfold printerChange
  dsimp only
  split_ifs <;> simp

theorem callCore_punchChange (was : Bool) (s : State) : callCore (punchChange was s) = callCore s := by
  rw [punchChange_eq]
  split_ifs <;> simp

theorem mt_enterFaulted (s : State) :
    (enterFaulted s).mt.motor = .faulted ∧ (enterFaulted s).mt.faultWait = some (sec 10)
      ∧ (enterFaulted s).mt.runUp = none ∧ (enterFaulted s).mt.senseWindow = none ∧ (enterFaulted s).mt.hold = none
      ∧ (enterFaulted s).mt.senseRunning = s.mt.senseRunning ∧ (enterFaulted s).pu.shift = none
      ∧ (enterFaulted s).tu.run = none := by
  have core : callCore (enterFaulted s) = callCore (faultOff s) := by
    rw [enterFaulted_eq, callCore_notice, callCore_endRun, faultTold, callCore_punchChange, callCore_printerChange]
  obtain ⟨motor, _, _, _, runUp, window, hold, wait, _, sense, _⟩ := mt_of_callCore core
  obtain ⟨_, _, _, shift, _⟩ := pu_of_callCore core
  obtain ⟨_, _, _, _, _, _, _, _, ended⟩ := endRun_keeps (faultTold s)
  refine ⟨motor, wait, runUp, window, hold, sense, shift, ?_⟩
  rw [enterFaulted_eq, (rest_of_storeCore (storeCore_notice _ _)).2.2.1, ended]

theorem cs_abandonCursor (s : State) : (abandonCursor s).cs = s.cs := congrArg Prod.fst (storeFile_abandonCursor s)

/-- The state in which MOTOR FAULT is noticed has the store and the presence it had (R155). -/
theorem endRun_faultTold (s : State) (available : printerAvailable (faultOff s) = false) :
    (endRun (faultTold s)).cs = s.cs ∧ (endRun (faultTold s)).pu.present = s.pu.present := by
  have core : callCore (endRun (faultTold s)) = callCore (faultOff s) := by
    rw [callCore_endRun, faultTold, callCore_punchChange, callCore_printerChange]
  refine ⟨?_, (pu_of_callCore core).1⟩
  obtain ⟨cs, _⟩ := endRun_keeps (faultTold s)
  rw [cs, faultTold, punchChange_eq]
  have printer : (printerChange (printerAvailable s) (faultOff s)).cs = s.cs := by
    cases was : printerAvailable s with
    | false => rw [printerChange_same available]; rfl
    | true =>
      rw [printerChange_lost available, cs_abandonCursor]
      split
      · exact cs_flowTest _
      · rfl
  split
  · rw [cs_flowTest, printer]
  · exact printer

theorem printerAvailable_faultOff (s : State) : printerAvailable (faultOff s) = false := by
  rw [← Bool.not_eq_true, printerAvailable_iff]
  exact fun h => h.2.2 rfl

/-- `settle` leaves what PRINT and PUNCH hold. -/
theorem queueCells_settle (s : State) {n : QueueName} (other : n ≠ .send) :
    (settle s).cs.queueCells n = s.cs.queueCells n := by
  have queue : (settle s).cs.queue n = s.cs.queue n := by
    cases n with
    | send => exact absurd rfl other
    | print => exact settle_print s
    | punch => exact settle_punch s
  exact queueCells_congr (settle_cells s) (settle_links s) (by rw [queue]) (by rw [queue]) (by rw [queue])

/-- A notice made in a state with the store and the presence of the first stands in PRINT when the act is settled. -/
theorem prints_notice {s x : State} (n : Notice) (cs : x.cs = s.cs) (present : x.pu.present = s.pu.present) :
    prints s (settle (notice n x)) n.run := by
  intro here passes holder
  rw [← cs] at passes
  have appended := appendRun_passed passes
  rw [queueCells_settle _ (by decide), notice_present (present.trans here), appended, Option.getD_some]
  have store : ((if (x.cs.queue .print).blocksNeeded n.run = 0 then placeRun .print n.run x
      else flowTest (placeRun .print n.run x)).cs) = x.cs.pushRun .print n.run := by
    split
    · rfl
    · rw [cs_flowTest]; rfl
  rw [store, ← cs]
  have one : OneHolder x.cs s.au.file := by rw [cs]; exact blocksHaveOneHolder_iff.mp holder
  rw [one.queueCells_pushRun (enough_of_spaceCheck passes)]

/-! ### The motor's timers and its sense -/

/-- The printer's part of FAULTED, in a motor that was not (R120, R176). -/
theorem printerChange_faultOff {s : State} (motor : s.mt.motor ≠ .faulted) :
    printerChange (printerAvailable s) (faultOff s) =
      if s.pu.present = true ∧ s.pu.paper ≠ .out then
        abandonCursor (if s.cm.call.route.print = true then flowTest (faultOff s) else faultOff s)
      else faultOff s := by
  have now := printerAvailable_faultOff s
  by_cases here : s.pu.present = true ∧ s.pu.paper ≠ .out
  · rw [if_pos here, (printerAvailable_iff s).mpr ⟨here.1, here.2, motor⟩]
    exact printerChange_lost now
  · have was : printerAvailable s = false := by
      rw [← Bool.not_eq_true, printerAvailable_iff]
      exact fun h => here ⟨h.1, h.2.1⟩
    rw [if_neg here, was]
    exact printerChange_same now

/-- The punch's (R138). -/
theorem faultTold_eq {s : State} (motor : s.mt.motor ≠ .faulted) :
    faultTold s =
      if s.tu.punchPresent = true ∧ s.tu.tape ≠ .out ∧ s.cm.call.route.punch = true then
        flowTest (printerChange (printerAvailable s) (faultOff s))
      else printerChange (printerAvailable s) (faultOff s) := by
  have core := fileCore_printerChange (printerAvailable s) (faultOff s)
  have route : (printerChange (printerAvailable s) (faultOff s)).cm.call.route = s.cm.call.route :=
    (call_of_fileCore core).2.2.2.2.2.2.1
  have now : punchAvailable (printerChange (printerAvailable s) (faultOff s)) = false := by
    have mt := (mt_of_callCore (callCore_printerChange (printerAvailable s) (faultOff s))).1
    rw [← Bool.not_eq_true, punchAvailable_iff]
    exact fun h => h.2.2 mt
  rw [faultTold, punchChange_eq, now, route]
  refine if_congr ?_ rfl rfl
  rw [ne_comm, Bool.ne_false_iff, punchAvailable_iff]
  tauto

theorem printerChange_lost_none {s : State} (cursor : s.au.cursor = none) :
    abandonCursor (if s.cm.call.route.print = true then flowTest (faultOff s) else faultOff s) =
      if s.cm.call.route.print = true then flowTest (faultOff s) else faultOff s := by
  refine abandonCursor_none ?_
  split
  · exact (cursor_flowTest _).trans cursor
  · exact cursor

theorem printerChange_lost_some {s : State} {c : Cursor} (cursor : s.au.cursor = some c) :
    let told := if s.cm.call.route.print = true then flowTest (faultOff s) else faultOff s
    abandonCursor told =
      { told with
        au.cursor := none
        au.headerRetryDue := false
        pu.source := .queue
        pu.work := (s.pu.work.map reshift).filter keptWork } := by
  intro told
  have toldCursor : told.au.cursor = some c := by
    show (if _ then flowTest (faultOff s) else faultOff s).au.cursor = _
    split
    · exact (cursor_flowTest _).trans cursor
    · exact cursor
  have toldPrinter : told.pu.work = s.pu.work.map reshift := by
    show (if _ then flowTest (faultOff s) else faultOff s).pu.work = _
    split
    · rw [pu_flowTest]; rfl
    · rfl
  rw [abandonCursor_some toldCursor, toldPrinter]

/-- What the reader run's end reads of the state before it (R149, R150). -/
theorem run_faultTold (s : State) :
    (faultTold s).tu.run = s.tu.run ∧ (faultTold s).tu.cycle = s.tu.cycle
      ∧ (faultTold s).cm.call.readerLink = s.cm.call.readerLink := by
  have core : fileCore (faultTold s) = fileCore (faultOff s) := by
    rw [faultTold, punchChange_eq]
    split
    · rw [fileCore_flowTest, fileCore_printerChange]
    · exact fileCore_printerChange _ _
  obtain ⟨_, _, _, run, cycle, _⟩ := rest_of_fileCore core
  obtain ⟨_, _, _, _, _, _, _, _, _, _, _, link, _⟩ := call_of_fileCore core
  exact ⟨run, cycle, link⟩

theorem prints_of_cs {s x t : State} {run : List Cell} (cs : x.cs = s.cs) (present : x.pu.present = s.pu.present)
    (file : x.au.file = s.au.file) (h : prints x t run) : prints s t run := by
  intro here passes holder
  rw [← cs] at passes ⊢
  refine h (present.trans here) passes ?_
  rw [blocksHaveOneHolder_iff, cs, file]
  exact blocksHaveOneHolder_iff.mp holder

/-- FAULTED as the commands that enter it leave it (R155). -/
theorem settle_enterFaulted {s : State} :
    let t := settle (enterFaulted s)
    t.mt.motor = .faulted ∧ t.mt.faultWait = some (sec 10) ∧ t.mt.runUp = none ∧ t.mt.senseWindow = none
      ∧ t.mt.hold = none ∧ t.mt.senseRunning = s.mt.senseRunning ∧ t.pu.shift = none ∧ t.tu.run = none
      ∧ faultLamp t = true ∧ prints s t Notice.motorFault.run := by
  intro t
  obtain ⟨motor, wait, runUp, window, hold, sense, shift, run⟩ := mt_enterFaulted s
  obtain ⟨sMotor, sRunUp, sWindow, sWait, sHold⟩ := settle_motor (s := enterFaulted s) (by rw [motor]; decide)
  have faulted : t.mt.motor = .faulted := sMotor.trans motor
  have still : t.mt.hold = none := (sHold (by rw [motor]; decide)).trans hold
  refine ⟨faulted, sWait.trans wait, sRunUp.trans runUp, sWindow.trans window, still,
    (settle_senseRunning _).trans sense, (congrArg PrintUnit.shift (settle_pu _)).trans shift,
    (congrArg TapeUnit.run (settle_tu _)).trans run, by simp [faultLamp, faulted], ?_⟩
  obtain ⟨cs, present⟩ := endRun_faultTold s (printerAvailable_faultOff s)
  exact prints_notice .motorFault cs present

theorem settle_enterRunning (s : State) :
    let t := settle (enterRunning s)
    t.mt.motor = .running ∧ t.mt.runUp = none ∧ t.mt.senseWindow = none ∧ t.mt.senseRunning = s.mt.senseRunning := by
  intro t
  obtain ⟨motor, runUp, window, sense⟩ := mt_enterRunning s
  obtain ⟨sMotor, sRunUp, sWindow, _⟩ := settle_motor (s := enterRunning s) (by rw [motor]; decide)
  exact ⟨sMotor.trans motor, sRunUp.trans runUp, sWindow.trans window, (settle_senseRunning _).trans sense⟩

theorem senseAssigned_elapse (d : Tick) (s : State) : senseAssigned (elapse d s) = senseAssigned s := by
  unfold senseAssigned
  rw [elapse_config]

/-- The demands a state would report do not run with the time. -/
theorem demandHeld_reportDemands_elapse (d : Tick) (s : State) :
    demandHeld (reportDemands (elapse d s)).mt = demandHeld (reportDemands s).mt := by
  unfold elapse
  split
  · rfl
  · simp only [demandHeld, reportDemands, printerDemandNow, punchDemandNow, readerDemandNow, TapeUnit.elapse,
      Option.isSome_map]
    rfl

/-- The fault wait's end, before `settle` (R155). -/
theorem mt_leaveFaulted (s : State) :
    (leaveFaulted s).mt.faultWait = none
      ∧ (demandHeld s.mt = true → (leaveFaulted s).mt.motor = .starting ∧ (leaveFaulted s).mt.runUp = some (ms 400))
      ∧ (demandHeld s.mt = false → (leaveFaulted s).mt.motor = .stopped) := by
  unfold leaveFaulted
  dsimp only
  have core (x : State) : callCore (punchChange (punchAvailable s) (printerChange (printerAvailable s) x)) = callCore x := by
    rw [callCore_punchChange, callCore_printerChange]
  have mt (x : State) := mt_of_callCore (core x)
  obtain ⟨motor, _, _, _, runUp, _, _, wait, _⟩ := mt (if demandHeld s.mt then startMotor s
    else { s with mt.motor := .stopped, mt.faultWait := none })
  rw [wait, motor, runUp]
  cases held : demandHeld s.mt with
  | true => exact ⟨rfl, fun _ => ⟨rfl, rfl⟩, nofun⟩
  | false => exact ⟨rfl, nofun, fun _ => rfl⟩

/-- Settles O60: each command's equation, with the motor through `settle`. -/
theorem motorTimersAndSense : Obligations.MotorTimersAndSense := by
  intro s left again kept faults
  have shifts : reshift = again := funext fun w => by
    obtain ⟨cell, source, keeps, todo⟩ := w
    cases cell with
    | boundary mark n => rfl
    | character r o =>
      cases last : todo.getLast? <;> cases r <;> simp [reshift, again, last, Resolved.caseNeeded]
  have entered {u : State} (motor : u.mt.motor ≠ .faulted) : enterFaulted u = faults u := by
    obtain ⟨runs, cycle, link⟩ := run_faultTold u
    have told := faultTold_eq motor
    rw [printerChange_faultOff motor] at told
    rw [enterFaulted_eq]
    cases cursor : u.au.cursor with
    | none =>
      rw [printerChange_lost_none cursor] at told
      cases run : u.tu.run with
      | none =>
        rw [endRun_of_none (runs.trans run), told]
        simp only [faults, cursor, run, ← shifts] <;> rfl
      | some r =>
        rw [endRun_of_some (runs.trans run), cycle, link, told]
        simp only [faults, cursor, run, ← shifts] <;> rfl
    | some c =>
      rw [printerChange_lost_some cursor] at told
      cases run : u.tu.run with
      | none =>
        rw [endRun_of_none (runs.trans run), told]
        simp only [faults, cursor, run, ← shifts] <;> rfl
      | some r =>
        rw [endRun_of_some (runs.trans run), cycle, link, told]
        simp only [faults, cursor, run, ← shifts] <;> rfl
  refine ⟨fun runUp starting => ⟨fun assigned still => ?_, fun runs => ?_⟩, fun window starting => ?_,
    fun hold running idle after => ?_, fun wait faulted => ?_, fun load assigned => ⟨fun running => ?_,
    fun starting waiting => ?_, fun level other => ?_⟩⟩
  · refine (expire_of runUpEnds s runUp (by simp [starting])).trans ?_
    rw [runUpEnds, if_pos (by rw [senseAssigned_elapse, elapse_senseRunning, assigned, still]; rfl)]
  · have goes : runUpEnds (elapse left s) = enterRunning { elapse left s with mt.runUp := none } := by
      unfold runUpEnds
      rw [if_neg]
      rw [senseAssigned_elapse, elapse_senseRunning]
      rcases runs with unassigned | runs
      · simp [unassigned]
      · simp [runs]
    refine ⟨_, expire_of runUpEnds s runUp (by simp [starting]), ?_⟩
    rw [goes]
    obtain ⟨motor, noRunUp, noWindow, _⟩ := settle_enterRunning { elapse left s with mt.runUp := none }
    exact ⟨motor, noRunUp, noWindow⟩
  · refine ⟨_, expire_of enterFaulted s window (by simp [starting]), ?_⟩
    obtain ⟨motor, wait, noRunUp, noWindow, noHold, _, shift, run, lamp, printed⟩ :=
      settle_enterFaulted (s := elapse left s)
    refine ⟨motor, wait, noRunUp, noWindow, noHold, shift, run, lamp, ?_,
      prints_of_cs (elapse_cs left s) (elapse_present left s) (elapse_file left s) printed⟩
    rw [entered (by rw [elapse_motor, starting]; decide)]
  · rw [exec, execMotorHoldExpiry]
    refine ⟨_, expire_of _ s hold (by simp [running]), ?_⟩
    exact settle_idle (s := { elapse left s with mt.motor := .stopped, mt.hold := none })
      ((demandHeld_elapse left s).trans idle) ((demandHeld_reportDemands_elapse left s).trans after)
  · refine ⟨_, expire_of leaveFaulted s wait (by simp [faulted]), ?_⟩
    obtain ⟨noWait, starts, stops⟩ := mt_leaveFaulted (elapse left s)
    rw [demandHeld_elapse] at starts stops
    cases held : demandHeld s.mt with
    | true =>
      obtain ⟨motor, runUp⟩ := starts held
      obtain ⟨sMotor, sRunUp, _, sWait, _⟩ := settle_motor (s := leaveFaulted (elapse left s)) (by rw [motor]; decide)
      exact ⟨sWait.trans noWait, fun _ => ⟨sMotor.trans motor, sRunUp.trans runUp⟩, nofun⟩
    | false =>
      obtain ⟨motor, waits⟩ := settle_stopped (stops held) noWait
      exact ⟨waits, nofun, fun _ => motor⟩
  · have taken : senseTaken .low s = enterFaulted { s with mt.senseRunning := false } := by
      simp [senseTaken, running, isHigh]
    refine ⟨_, actIf_of (senseTaken .low) s (by simp [load, assigned]), ?_⟩
    rw [taken]
    obtain ⟨motor, wait, _, _, noHold, sense, shift, run, lamp, printed⟩ :=
      settle_enterFaulted (s := { s with mt.senseRunning := false })
    refine ⟨motor, sense, wait, noHold, shift, run, lamp, ?_, printed⟩
    rw [entered (u := { s with mt.senseRunning := false }) (by rw [running]; decide)]
  · have taken : senseTaken .high s = enterRunning { s with mt.senseRunning := true } := by
      simp [senseTaken, starting, waiting, isHigh]
    refine ⟨_, actIf_of (senseTaken .high) s (by simp [load, assigned]), ?_⟩
    rw [taken]
    obtain ⟨motor, _, _, sense⟩ := settle_enterRunning { s with mt.senseRunning := true }
    exact ⟨motor, sense⟩
  · refine (actIf_of (senseTaken level) s (by simp [load, assigned])).trans ?_
    have same : senseTaken level s = { s with mt.senseRunning := decide (level = .high) } := by
      rcases other with stopped | faulted | ⟨running, rfl⟩ | ⟨starting, low | waits⟩
      · cases level <;> simp [senseTaken, stopped, isHigh]
      · cases level <;> simp [senseTaken, faulted, isHigh]
      · simp [senseTaken, running, isHigh]
      · subst low; simp [senseTaken, starting, isHigh]
      · cases level <;> simp [senseTaken, starting, waits, isHigh]
    rw [same]

end Sys2Proof.Machine
end

section
/-!
The printer takes a cell (R123, R126 to R128): the operations a cell needs, the source that offers it, and the act.
-/

namespace Sys2Proof.Machine

/-! ### The operations a cell needs (R122, R123, R125 to R127) -/

theorem aboveOne_iff (column : Option Nat) : aboveOne column = true ↔ ∃ col, column = some col ∧ 1 < col := by
  cases column <;> simp [aboveOne]

theorem opsFor_start (s : State) (src : Source) (n : Station) :
    opsFor s src (.boundary .start n) =
      if s.cl.config.originSeparation = true ∧ ∃ col, s.pu.column = some col ∧ 1 < col then [.crLf] else [] := by
  simp only [opsFor, Bool.and_eq_true, aboveOne_iff]

theorem separates_iff (s : State) (o : PrintOrigin) :
    separates s o = true ↔
      s.cl.config.originSeparation = true ∧ s.pu.lastOrigin ≠ none ∧ s.pu.lastOrigin ≠ some o
        ∧ ∃ col, s.pu.column = some col ∧ 1 < col := by
  simp only [separates, Bool.and_eq_true, decide_eq_true_eq, aboveOne_iff, and_assoc, ne_eq]

theorem moves_iff (r : Resolved) : moves r = true ↔ ownOp r = .strike ∨ ownOp r = .space := by simp [moves]

/-- The last three items, where the column is known. -/
theorem lastItems_known (shift : Option Case) (col : Nat) (r : Resolved) :
    lastItems shift (some col) r = shiftFirst shift r ++ [ownOp r] := rfl

/-- And where it is not. -/
theorem lastItems_unknown (shift : Option Case) (r : Resolved) :
    lastItems shift none r =
      if r = .cr then [.cr] else if r = .lf then [.crLf] else .cr :: (shiftFirst shift r ++ [ownOp r]) := by
  cases r <;> simp [lastItems]

/-- The operations of a character: separation, wrap, and the last items. -/
theorem opsFor_character (s : State) (src : Source) (r : Resolved) (o : Origin) :
    opsFor s src (.character r o) =
      let apart := separates s (printOrigin src o) = true
      let column := if apart then some 1 else s.pu.column
      let wraps := s.cl.config.wrap = true ∧ moves r = true ∧ column = some s.cl.config.width
      (if apart then [.crLf] else []) ++ (if wraps then [.crLf] else [])
        ++ lastItems s.pu.shift (if wraps then some 1 else column) r := by
  simp only [opsFor, Bool.and_eq_true, decide_eq_true_eq, and_assoc]

/-! ### The source (R128) -/

theorem atLineBoundary_iff (s : State) : atLineBoundary s = true ↔ s.pu.column = some 1 ∨ s.pu.lastOp = some .lf := by
  simp [atLineBoundary]

/-- The queue's cell is chosen wherever the source is QUEUE. -/
theorem choose_queue {s : State} {c : Cell} (source : s.pu.source = .queue) (head : s.cs.headCell .print = some c) :
    choose s = some (.queue, c) := by
  unfold choose
  split <;> simp [offered, source, head]

/-! ### The act (R123, R124) -/

/-- The ready printer takes what is chosen, with nothing in hand, or an LF into a CR in progress. -/
theorem puTakeCell_takes {s : State} {src : Source} {c : Cell} (load : loaded s = true) (able : printerOperable s = true)
    (chosen : choose s = some (src, c))
    (ready : (s.pu.op = none ∧ s.pu.work = none) ∨ (crAlone s.pu = true ∧ isLf c = true)) :
    exec .puTakeCell s = .next (settle (takePrintCell src c s)) := by
  have takes : printerTakes s = some (src, c) := by simp [printerTakes, able, chosen, ready]
  rw [exec, execPuTakeCell, takes]
  exact actIf_of (takePrintCell src c) s load

theorem puTakeCell_waits {s : State} {src : Source} {c : Cell} (chosen : choose s = some (src, c))
    (busy : ¬ ((s.pu.op = none ∧ s.pu.work = none) ∨ (crAlone s.pu = true ∧ isLf c = true))) :
    exec .puTakeCell s = .next s := by
  have takes : printerTakes s = none := by
    unfold printerTakes
    split
    · rw [chosen]; exact if_neg busy
    · rfl
  rw [exec, execPuTakeCell, takes]
  rfl

theorem crAlone_iff (p : PrintUnit) :
    crAlone p = true ↔ p.op = some .cr ∧ ∀ w, p.work = some w → w.todo = [] := by
  unfold crAlone
  cases p.work <;> simp

theorem isLf_iff (c : Cell) : isLf c = true ↔ ∃ o, c = .character .lf o := by
  cases c with
  | boundary => simp [isLf]
  | character r o => cases r <;> simp [isLf]

/-- A taken cell with no CR in progress: its first operation starts. -/
theorem beginWork_ops {s : State} {src : Source} {c : Cell} (idle : s.pu.op = none) :
    beginWork src c s =
      match opsFor s src c with
      | op :: rest =>
        startPrintOp op { s with
          pu.source := src
          pu.lastOrigin := originAfter src c s.pu.lastOrigin
          pu.work := some ⟨c, src, false, rest⟩ }
      | [] => { s with pu.source := src, pu.lastOrigin := originAfter src c s.pu.lastOrigin } := by
  have alone : crAlone s.pu = false := by simp [crAlone, idle]
  unfold beginWork
  dsimp only
  exact if_neg (by rw [alone]; decide)

theorem throttleFor_eq (heat : Nat) (on : Bool) :
    throttleFor heat on = if on = true then decide (400 < heat) else decide (600 ≤ heat) := by
  cases on with
  | true => exact (decide_not).symm.trans (decide_eq_decide.mpr Nat.not_le)
  | false => rfl

/-- Settles O54. -/
theorem printerTakesACell : Obligations.PrinterTakesACell := by
  refine ⟨fun s col load present paper motor idle empty source column => ⟨fun n head => ?_, ?_⟩, fun s src => ?_,
    fun s => ?_, fun s => ⟨?_, ?_⟩, fun s src cell load present paper motor chosen => ?_⟩
  · have able := (printerOperable_iff s).mpr ⟨present, paper, motor⟩
    rw [puTakeCell_takes load able (choose_queue source head) (.inl ⟨idle, empty⟩), takePrintCell, beginWork_ops idle]
    simp only [opsFor, originAfter, ← source]
  · intro r o head ⟨inCase, known, ring⟩ inside same heat
    have able := (printerOperable_iff s).mpr ⟨present, paper, motor⟩
    have together : separates s (printOrigin .queue o) = false := by
      rw [← Bool.not_eq_true, separates_iff, column]
      rintro ⟨separation, printed, other, c, at_c, above⟩
      rcases same with one | fresh | origin | off
      · have := Option.some.inj at_c
        omega
      · exact printed fresh
      · exact other origin
      · rw [off] at separation; cases separation
    have fits : ¬ (s.cl.config.wrap = true ∧ moves r = true ∧ s.pu.column = Option.some s.cl.config.width) := by
      rintro ⟨_, _, atMargin⟩
      rw [column] at atMargin
      exact absurd (Option.some.inj atMargin) (Nat.ne_of_lt inside)
    have strikes : shiftFirst s.pu.shift r ++ [ownOp r] = [.strike] := by
      cases r with
      | letter c => simp [shiftFirst, ← inCase, ownOp, Resolved.caseNeeded]
      | figure c => simp [shiftFirst, ← inCase, ownOp, Resolved.caseNeeded]
      | bell => exact absurd rfl ring
      | _ => exact absurd inCase.symm known
    have ops : opsFor s .queue (.character r o) = [.strike] := by
      rw [column] at fits
      simp only [opsFor_character, together, Bool.false_eq_true, if_false, column, fits, List.nil_append]
      exact strikes
    rw [puTakeCell_takes load able (choose_queue source head) (.inl ⟨idle, empty⟩), takePrintCell, beginWork_ops idle, ops]
    simp only [startPrintOp, heatUp, throttleFor_eq, column, advance, if_pos inside, originAfter, ← source]
    rfl
  · refine ⟨fun n => ⟨opsFor_start s src n, rfl⟩, fun r o => ?_⟩
    intro origin apart column own wraps shift
    have ownOps : ownOp r = own := by cases r <;> rfl
    have items : lastItems s.pu.shift (if wraps then some 1 else column) r =
        if wraps ∨ column ≠ none then shift ++ [own]
        else if r = .cr then [.cr]
        else if r = .lf then [.crLf]
        else .cr :: (shift ++ [own]) := by
      by_cases wrapped : wraps
      · rw [if_pos wrapped, if_pos (.inl wrapped), lastItems_known, ownOps]; rfl
      · rw [if_neg wrapped]
        rcases Option.eq_none_or_eq_some column with unknown | ⟨col, known⟩
        · rw [if_neg (by simp [wrapped, unknown]), unknown, lastItems_unknown, ownOps]; rfl
        · rw [if_pos (.inr (by simp [known])), known, lastItems_known, ownOps]; rfl
    rw [← items, opsFor_character]
    simp only [separates_iff, moves_iff, ownOps]
    rfl
  · intro boundary queued
    unfold choose
    refine if_congr (atLineBoundary_iff s) ?_ ?_
    · cases h : s.cs.headCell .print <;> cases k : cursorCell s <;> simp [offered, h, k, queued]
    · cases h : s.pu.source with
      | queue => cases k : s.cs.headCell .print <;> simp [offered, k, queued]
      | cursor => cases k : cursorCell s <;> simp [offered, k]
  · intro none
    simp [cursorCell, none]
  · intro c cursor
    refine ⟨fun pending => by simp [cursorCell, cursor, pending], fun r clear found => ?_⟩
    have inFile : recordIn s c.record = some r := found
    simp [cursorCell, cursor, clear, inFile]
  · intro last begun left
    have able := (printerOperable_iff s).mpr ⟨present, paper, motor⟩
    have origin : originAfter src cell s.pu.lastOrigin = last := by cases cell <;> rfl
    have takes (u : State) (work : beginWork src cell s = u) : takePrintCell src cell s = left u := by
      subst work
      cases src <;> rfl
    refine ⟨fun idle empty => ⟨fun nothing => ?_, fun op rest ops => ?_⟩, fun w o cr work done lf => ?_, fun busy alone => ?_⟩
    · have begins : beginWork src cell s = begun none := by
        rw [beginWork_ops idle, nothing, origin]
        simp only [begun, ← empty]
      rw [puTakeCell_takes load able chosen (.inl ⟨idle, empty⟩), takes _ begins]
    · have begins : beginWork src cell s = startPrintOp op (begun (some ⟨cell, src, false, rest⟩)) := by
        rw [beginWork_ops idle, ops, origin]
      rw [puTakeCell_takes load able chosen (.inl ⟨idle, empty⟩), takes _ begins]
    · have alone : crAlone s.pu = true := (crAlone_iff s.pu).mpr ⟨cr, fun x same => by
        rw [work] at same; cases same; exact done⟩
      rw [puTakeCell_takes load able chosen (.inr ⟨alone, (isLf_iff cell).mpr ⟨o, lf⟩⟩)]
      refine congrArg (fun x => Host.Outcome.next (settle x)) (takes _ ?_)
      unfold beginWork
      dsimp only
      rw [if_pos alone, origin]
    · refine puTakeCell_waits chosen ?_
      rintro (⟨idle, empty⟩ | ⟨cr, lf⟩)
      · exact busy.elim (fun h => h idle) (fun h => h empty)
      · obtain ⟨op, done⟩ := (crAlone_iff s.pu).mp cr
        exact alone ⟨op, done, (isLf_iff cell).mp lf⟩

end Sys2Proof.Machine
end

section
/-!
What leaving OPEN leaves of the file and of what the queues hold (R26, R95, R170), through the moves to PRINT that follow it
(R168, R173, R175).
-/

namespace Sys2Proof.Machine

/-! ### What print moves keep -/

section PrintMoves

variable {may : Chain → Prop} {p q : Holding}

theorem PrintMove.queue (h : PrintMove may p q) {n : QueueName} (other : n ≠ .print) : q.1.queue n = p.1.queue n := by
  cases h with
  | append st file run => exact Store.queue_pushRun_ne run other
  | flags => rfl
  | drop st file r => exact Store.queue_flushChain _ _ n

theorem PrintMoves.oneHolder (h : PrintMoves may p q) (one : OneHolder p.1 p.2) : OneHolder q.1 q.2 :=
  h.toMoves.keeps (P := fun x => OneHolder x.1 x.2) (fun _ _ => Move.keeps_oneHolder) one

theorem PrintMove.cells (h : PrintMove may p q) (one : OneHolder p.1 p.2) :
    (∀ n, n ≠ .print → q.1.queueCells n = p.1.queueCells n) ∧ p.1.queueCells .print <+: q.1.queueCells .print := by
  cases h with
  | append st file run => exact ⟨(one.pushRun .print run).2.1, one.prefix_pushRun .print run⟩
  | flags => exact ⟨fun _ _ => rfl, List.prefix_rfl⟩
  | drop st file r mem =>
    obtain ⟨x, hx, e⟩ := mem
    obtain ⟨_, ⟨cells, _⟩, _⟩ := one.drop hx
    rw [chain_of_unflagged e] at cells
    exact ⟨fun n _ => cells n, by rw [cells]⟩

theorem PrintMoves.queue (h : PrintMoves may p q) {n : QueueName} (other : n ≠ .print) : q.1.queue n = p.1.queue n := by
  induction h with
  | refl => rfl
  | tail _ move ih => exact (move.queue other).trans ih

theorem PrintMoves.cells (h : PrintMoves may p q) (one : OneHolder p.1 p.2) :
    (∀ n, n ≠ .print → q.1.queueCells n = p.1.queueCells n) ∧ p.1.queueCells .print <+: q.1.queueCells .print := by
  induction h with
  | refl => exact ⟨fun _ _ => rfl, List.prefix_rfl⟩
  | tail before move ih =>
    obtain ⟨same, first⟩ := move.cells (PrintMoves.oneHolder before one)
    exact ⟨fun n other => (same n other).trans (ih.1 n other), ih.2.trans first⟩

theorem map_slot_map {f : FileRecord → FileRecord} (same : ∀ r, (f r).slot = r.slot) (file : List FileRecord) :
    (file.map f).map FileRecord.slot = file.map FileRecord.slot :=
  List.map_map.trans (List.map_congr_left fun r _ => same r)

/-- Records in distinct slots stay so. -/
theorem PrintMove.slots (h : PrintMove may p q) (slots : (p.2.map FileRecord.slot).Nodup) :
    (q.2.map FileRecord.slot).Nodup := by
  cases h with
  | append => exact slots
  | flags st file f same =>
    rw [map_slot_map fun r => slot_of_unflagged (same r)]
    exact slots
  | drop st file r => exact (List.filter_sublist.map _).nodup slots

/-- No record comes, and none changes but in its flags (R168). -/
theorem PrintMoves.comes (h : PrintMoves may p q) {y : FileRecord} (mem : y ∈ q.2) :
    ∃ x ∈ p.2, x.unflagged = y.unflagged := by
  induction h generalizing y with
  | refl => exact ⟨y, mem, rfl⟩
  | tail _ move ih =>
    cases move with
    | append => exact ih mem
    | flags st file f same =>
      obtain ⟨x, inside, rfl⟩ := List.mem_map.mp mem
      rw [same]
      exact ih inside
    | drop => exact ih (List.mem_of_mem_filter mem)

theorem PrintMove.stays (h : PrintMove may p q) (slots : (p.2.map FileRecord.slot).Nodup) {x : FileRecord}
    (mem : x ∈ p.2) (kept : ¬ may x.chain) : ∃ y ∈ q.2, y.unflagged = x.unflagged := by
  cases h with
  | append => exact ⟨x, mem, rfl⟩
  | flags st file f same => exact ⟨f x, List.mem_map_of_mem mem, same x⟩
  | drop st file r inside gone =>
    refine ⟨x, List.mem_filter.mpr ⟨mem, decide_eq_true fun slot => kept ?_⟩, rfl⟩
    obtain ⟨z, there, e⟩ := inside
    rw [List.inj_on_of_nodup_map slots mem there (slot.trans (slot_of_unflagged e).symm), chain_of_unflagged e]
    exact gone

/-- A record whose chain may not go stays (R173). -/
theorem PrintMoves.stays (h : PrintMoves may p q) (slots : (p.2.map FileRecord.slot).Nodup) {x : FileRecord}
    (mem : x ∈ p.2) (kept : ¬ may x.chain) : ∃ y ∈ q.2, y.unflagged = x.unflagged := by
  have whole : (q.2.map FileRecord.slot).Nodup ∧ ∃ y ∈ q.2, y.unflagged = x.unflagged := by
    induction h with
    | refl => exact ⟨slots, x, mem, rfl⟩
    | tail _ move ih =>
      obtain ⟨slots', y, inside, e⟩ := ih
      obtain ⟨z, there, e'⟩ := move.stays slots' inside (by rw [chain_of_unflagged e]; exact kept)
      exact ⟨move.slots slots', z, there, e'.trans e⟩
  exact whole.2

end PrintMoves

/-! ### Leaving OPEN, act by act (R95) -/

/-- A record closed, FILED or CUT, at this minute (R170). -/
def FileRecord.closed (filed : Bool) (minute : BitVec 16) (r : FileRecord) : FileRecord :=
  { r with state := if filed then .filed else .cut, completedAt := some minute }

theorem file_closeFile {slot : Fin 24} (filed : Bool) {s : State} (link : s.cm.call.fileLink = some slot) :
    (closeFile filed s).au.file = s.au.file.map fun r => if r.slot = slot then r.closed filed s.au.clock else r := by
  simp only [closeFile, link]
  rfl

@[simp] theorem cs_closeFile (filed : Bool) (s : State) : (closeFile filed s).cs = s.cs := by
  unfold closeFile
  split <;> rfl

/-- What is done before the ENDs: the edit stack discarded and SEND flushed among it (R95). -/
def beforeEnds (c : CallState) (s : State) : State :=
  flushSend (discardEdit (stopSendRun (clearHolds (withdrawOpen (setCallState c s)))))

theorem leaveOpen_eq (c : CallState) (filed : Bool) (s : State) :
    leaveOpen c filed s = closeFile filed (appendEnd .punch (appendEnd .print (beforeEnds c s))) := rfl

theorem storeFile_flushSend (s : State) : storeFile (flushSend s) = (s.cs.flushQueue .send, s.au.file) := by
  unfold flushSend
  rw [storeFile_signal]
  rfl

theorem printMoves_discardEdit {may : Chain → Prop} (s : State) :
    PrintMoves may (storeFile s) (storeFile (discardEdit s)) := by
  unfold discardEdit
  split_ifs
  · exact .refl _
  · exact printMoves_notice .lineDiscarded { s with ku.editStack := [] }

theorem storeCore_discardEdit (s : State) :
    storeCore (discardEdit s) = storeCore (if s.ku.editStack = [] then s else { s with ku.editStack := [] }) := by
  unfold discardEdit
  split_ifs
  · rfl
  · exact storeCore_notice _ _

/-- The store and the file before the edit stack is discarded are the first ones. -/
theorem stopSendRun_first (c : CallState) (s : State) :
    let u := stopSendRun (clearHolds (withdrawOpen (setCallState c s)))
    u.cs = s.cs ∧ u.ku.editStack = s.ku.editStack ∧ u.au.file = s.au.file ∧ u.au.clock = s.au.clock
      ∧ u.cm.call.state = c ∧ u.cm.call.fileLink = s.cm.call.fileLink := by
  obtain ⟨cs, _, ku, au, _, call, _⟩ := stopSendRun_keeps (clearHolds (withdrawOpen (setCallState c s)))
  dsimp only
  rw [cs, ku, au, call]
  exact ⟨rfl, rfl, rfl, rfl, rfl, rfl⟩

/-- What stands before the ENDs: PRINT and PUNCH as they were but for the notice of a line discarded (R95, R109). -/
theorem beforeEnds_keeps {c : CallState} (s : State) (leaves : c ≠ .opened) :
    let u := beforeEnds c s
    u.au.file = s.au.file ∧ u.au.clock = s.au.clock ∧ u.cm.call.state ≠ .opened
      ∧ u.cm.call.fileLink = s.cm.call.fileLink ∧ u.cs.punch = s.cs.punch
      ∧ (s.ku.editStack = [] → u.cs.print = s.cs.print)
      ∧ (OneHolder s.cs s.au.file → OneHolder u.cs s.au.file ∧ u.cs.queueCells .punch = s.cs.queueCells .punch
        ∧ (s.ku.editStack = [] → u.cs.queueCells .print = s.cs.queueCells .print)) := by
  have first := stopSendRun_first c s
  unfold beforeEnds
  dsimp only at first ⊢
  generalize stopSendRun (clearHolds (withdrawOpen (setCallState c s))) = x at first ⊢
  obtain ⟨cs, edit, file, clock, state, link⟩ := first
  have notOpen : x.cm.call.state ≠ .opened := by rw [state]; exact leaves
  have moves := printMoves_discardEdit (may := fun _ => False) x
  have same : (discardEdit x).cm = x.cm ∧ (discardEdit x).au.file = x.au.file ∧ (discardEdit x).au.clock = x.au.clock := by
    unfold discardEdit
    split_ifs
    · exact ⟨rfl, rfl, rfl⟩
    · have core := storeCore_notice .lineDiscarded { x with ku.editStack := [] }
      obtain ⟨_, _, _, _, _, _, file, _, _, _, _, _, _, _, clock, _⟩ := rest_of_storeCore core
      exact ⟨(notice_of_not_open (n := .lineDiscarded) (s := { x with ku.editStack := [] }) notOpen).1, file, clock⟩
  have empty : s.ku.editStack = [] → discardEdit x = x := fun e => if_pos (edit.trans e)
  generalize discardEdit x = y at moves same empty ⊢
  obtain ⟨cm, file', clock'⟩ := same
  have flushed := storeFile_flushSend y
  have stillOff : y.cm.call.state ≠ .opened := by rw [cm]; exact notOpen
  obtain ⟨_, _, _, _, _, _, file'', _, _, _, _, _, _, _, clock'', _⟩ := rest_of_storeCore (storeCore_flushSend y)
  have store : (flushSend y).cs = y.cs.flushQueue .send := congrArg Prod.fst flushed
  obtain ⟨_, print, punch⟩ := flushSend_send y
  refine ⟨by rw [file'', file', file], by rw [clock'', clock', clock], ?_, ?_, ?_, fun e => ?_, fun one => ?_⟩
  · rw [(flushSend_of_not_open stillOff).1]; exact stillOff
  · rw [(flushSend_of_not_open stillOff).1]
    show y.cm.call.fileLink = _
    rw [cm, link]
  · rw [punch, ← cs]; exact moves.queue (n := .punch) (by decide)
  · rw [print, empty e, cs]
  · rw [← cs, ← file] at one
    have one' : OneHolder y.cs s.au.file := by rw [← file, ← file']; exact moves.oneHolder one
    obtain ⟨cells, _⟩ := moves.cells one
    obtain ⟨whole, ⟨others, _⟩, _⟩ := one'.flushQueue .send
    rw [store]
    refine ⟨whole, (others .punch (by decide)).trans ((cells .punch (by decide)).trans (by rw [← cs]; rfl)), fun e => ?_⟩
    rw [others .print (by decide), empty e, cs]

/-! ### An END (R26) -/

theorem file_appendEnd (n : QueueName) (s : State) :
    (appendEnd n s).au.file = s.au.file ∧ (appendEnd n s).au.clock = s.au.clock := by
  obtain ⟨_, _, _, _, _, _, file, _, _, _, _, _, _, _, clock, _⟩ := rest_of_storeCore (storeCore_appendEnd n s)
  exact ⟨file, clock⟩

/-- The store with a queue's mark taken away holds what it held. -/
theorem unmarked {st : Store} {file : List FileRecord} (one : OneHolder st file) (n : QueueName) :
    OneHolder (st.setQueue n { st.queue n with openMark := none }) file
      ∧ ∀ m, (st.setQueue n { st.queue n with openMark := none }).queueCells m = st.queueCells m := by
  obtain ⟨whole, keeps, cells⟩ := OneHolder.setQueue (q := { st.queue n with openMark := none }) one rfl
  refine ⟨whole, fun m => ?_⟩
  by_cases same : m = n
  · rw [same]; exact cells
  · exact keeps.1 m same

/-- An END leaves the other queues, and follows what its own queue held where that has room for it (R26). -/
theorem cells_appendEnd (n : QueueName) {s : State} (one : OneHolder s.cs s.au.file) :
    OneHolder (appendEnd n s).cs s.au.file
      ∧ (∀ m, m ≠ n → (appendEnd n s).cs.queueCells m = s.cs.queueCells m)
      ∧ ((s.cs.queue n).openMark = none → (appendEnd n s).cs.queueCells n = s.cs.queueCells n)
      ∧ ∀ p, (s.cs.queue n).openMark = some p → (s.cs.queue n).blocksNeeded [.boundary .finish p] = 0 →
        (s.cs.queue n).blockCount ≤ (s.cs.queue n).limit →
        (appendEnd n s).cs.queueCells n = s.cs.queueCells n ++ [.boundary .finish p] := by
  cases mark : (s.cs.queue n).openMark with
  | none =>
    have same : appendEnd n s = s := by simp [appendEnd, mark]
    rw [same]
    exact ⟨one, fun _ _ => rfl, fun _ => rfl, nofun⟩
  | some p =>
    have store : ∃ st, (appendEnd n s).cs = st.setQueue n { st.queue n with openMark := none }
        ∧ (st = s.cs ∧ s.cs.spaceCheck n .mayUse [.boundary .finish p] = false
          ∨ st = s.cs.pushRun n [.boundary .finish p]) := by
      cases passes : s.cs.spaceCheck n .mayUse [.boundary .finish p] with
      | false => exact ⟨s.cs, by simp [appendEnd, mark, appendRun_refused passes], .inl ⟨rfl, rfl⟩⟩
      | true =>
        have appended := appendRun_passed passes
        refine ⟨s.cs.pushRun n [.boundary .finish p], ?_, .inr rfl⟩
        simp only [appendEnd, mark, appended, Option.getD_some, cs_appendRun appended]
    obtain ⟨st, eq, how⟩ := store
    rw [eq]
    rcases how with ⟨rfl, fails⟩ | rfl
    · obtain ⟨whole, cells⟩ := unmarked one n
      refine ⟨whole, fun m _ => cells m, nofun, fun p' h zero fits => ?_⟩
      cases h
      have passes := (spaceCheck_iff s.cs n .mayUse [.boundary .finish p]).mpr
        ⟨by rw [zero]; exact fits, (reservePasses_iff _ _ _).mpr (.inl zero)⟩
      rw [fails] at passes
      cases passes
    · obtain ⟨pushed, keeps, _⟩ := one.pushRun n [.boundary .finish p]
      obtain ⟨whole, cells⟩ := unmarked pushed n
      refine ⟨whole, fun m other => (cells m).trans (keeps m other), nofun, fun p' h zero fits => ?_⟩
      cases h
      rw [cells]
      exact one.queueCells_pushRun (by rw [zero]; exact Nat.zero_le _)

/-! ### The whole (R95) -/

/-- The records after leaving OPEN: the call's is closed (R170). -/
theorem file_leaveOpen {c : CallState} {slot : Fin 24} (filed : Bool) {s : State} (leaves : c ≠ .opened)
    (link : s.cm.call.fileLink = some slot) :
    (leaveOpen c filed s).au.file = s.au.file.map fun r => if r.slot = slot then r.closed filed s.au.clock else r := by
  obtain ⟨file, clock, state, link', _⟩ := beforeEnds_keeps s leaves
  rw [leaveOpen_eq]
  generalize beforeEnds c s = u at file clock state link' ⊢
  have printed : (appendEnd .print u).cm = u.cm := (appendEnd_of_not_open (by decide) state).1
  have punched : (appendEnd .punch (appendEnd .print u)).cm = u.cm :=
    (appendEnd_of_not_open (by decide) (by rw [printed]; exact state)).1.trans printed
  have linked : (appendEnd .punch (appendEnd .print u)).cm.call.fileLink = some slot := by rw [punched, link', link]
  obtain ⟨fileP, clockP⟩ := file_appendEnd .print u
  obtain ⟨fileQ, clockQ⟩ := file_appendEnd .punch (appendEnd .print u)
  rw [file_closeFile filed linked, fileQ, fileP, clockQ, clockP, file, clock]

/-- The queues after leaving OPEN: an END follows what PUNCH held, and what PRINT held, where there is a mark and room (R26). -/
theorem cells_leaveOpen {c : CallState} (filed : Bool) {s : State} (leaves : c ≠ .opened)
    (one : OneHolder s.cs s.au.file) :
    let st := (leaveOpen c filed s).cs
    (s.cs.punch.openMark = none → st.queueCells .punch = s.cs.queueCells .punch)
      ∧ (∀ n, s.cs.punch.openMark = some n → s.cs.punch.blocksNeeded [.boundary .finish n] = 0 →
          s.cs.punch.blockCount ≤ s.cs.punch.limit →
          st.queueCells .punch = s.cs.queueCells .punch ++ [.boundary .finish n])
      ∧ ∀ n, s.cs.print.openMark = some n → s.cs.print.blocksNeeded [.boundary .finish n] = 0 →
          s.ku.editStack = [] → s.cs.print.blockCount ≤ s.cs.print.limit →
          st.queueCells .print = s.cs.queueCells .print ++ [.boundary .finish n] := by
  obtain ⟨file, _, _, _, punch, print, cells⟩ := beforeEnds_keeps s leaves
  obtain ⟨whole, punchCells, printCells⟩ := cells one
  rw [leaveOpen_eq, cs_closeFile]
  generalize beforeEnds c s = u at file punch print whole punchCells printCells ⊢
  rw [← file] at whole
  obtain ⟨wholeP, othersP, _, endP⟩ := cells_appendEnd .print whole
  have queueP : (appendEnd .print u).cs.queue .punch = s.cs.punch :=
    ((appendEnd_queues .print u).2 .punch (by decide)).trans punch
  rw [← (file_appendEnd .print u).1] at wholeP
  obtain ⟨_, othersQ, noneQ, endQ⟩ := cells_appendEnd .punch wholeP
  rw [queueP] at noneQ endQ
  rw [othersP .punch (by decide), punchCells] at noneQ endQ
  refine ⟨noneQ, endQ, fun n mark zero edit fits => ?_⟩
  have queue : u.cs.queue .print = s.cs.print := print edit
  rw [othersQ .print (by decide), endP n (by rw [queue]; exact mark) (by rw [queue]; exact zero)
    (by rw [queue]; exact fits), printCells edit]

theorem oneHolder_leaveOpen {c : CallState} {filed : Bool} {s : State} (leaves : c ≠ .opened)
    (one : OneHolder s.cs s.au.file) : OneHolder (leaveOpen c filed s).cs (leaveOpen c filed s).au.file :=
  (act_leaveOpen filed leaves).moves.keeps (P := fun x => OneHolder x.1 x.2) (fun _ _ => Move.keeps_oneHolder) one

/-! ### And what follows -/

/-- The call's record after leaving OPEN and the moves to PRINT that follow: closed, and there unless its chain may go. -/
theorem record_after_leaveOpen {may : Chain → Prop} {c : CallState} {filed : Bool} {s : State} {q : Holding}
    (leaves : c ≠ .opened) (follow : PrintMoves may (storeFile (leaveOpen c filed s)) q)
    (slots : (s.au.file.map FileRecord.slot).Nodup)
    {x : FileRecord} (mem : x ∈ s.au.file) (link : s.cm.call.fileLink = some x.slot) :
    (∀ y ∈ q.2, y.slot = x.slot →
      y.state = (if filed then .filed else .cut) ∧ y.completedAt = some s.au.clock ∧ y.number = x.number
        ∧ y.chain = x.chain)
      ∧ (¬ may x.chain → ∃ y ∈ q.2, y.slot = x.slot) := by
  have file := file_leaveOpen filed leaves link
  have slotOf (r : FileRecord) : (if r.slot = x.slot then r.closed filed s.au.clock else r).slot = r.slot := by
    split <;> rfl
  refine ⟨fun y inside same => ?_, fun kept => ?_⟩
  · obtain ⟨z, there, e⟩ := follow.comes inside
    rw [show (storeFile (leaveOpen c filed s)).2 = _ from file] at there
    obtain ⟨w, before, rfl⟩ := List.mem_map.mp there
    have slot : w.slot = x.slot := (slotOf w).symm.trans ((slot_of_unflagged e).trans same)
    obtain rfl := List.inj_on_of_nodup_map slots before mem slot
    rw [if_pos rfl] at e
    simp only [FileRecord.unflagged, FileRecord.closed, FileRecord.mk.injEq] at e
    obtain ⟨_, number, _, _, _, _, completed, state, _, _, chain, _⟩ := e
    exact ⟨state.symm, completed.symm, number.symm, chain.symm⟩
  · have there : x.closed filed s.au.clock ∈ (leaveOpen c filed s).au.file := by
      rw [file]
      exact List.mem_map.mpr ⟨x, mem, if_pos rfl⟩
    have slots' : ((leaveOpen c filed s).au.file.map FileRecord.slot).Nodup := by
      rw [file, map_slot_map slotOf]
      exact slots
    obtain ⟨y, inside, e⟩ := follow.stays slots' there kept
    exact ⟨y, inside, (slot_of_unflagged e).trans rfl⟩

/-! ### Outside OPEN, the end of a command changes the motor alone -/

theorem settle_of_not_open {s : State} (state : s.cm.call.state ≠ .opened) : ∃ m, settle s = { s with mt := m } :=
  settle_eq_of_formText (formText_of_not_forms fun forms => state (opened_of_forms forms))

/-! ### A valid telegram's text (R34) -/

theorem valid_text {t : Telegram} {k : Kind} (valid : validKind t = some k) :
    lengthAllowed k t.text.length = true ∧ textAllowed k t.text = true := by
  unfold validKind at valid
  split at valid
  · cases valid
  · split_ifs at valid with fields
    obtain ⟨_, _, _, length, same, text, _⟩ := fields
    cases valid
    exact ⟨by rw [same]; exact length, text⟩

/-- A text of one value, which reads as something. -/
theorem read_of_single {α : Type} {f : Code → Option α} {cs : List Code} (single : (cs.length == 1) = true)
    (all : cs.all (fun c => (f c).isSome) = true) : ∃ c rest r, cs = c :: rest ∧ f c = some r := by
  cases cs with
  | nil => cases single
  | cons c rest =>
    obtain ⟨r, read⟩ := Option.isSome_iff_exists.mp (List.all_eq_true.mp all c (by simp))
    exact ⟨c, rest, r, rfl, read⟩

/-- A valid REFUSE has a reason (R75). -/
theorem reason_of_refuse {t : Telegram} (valid : validKind t = some .refuse) : ∃ r, telegramReason t = some r := by
  obtain ⟨length, text⟩ := valid_text valid
  obtain ⟨c, rest, r, values, read⟩ := read_of_single length text
  exact ⟨r, by rw [telegramReason, values]; exact read⟩

/-- A valid CLEAR has a cause (R91). -/
theorem cause_of_clear {t : Telegram} (valid : validKind t = some .clear) : ∃ c, telegramCause t = some c := by
  obtain ⟨length, text⟩ := valid_text valid
  obtain ⟨c, rest, r, values, read⟩ := read_of_single length text
  exact ⟨r, by rw [telegramCause, values]; exact read⟩

/-! ### The CM's part, case by case (R75, R91, R92) -/

theorem not_groupCaller {c : CallRecord} {n : Station} (party : c.partyStation = some n) : isGroupCaller c = false := by
  simp [isGroupCaller, party]

/-- A record that does not hold the view is left at a view freed (R70). -/
theorem endFreed_of_state {freed : Bool} {h : Handed} {s : State} (state : holdsView s.cm.call.state = false) :
    endFreed freed h s = s := if_neg (by rw [state]; simp)

/-- A REFUSE taken from the called station ends AWAITING (R75). -/
theorem heardRefuse_awaiting {freed : Bool} {h : Handed} {s : State} {r : Reason}
    (reason : telegramReason h.telegram = some r) (party : s.cm.call.partyStation = some h.telegram.source)
    (state : s.cm.call.state = .awaiting) (taken : h.taken = true) :
    heardRefuse freed h s = toIdle false (some (.refused (sourceNumber h.telegram) r)) s := by
  simp [heardRefuse, reason, party, state, taken]

/-- A CLEAR taken from the party ends AWAITING and OPEN (R91, R95). -/
theorem heardClear_party {freed : Bool} {h : Handed} {s : State} {c : Cause}
    (cause : telegramCause h.telegram = some c) (party : s.cm.call.partyStation = some h.telegram.source)
    (taken : h.taken = true) :
    (s.cm.call.state = .awaiting →
        heardClear freed h s = toIdle false (some (.cleared (sourceNumber h.telegram) c)) s)
      ∧ (s.cm.call.state = .opened →
        heardClear freed h s = toIdle (c = .normal) (some (.cleared (sourceNumber h.telegram) c)) s) := by
  constructor <;> intro state <;> simp [heardClear, cause, party, state, taken, not_groupCaller party]

/-- In CLEARING the party's CLEAR taken ends the call, and nothing else does (R92). -/
theorem heardClear_clearing {freed : Bool} {h : Handed} {s : State} {c : Cause}
    (cause : telegramCause h.telegram = some c) (state : s.cm.call.state = .clearing) :
    heardClear freed h s =
      if h.taken = true ∧ isGroupCaller s.cm.call = false ∧ s.cm.call.partyStation = some h.telegram.source then
        toIdle false none { s with lu := withdraw .clear s.lu }
      else s := by
  cases group : isGroupCaller s.cm.call with
  | true => simp [heardClear, cause, group, state]
  | false => by_cases party : s.cm.call.partyStation = some h.telegram.source <;> cases taken : h.taken <;>
      simp [heardClear, cause, group, state, party, taken]

/-! ### The end of an OPEN call (R95) -/

/-- What follows leaving OPEN on the way to IDLE is moves to PRINT (R95, R173, R175). -/
theorem printMoves_toIdle {filed : Bool} {n : Option Notice} {s : State} (state : s.cm.call.state = .opened) :
    PrintMoves (MayGo s.cl.config.keepPrinted) (storeFile (leaveOpen .idle filed s)) (storeFile (toIdle filed n s)) := by
  have eq : toIdle filed n s = tellIdle (finishCursor (noticeIf n (leaveOpen .idle filed s))) := by simp [toIdle, state]
  have left : (leaveOpen .idle filed s).cl = s.cl := (cl_of_callCore (callCore_leaveOpen .idle filed s)).1
  have told : (noticeIf n (leaveOpen .idle filed s)).cl = s.cl := (cl_of_callCore (callCore_noticeIf n _)).1.trans left
  have done : (finishCursor (noticeIf n (leaveOpen .idle filed s))).cl = s.cl :=
    (cl_of_callCore (callCore_finishCursor _)).1.trans told
  rw [eq]
  refine ((printMoves_noticeIf n _).trans (printMoves_finishCursor ?_)).trans (printMoves_tellIdle ?_).mayGo
  · rw [told]
  · rw [done]

/-- The call's end, with the settling of the command: what stands is what the way to IDLE left. -/
theorem toIdle_settled (filed : Bool) (n : Option Notice) (s : State) :
    ∃ m, settle (toIdle filed n s) = { toIdle filed n s with mt := m } :=
  settle_of_not_open (by rw [toIdle_state]; decide)

/-- Outside OPEN, the way to IDLE with an entry of the list withdrawn leaves the rest of the LU (R92, R95). -/
theorem toIdle_withdrawn (k : Kind) {s : State} (state : s.cm.call.state ≠ .opened) :
    let t := settle (toIdle false none { s with lu := withdraw k s.lu })
    t.cm.call.state = .idle ∧ t.lu.control = listWithdrawn k s ∧ t.lu.slot = s.lu.slot := by
  obtain ⟨m, settled⟩ := toIdle_settled false none { s with lu := withdraw k s.lu }
  obtain ⟨_, lu, _⟩ := toIdle_of_not_open (s := { s with lu := withdraw k s.lu }) false none state
  dsimp only
  rw [settled]
  exact ⟨toIdle_state _ _ _, (congrArg LineUnit.control lu).trans (withdraw_list k s), (congrArg LineUnit.slot lu).trans rfl⟩

/-- What the hand-on of the REFUSE or CLEAR that ends an attempt or a call comes to: the way to IDLE (R75, R91). -/
theorem telegramHandOn_ends {s : State} {f : Framed} {k : Kind} {slot : SlotUnits} (holds : holdsTaken s k f)
    (whole : unbroken (turnUnits slot) s) (party : s.cm.call.partyStation = some f.telegram.source)
    (ends : k = .refuse ∧ s.cm.call.state = .awaiting
      ∨ k = .clear ∧ (s.cm.call.state = .awaiting ∨ s.cm.call.state = .opened)) :
    ∃ filed n, exec (.telegramHandOn slot) s = .next (settle (toIdle filed n (handedBase false slot k f s)))
      ∧ (s.cm.call.state = .opened → filed = decide (k = .clear ∧ telegramCause f.telegram = some .normal)) := by
  obtain ⟨receive, kind, taken, joined, other⟩ := holds
  have heard := execTelegramHandOn_heard receive kind joined other whole
  dsimp only at heard
  rw [exec, heard]
  have idle (filed : Bool) (n : Option Notice) (u : State) : holdsView (toIdle filed n u).cm.call.state = false := by
    rw [toIdle_state]; rfl
  rcases ends with ⟨rfl, awaiting⟩ | ⟨rfl, awaiting | opened⟩
  · obtain ⟨r, reason⟩ := reason_of_refuse kind
    refine ⟨false, some (.refused (sourceNumber f.telegram) r), ?_, fun h => by rw [awaiting] at h; cases h⟩
    simp only [cmHandOn, Bool.false_eq_true, if_false]
    rw [heardRefuse_awaiting (by exact reason) (by exact party) (by exact awaiting) (by exact taken),
      endFreed_of_state (idle _ _ _)]
    rfl
  · obtain ⟨c, cause⟩ := cause_of_clear kind
    refine ⟨false, some (.cleared (sourceNumber f.telegram) c), ?_, fun h => by rw [awaiting] at h; cases h⟩
    simp only [cmHandOn, Bool.false_eq_true, if_false]
    rw [(heardClear_party (by exact cause) (by exact party) (by exact taken)).1 (by exact awaiting),
      endFreed_of_state (idle _ _ _)]
    rfl
  · obtain ⟨c, cause⟩ := cause_of_clear kind
    refine ⟨c = .normal, some (.cleared (sourceNumber f.telegram) c), ?_, fun _ => by simp [cause]⟩
    simp only [cmHandOn, Bool.false_eq_true, if_false]
    rw [(heardClear_party (by exact cause) (by exact party) (by exact taken)).2 (by exact opened),
      endFreed_of_state (idle _ _ _)]
    rfl

/-- Settles O34. -/
theorem refuseAndClearEndTheCall : Obligations.RefuseAndClearEndTheCall := by
  refine ⟨fun s f k slot holds whole party ends => ?_, fun s f slot receive kind joined other whole state => ?_⟩
  · obtain ⟨filed, n, handed, cause⟩ := telegramHandOn_ends holds whole party ends
    obtain ⟨m, settled⟩ := toIdle_settled filed n (handedBase false slot k f s)
    rw [settled] at handed
    refine ⟨_, handed, toIdle_state _ _ _, fun opened => ?_⟩
    obtain ⟨_, holdSet, heldByMe, _, link, timer, _, _, _, send, print, punch, edit⟩ :=
      toIdle_of_open (s := handedBase false slot k f s) filed n opened
    have follow := printMoves_toIdle (s := handedBase false slot k f s) (filed := filed) (n := n) opened
    refine ⟨heldByMe, holdSet, by rw [send]; rfl, by rw [send], timer, edit, link, print, punch,
      fun order x mem linked => ?_, fun one => ?_⟩
    · obtain ⟨slots, _⟩ := order
      obtain ⟨closed, stays⟩ := record_after_leaveOpen (by decide) follow slots mem linked
      refine ⟨fun y inside same => ?_, fun keep => stays fun gone => ?_⟩
      · obtain ⟨state, completed, number, chain⟩ := closed y inside same
        exact ⟨by simpa [cause opened] using state, completed, number, chain⟩
      · exact Bool.false_ne_true (gone.symm.trans keep)
    · have holder := blocksHaveOneHolder_iff.mp one
      obtain ⟨others, first⟩ := follow.cells (oneHolder_leaveOpen (by decide) holder)
      obtain ⟨noMark, endPunch, endPrint⟩ := cells_leaveOpen (c := .idle) filed
        (s := handedBase false slot k f s) (by decide) holder
      refine ⟨fun none => (others .punch (by decide)).trans (noMark none), fun n' mark zero fits =>
        (others .punch (by decide)).trans (endPunch n' mark zero fits), fun n' mark zero empty fits => ?_⟩
      rw [← show _ = s.cs.queueCells .print ++ _ from endPrint n' mark zero empty fits]
      exact first
  · obtain ⟨c, cause⟩ := cause_of_clear kind
    have heard := execTelegramHandOn_heard receive kind joined other whole
    dsimp only at heard
    simp only [cmHandOn, Bool.false_eq_true, if_false] at heard
    rw [heardClear_clearing (by exact cause) (by exact state)] at heard
    intro ends
    refine ⟨fun party => ?_, fun apart => ?_⟩
    · rw [if_pos (by exact party), endFreed_of_state (by rw [toIdle_state]; rfl)] at heard
      exact ⟨_, heard, toIdle_withdrawn .clear (s := handedBase false slot .clear f s) (by
        show s.cm.call.state ≠ .opened
        rw [state]; decide)⟩
    · rw [if_neg (by exact apart), endFreed_of_state (by show holdsView s.cm.call.state = false; rw [state]; rfl)] at heard
      exact heard

end Sys2Proof.Machine
end

section
/-!
Restart, block by block (R30, R54, R97, R116, R135, R151, R178, R185).
-/

namespace Sys2Proof.Machine

/-! ### What the Answering Unit's tests leave (R172, R174, R175) -/

/-- The clock, the next number, the ring state, the auto-answered flag and the pending attendance are as they were; a source
that is QUEUE stays so, and so does work in hand that came from QUEUE. -/
structure TestsKeep (s t : State) : Prop where
  clock : t.au.clock = s.au.clock
  nextNumber : t.au.nextNumber = s.au.nextNumber
  ring : t.au.ring = s.au.ring
  autoAnswered : t.au.autoAnswered = s.au.autoAnswered
  pending : t.au.pending = s.au.pending
  source : s.pu.source = .queue → t.pu.source = .queue
  work : (∀ w, s.pu.work = some w → w.source = .queue) → t.pu.work = s.pu.work

namespace TestsKeep

theorem refl (s : State) : TestsKeep s s := ⟨rfl, rfl, rfl, rfl, rfl, id, fun _ => rfl⟩

theorem trans {s t u : State} (h : TestsKeep s t) (k : TestsKeep t u) : TestsKeep s u where
  clock := k.clock.trans h.clock
  nextNumber := k.nextNumber.trans h.nextNumber
  ring := k.ring.trans h.ring
  autoAnswered := k.autoAnswered.trans h.autoAnswered
  pending := k.pending.trans h.pending
  source := fun source => k.source (h.source source)
  work := fun queued => (k.work (by rw [h.work queued]; exact queued)).trans (h.work queued)

theorem of_storeCore {s t : State} (h : storeCore t = storeCore s) : TestsKeep s t := by
  obtain ⟨_, pu, _, _, _, _, _, _, ring, _, pending, _, _, autoAnswered, clock, nextNumber⟩ := rest_of_storeCore h
  exact ⟨clock, nextNumber, ring, autoAnswered, pending, fun source => by rw [pu]; exact source, fun _ => by rw [pu]⟩

theorem updateRecord (slot : Fin 24) (f : FileRecord → FileRecord) (s : State) : TestsKeep s (updateRecord slot f s) :=
  ⟨rfl, rfl, rfl, rfl, rfl, id, fun _ => rfl⟩

theorem freeCursor (ended : Bool) (s : State) : TestsKeep s (freeCursor ended s) := by
  refine ⟨rfl, rfl, rfl, rfl, rfl, fun _ => rfl, fun queued => ?_⟩
  unfold Machine.freeCursor
  cases work : s.pu.work with
  | none => rfl
  | some w => simp [queued w work]

theorem abandonCursor (s : State) : TestsKeep s (abandonCursor s) := by
  unfold Machine.abandonCursor
  split
  · exact refl s
  · exact freeCursor false s

theorem dropPrinted (r : FileRecord) (s : State) : TestsKeep s (dropPrinted r s) := by
  unfold Machine.dropPrinted
  split
  · exact refl s
  · exact ⟨rfl, rfl, rfl, rfl, rfl, id, fun _ => rfl⟩

theorem fileChange (was : Bool) (s : State) : TestsKeep s (fileChange was s) := by
  unfold Machine.fileChange
  split
  · exact of_storeCore (storeCore_flowTest s)
  · exact refl s

theorem endCursor (s : State) : TestsKeep s (endCursor s) := by
  unfold Machine.endCursor
  split
  · exact refl s
  · split
    · exact freeCursor true s
    · refine .trans ?_ (fileChange _ _)
      refine .trans ?_ (of_storeCore (storeCore_signal _ _ _))
      refine .trans ?_ (dropPrinted _ _)
      refine .trans ?_ (freeCursor true _)
      exact (updateRecord _ _ s).trans (of_storeCore (storeCore_placeNotice _ _))

theorem tryHeader (s : State) : TestsKeep s (tryHeader s) := by
  unfold Machine.tryHeader
  split
  · exact refl s
  · split
    · split
      · exact ⟨rfl, rfl, rfl, rfl, rfl, id, fun _ => rfl⟩
      · split
        · rename_i t passed
          have appended := of_storeCore (storeCore_appendRun passed)
          exact ⟨appended.clock, appended.nextNumber, appended.ring, appended.autoAnswered, appended.pending,
            appended.source, appended.work⟩
        · exact ⟨rfl, rfl, rfl, rfl, rfl, id, fun _ => rfl⟩
    · exact refl s

theorem startReplay (r : FileRecord) (s : State) : TestsKeep s (startReplay r s) := by
  have begun : TestsKeep s { Machine.updateRecord r.slot (fun x => { x with printStarted := true }) s with
      au.cursor := some ⟨r.slot, 0, .replay, true, r.printStarted⟩ } := ⟨rfl, rfl, rfl, rfl, rfl, id, fun _ => rfl⟩
  unfold Machine.startReplay
  dsimp only
  split
  · exact (begun.trans (tryHeader _)).trans (endCursor _)
  · exact begun.trans (tryHeader _)

theorem followTest (s : State) : TestsKeep s (followTest s) := by
  unfold Machine.followTest
  split
  · exact ⟨rfl, rfl, rfl, rfl, rfl, id, fun _ => rfl⟩
  · exact refl s

theorem auTestsFor (n : Nat) (s : State) : TestsKeep s (auTestsFor n s) := by
  induction n generalizing s with
  | zero => exact followTest s
  | succ n ih =>
    unfold Machine.auTestsFor
    dsimp only
    split
    · split
      · exact ((followTest s).trans (startReplay _ _)).trans (ih _)
      · exact (followTest s).trans (startReplay _ _)
    · exact followTest s

theorem auTests (s : State) : TestsKeep s (auTests s) := auTestsFor _ s

theorem becomeAttendance (target : Attendance) (s : State) : TestsKeep s (becomeAttendance target s) := by
  unfold Machine.becomeAttendance
  split
  · exact refl s
  · have set : TestsKeep s { s with
        au.attendance := target
        au.attendTimer := if target = .attended then attendTimerFull s else none } :=
      ⟨rfl, rfl, rfl, rfl, rfl, id, fun _ => rfl⟩
    exact set.trans (auTests _)

/-- After the AU is told of IDLE, nothing is pending and the call is not auto-answered (R160, R167). -/
theorem tellIdle (s : State) :
    TestsKeep { s with au.autoAnswered := false, au.pending := none } (tellIdle s) := by
  unfold Machine.tellIdle applyPending
  refine .trans ?_ (auTests _)
  dsimp only
  split
  · exact becomeAttendance _ _
  · rename_i none
    exact ⟨rfl, rfl, rfl, rfl, none, id, fun _ => rfl⟩

end TestsKeep

/-! ### The call's end at restart (R30, R95, R97) -/

/-- Before its file record closes, leaving OPEN keeps all but what the store's operations change. -/
theorem storeCore_ends (c : CallState) (s : State) :
    storeCore (appendEnd .punch (appendEnd .print (beforeEnds c s))) =
      storeCore { stopSendRun (clearHolds (withdrawOpen (setCallState c s))) with ku.editStack := [] } := by
  unfold beforeEnds
  rw [storeCore_appendEnd, storeCore_appendEnd, storeCore_flushSend, storeCore_discardEdit]
  split
  · rename_i empty
    exact congrArg (fun k : List Resolved =>
      storeCore { stopSendRun (clearHolds (withdrawOpen (setCallState c s))) with ku.editStack := k }) empty
  · rfl

/-- The printer, and the AU but for its records, on leaving OPEN for IDLE (R95, R165). -/
theorem leaveOpen_rest (filed : Bool) (s : State) :
    let t := leaveOpen .idle filed s
    t.pu = s.pu ∧ t.au.cursor = s.au.cursor ∧ t.au.ring = .none ∧ t.au.pending = s.au.pending
      ∧ t.au.clock = s.au.clock ∧ t.au.nextNumber = s.au.nextNumber := by
  obtain ⟨_, pu, _, _, _, _, _, cursor, ring, _, pending, _, _, _, clock, nextNumber⟩ :=
    rest_of_storeCore (storeCore_ends .idle s)
  have last (x : State) : (closeFile filed x).pu = x.pu ∧ (closeFile filed x).au.cursor = x.au.cursor
      ∧ (closeFile filed x).au.ring = x.au.ring ∧ (closeFile filed x).au.pending = x.au.pending
      ∧ (closeFile filed x).au.clock = x.au.clock ∧ (closeFile filed x).au.nextNumber = x.au.nextNumber := by
    unfold closeFile
    split <;> exact ⟨rfl, rfl, rfl, rfl, rfl, rfl⟩
  have first : ∀ u, u = stopSendRun (clearHolds (withdrawOpen (setCallState .idle s))) →
      u.pu = s.pu ∧ u.au = (setCallState .idle s).au := by
    rintro u rfl
    obtain ⟨_, _, _, au, _⟩ := stopSendRun_keeps (clearHolds (withdrawOpen (setCallState .idle s)))
    refine ⟨?_, au⟩
    unfold stopSendRun endRun
    split
    · split
      · split
        · split <;> rfl
        · rfl
      · rfl
    · rfl
  obtain ⟨firstPu, firstAu⟩ := first _ rfl
  obtain ⟨lastPu, lastCursor, lastRing, lastPending, lastClock, lastNumber⟩ :=
    last (appendEnd .punch (appendEnd .print (beforeEnds .idle s)))
  dsimp only at pu cursor ring pending clock nextNumber
  rw [firstAu] at cursor ring pending clock nextNumber
  dsimp only
  rw [leaveOpen_eq, lastPu, lastCursor, lastRing, lastPending, lastClock, lastNumber]
  exact ⟨pu.trans firstPu, cursor, ring, pending, clock, nextNumber⟩

/-- The LU with its attempt, list and place empty has nothing to withdraw. -/
theorem withdraw_empty {l : LineUnit} (slot : l.slot = none) (control : l.control = []) (text : l.text = none) :
    withdraw .brk (withdraw .go (withdraw .hold (withdrawText l))) = l := by
  cases l
  cases slot
  cases control
  cases text
  rfl

/-- What the restart of the CM leaves, where the LU has nothing in hand (R30, R97). -/
theorem cmRestart_spec {s : State} (slot : s.lu.slot = none) (control : s.lu.control = []) (text : s.lu.text = none) :
    let t := cmRestart s
    t.cm.call.state = .idle ∧ t.cm.view = LineView.reset ∧ t.cm.sendTimer = .stopped
      ∧ t.cm.breakTimer = s.cm.breakTimer ∧ t.lu = s.lu ∧ t.pu = s.pu
      ∧ t.cs.send.cellCount = 0 ∧ t.cs.send.inFlight = 0
      ∧ t.au.cursor = s.au.cursor ∧ t.au.ring = .none ∧ t.au.pending = s.au.pending ∧ t.au.clock = s.au.clock
      ∧ t.au.nextNumber = s.au.nextNumber ∧ callCore t = callCore s := by
  unfold cmRestart
  by_cases state : s.cm.call.state = .opened
  · obtain ⟨idle, _, _, _, _, timer, _, breaks, lu, send, _⟩ := leaveOpen_spec (c := .idle) false s (by decide)
    obtain ⟨pu, cursor, ring, pending, clock, nextNumber⟩ := leaveOpen_rest false s
    rw [withdraw_empty slot control text] at lu
    have core := callCore_leaveOpen .idle false s
    simp only [if_pos state]
    generalize leaveOpen .idle false s = x at *
    exact ⟨idle, rfl, timer, breaks, lu, pu, by show x.cs.send.cellCount = 0; rw [send]; rfl,
      by show x.cs.send.inFlight = 0; rw [send], cursor, ring, pending, clock, nextNumber, core⟩
  · have off : (setCallState .idle s).cm.call.state ≠ .opened := by
      show CallState.idle ≠ .opened
      decide
    obtain ⟨cm, lu⟩ := flushSend_of_not_open off
    obtain ⟨send, _⟩ := flushSend_send (setCallState .idle s)
    obtain ⟨_, pu, _, _, _, _, _, cursor, ring, _, pending, _, _, _, clock, nextNumber⟩ :=
      rest_of_storeCore (storeCore_flushSend (setCallState .idle s))
    have core := callCore_flushSend (setCallState .idle s)
    simp only [if_neg state]
    generalize flushSend (setCallState .idle s) = x at *
    exact ⟨congrArg (fun m => m.call.state) cm, rfl, congrArg CallManager.sendTimer cm, (congrArg CallManager.breakTimer cm).trans rfl,
      lu, pu, by show x.cs.send.cellCount = 0; rw [send]; rfl, by show x.cs.send.inFlight = 0; rw [send], cursor, ring,
      pending, clock, nextNumber, core.trans (callCore_setCallState .idle s)⟩

/-! ### The other blocks before the line's (R116, R135, R151, R178) -/

/-- Restart but for what the LU sends and the work in hand that goes on. -/
def restartBase (lines : PresenceLines) (s : State) : State :=
  auRestart (tapeRestart lines (kuRestart (cmRestart (luEmpty (setScan restartPosition ⟨.down, 0⟩ (pressReport s))))))

theorem restartAll_eq (lines : PresenceLines) (s : State) :
    restartAll lines s = nextPunchOp (nextPrintOp (luRestart (restartParty s) (restartBase lines s))) := rfl

/-- The keyboard emptied: the CM and the LU outside OPEN, the AU and the printer are as they were (R116). -/
theorem kuRestart_spec {s : State} (state : s.cm.call.state ≠ .opened) :
    SameLine (kuRestart s) s ∧ (kuRestart s).ku.editStack = [] ∧ (kuRestart s).pu = s.pu
      ∧ (kuRestart s).au.cursor = s.au.cursor ∧ TestsKeep s (kuRestart s) ∧ queueCore (kuRestart s) = queueCore s
      ∧ (kuRestart s).cl = s.cl
      ∧ ∀ may, PrintMoves may (storeFile s) (storeFile (kuRestart s)) := by
  unfold kuRestart
  generalize emptied : ({ s with ku.fifo := [], ku.headWaiting := false, ku.retryDue := false, ku.dial := [] } : State) = x
  have from_x : x.cm = s.cm ∧ x.lu = s.lu ∧ x.pu = s.pu ∧ x.au = s.au ∧ x.cs = s.cs ∧ x.cl = s.cl := by
    subst emptied; exact ⟨rfl, rfl, rfl, rfl, rfl, rfl⟩
  obtain ⟨cm, lu, pu, au, cs, cl⟩ := from_x
  have keep : TestsKeep s x := ⟨by rw [au], by rw [au], by rw [au], by rw [au], by rw [au], by rw [pu]; exact id,
    fun _ => by rw [pu]⟩
  have queues : queueCore x = queueCore s := by rw [queueCore, cs, queueCore]
  have held : storeFile x = storeFile s := by rw [storeFile, cs, au, storeFile]
  have moves (may) : PrintMoves may (storeFile s) (storeFile (discardEdit x)) := held ▸ printMoves_discardEdit x
  have closed : (discardEdit x).cl = s.cl := (cl_of_callCore (callCore_discardEdit x)).1.trans cl
  clear emptied held
  unfold discardEdit at *
  split_ifs at * with empty
  · exact ⟨⟨cm, lu⟩, empty, pu, by rw [au], keep, queues, closed, moves⟩
  · have core := storeCore_notice .lineDiscarded { x with ku.editStack := [] }
    obtain ⟨edit, pu', _, _, _, _, _, cursor, _⟩ := rest_of_storeCore core
    obtain ⟨cm', lu'⟩ := notice_of_not_open (n := .lineDiscarded) (s := { x with ku.editStack := [] })
      (by show x.cm.call.state ≠ .opened; rw [cm]; exact state)
    have same : TestsKeep x { x with ku.editStack := [] } := ⟨rfl, rfl, rfl, rfl, rfl, id, fun _ => rfl⟩
    exact ⟨⟨cm'.trans cm, lu'.trans lu⟩, edit, pu'.trans pu, cursor.trans (by rw [← au]),
      (keep.trans same).trans (TestsKeep.of_storeCore core), (queueCore_notice _ _).trans queues, closed, moves⟩

/-- The reader run ended and presence sampled again (R119, R137, R143, R151). -/
theorem tapeRestart_spec (lines : PresenceLines) (s : State) :
    let t := tapeRestart lines s
    t.cs = s.cs ∧ t.lu = s.lu ∧ t.au = s.au ∧ t.ku = s.ku ∧ t.cl = s.cl ∧ t.pu = { s.pu with present := isHigh lines.printer }
      ∧ t.cm = { s.cm with call.readerLink := t.cm.call.readerLink } ∧ t.tu.run = none := by
  unfold tapeRestart
  cases run : s.tu.run with
  | none => rw [endRun_of_none (by exact run)]; exact ⟨rfl, rfl, rfl, rfl, rfl, rfl, rfl, run⟩
  | some r => rw [endRun_of_some (by exact run)]; exact ⟨rfl, rfl, rfl, rfl, rfl, rfl, rfl, rfl⟩

/-- The AU's part: the cursor abandoned, what is pending applied, the tests made (R176, R178). -/
theorem auRestart_spec {s : State} (state : s.cm.call.state ≠ .opened) :
    SameLine (auRestart s) s ∧ fileCore (auRestart s) = fileCore s ∧ queueCore (auRestart s) = queueCore s
      ∧ TestsKeep { s with au.autoAnswered := false, au.pending := none } (auRestart s)
      ∧ (s.au.cursor ≠ none → (auRestart s).pu.source = .queue)
      ∧ PrintMoves (MayGoEmpty s.cl.config.keepPrinted) (storeFile s) (storeFile (auRestart s)) := by
  have abandoned := SameLine.abandonCursor (s := s)
  have kept := TestsKeep.abandonCursor s
  have told := TestsKeep.tellIdle (abandonCursor s)
  unfold auRestart
  refine ⟨(SameLine.tellIdle (abandoned.notOpen state)).trans abandoned, by simp, by simp, ?_, fun cursor => ?_, ?_⟩
  · have both : TestsKeep { s with au.autoAnswered := false, au.pending := none }
        { abandonCursor s with au.autoAnswered := false, au.pending := none } :=
      ⟨kept.clock, kept.nextNumber, kept.ring, rfl, rfl, kept.source, kept.work⟩
    exact both.trans told
  · refine told.source ?_
    show (abandonCursor s).pu.source = .queue
    unfold abandonCursor
    split
    · rename_i none; exact absurd none cursor
    · rfl
  · have moves := printMoves_tellIdle (s := abandonCursor s) rfl
    rw [storeFile_abandonCursor, (cl_of_callCore (callCore_abandonCursor s)).1] at moves
    exact moves

/-! ### The blocks together -/

/-- The state whose `callCore` restart leaves, up to what the LU sends. -/
def restartBlank (lines : PresenceLines) (s : State) : State :=
  { s with
    lu.slot := none
    lu.receive := .hunting
    lu.ackRead := none
    lu.restartClear := false
    ku.scan := s.ku.scan.set 45 ⟨.down, 0⟩
    ku.fifo := []
    ku.headWaiting := false
    ku.dial := []
    pu.present := isHigh lines.printer
    tu.punchPresent := isHigh lines.punch
    tu.readerPresent := isHigh lines.reader }

theorem callCore_restartBase (lines : PresenceLines) (s : State) :
    callCore (restartBase lines s) = callCore (restartBlank lines s) := by
  unfold restartBase auRestart tapeRestart kuRestart
  rw [callCore_tellIdle, callCore_abandonCursor, callCore_endRun]
  generalize first : luEmpty (setScan restartPosition ⟨.down, 0⟩ (pressReport s)) = x
  have left : callCore (cmRestart x) = callCore x := by
    unfold cmRestart
    split
    · exact callCore_leaveOpen .idle false x
    · exact callCore_flushSend (setCallState .idle x)
  have emptied := callCore_discardEdit { cmRestart x with
    ku.fifo := [], ku.headWaiting := false, ku.retryDue := false, ku.dial := [] }
  have keys := emptied.trans (congrArg (fun y : State => { y with ku.fifo := [], ku.headWaiting := false, ku.dial := [] }) left)
  subst first
  exact congrArg (fun y : State => { y with
    pu.present := isHigh lines.printer
    tu.punchPresent := isHigh lines.punch
    tu.readerPresent := isHigh lines.reader }) keys

/-- What restart leaves before the LU sends, where the CM, the queues, the AU and the printer are concerned. -/
theorem restartBase_spec (lines : PresenceLines) (s : State) :
    let t := restartBase lines s
    t.cm.call.state = .idle ∧ t.cm.view = LineView.reset ∧ t.cm.sendTimer = .stopped
      ∧ t.cm.breakTimer = s.cm.breakTimer ∧ t.cs.send.cellCount = 0 ∧ t.cs.send.inFlight = 0
      ∧ t.lu = { s.lu with
          slot := none, receive := .hunting, ackRead := none, control := [], text := none, restartClear := false }
      ∧ t.ku.editStack = [] ∧ t.tu.run = none
      ∧ (s.au.cursor ≠ none → t.pu.source = .queue)
      ∧ t.pu = { s.pu with present := isHigh lines.printer, source := t.pu.source, work := t.pu.work }
      ∧ ((∀ w, s.pu.work = some w → w.source = .queue) → t.pu.work = s.pu.work)
      ∧ t.au.clock = s.au.clock ∧ t.au.nextNumber = s.au.nextNumber ∧ t.au.ring = .none ∧ t.au.autoAnswered = false
      ∧ t.au.pending = none := by
  unfold restartBase
  generalize first : luEmpty (setScan restartPosition ⟨.down, 0⟩ (pressReport s)) = x
  have blank : x.lu = { s.lu with
        slot := none, receive := .hunting, ackRead := none, control := [], text := none, restartClear := false }
      ∧ x.pu = s.pu ∧ x.au.cursor = s.au.cursor ∧ x.au.clock = s.au.clock ∧ x.au.nextNumber = s.au.nextNumber
      ∧ x.cm = s.cm := by
    subst first; exact ⟨rfl, rfl, rfl, rfl, rfl, rfl⟩
  clear first
  obtain ⟨lu0, pu0, cursor0, clock0, number0, cm0⟩ := blank
  obtain ⟨state1, view1, timer1, break1, lu1, pu1, cells1, flight1, cursor1, ring1, _, clock1, number1, _⟩ :=
    cmRestart_spec (s := x) (by rw [lu0]) (by rw [lu0]) (by rw [lu0])
  generalize cmRestart x = y at *
  have off : y.cm.call.state ≠ .opened := by rw [state1]; decide
  obtain ⟨⟨cm2, lu2⟩, edit2, pu2, cursor2, keep2, queue2, _, _⟩ := kuRestart_spec off
  generalize kuRestart y = z at *
  obtain ⟨cs3, lu3, au3, ku3, _, pu3, cm3, run3⟩ := tapeRestart_spec lines z
  generalize tapeRestart lines z = u at *
  have off3 : u.cm.call.state ≠ .opened := by rw [cm3, cm2]; exact off
  obtain ⟨⟨cm4, lu4⟩, core4, queue4, keep4, source4, _⟩ := auRestart_spec off3
  obtain ⟨_, _, edit4, run4, _⟩ := rest_of_fileCore core4
  have pu4 : (auRestart u).pu = { u.pu with source := (auRestart u).pu.source, work := (auRestart u).pu.work } := by
    have := congrArg State.pu core4
    simp only [fileCore, PrintUnit.mk.injEq] at this
    rw [PrintUnit.mk.injEq]
    tauto
  generalize auRestart u = t at *
  have send : t.cs.send = y.cs.send := by
    have := congrArg Prod.fst (queue4.trans (by rw [queueCore, cs3, queueCore] : queueCore u = queueCore z))
    exact this.trans (congrArg Prod.fst queue2)
  dsimp only
  have aus : u.au.clock = s.au.clock ∧ u.au.nextNumber = s.au.nextNumber ∧ u.au.ring = .none
      ∧ (s.au.cursor ≠ none → u.au.cursor ≠ none) := by
    rw [au3]
    exact ⟨by rw [keep2.clock, clock1, clock0], by rw [keep2.nextNumber, number1, number0], by rw [keep2.ring, ring1],
      by rw [cursor2, cursor1, cursor0]; exact id⟩
  obtain ⟨clock, number, ring, cursor⟩ := aus
  have pu : u.pu = { s.pu with present := isHigh lines.printer } := by rw [pu3, pu2, pu1, pu0]
  refine ⟨by rw [cm4, cm3, cm2, state1], by rw [cm4, cm3, cm2, view1], by rw [cm4, cm3, cm2, timer1],
    by rw [cm4, cm3, cm2, break1, cm0], by rw [send, cells1], by rw [send, flight1], by rw [lu4, lu3, lu2, lu1, lu0],
    by rw [edit4, ku3, edit2], by rw [run4, run3], fun some => source4 (cursor some), ?_, fun queued => ?_,
    keep4.clock.trans clock, keep4.nextNumber.trans number, keep4.ring.trans ring, keep4.autoAnswered, keep4.pending⟩
  · rw [pu] at pu4; exact pu4
  · have := keep4.work (by show ∀ w, u.pu.work = some w → _; rw [pu]; exact queued)
    exact this.trans (by show u.pu.work = _; rw [pu])

/-! ### The work in hand that goes on (R121, R123, R136) -/

theorem nextPrintOp_rest (s : State) :
    let t := nextPrintOp s
    t.cs = s.cs ∧ t.lu = s.lu ∧ t.cm = s.cm ∧ t.au = s.au ∧ t.ku = s.ku ∧ t.tu = s.tu ∧ t.cl = s.cl
      ∧ t.pu.present = s.pu.present ∧ t.pu.paper = s.pu.paper ∧ t.pu.heatTimer = s.pu.heatTimer
      ∧ t.pu.source = s.pu.source := by
  have start (op : PrintOp) (x : State) : (startPrintOp op x).cs = x.cs ∧ (startPrintOp op x).lu = x.lu
      ∧ (startPrintOp op x).cm = x.cm ∧ (startPrintOp op x).au = x.au ∧ (startPrintOp op x).ku = x.ku
      ∧ (startPrintOp op x).tu = x.tu ∧ (startPrintOp op x).cl = x.cl ∧ (startPrintOp op x).pu.present = x.pu.present
      ∧ (startPrintOp op x).pu.paper = x.pu.paper ∧ (startPrintOp op x).pu.heatTimer = x.pu.heatTimer
      ∧ (startPrintOp op x).pu.source = x.pu.source := by
    cases op <;> exact ⟨rfl, rfl, rfl, rfl, rfl, rfl, rfl, rfl, rfl, rfl, rfl⟩
  dsimp only
  unfold nextPrintOp
  split
  · split
    · split
      · exact start _ _
      · exact ⟨rfl, rfl, rfl, rfl, rfl, rfl, rfl, rfl, rfl, rfl, rfl⟩
    · exact ⟨rfl, rfl, rfl, rfl, rfl, rfl, rfl, rfl, rfl, rfl, rfl⟩
  · exact ⟨rfl, rfl, rfl, rfl, rfl, rfl, rfl, rfl, rfl, rfl, rfl⟩

/-- Nothing starts where nothing is in hand, or an operation is in progress. -/
theorem nextPrintOp_waits {s : State} (waits : s.pu.work = none ∨ s.pu.op ≠ none) : nextPrintOp s = s := by
  unfold nextPrintOp
  split
  · rename_i w op work
    rcases waits with none | busy
    · rw [work] at none; cases none
    · exact absurd op busy
  · rfl

theorem nextPunchOp_rest (s : State) :
    let t := nextPunchOp s
    t.cs = s.cs ∧ t.lu = s.lu ∧ t.cm = s.cm ∧ t.au = s.au ∧ t.ku = s.ku ∧ t.pu = s.pu ∧ t.cl = s.cl
      ∧ t.tu.run = s.tu.run ∧ t.tu.tape = s.tu.tape ∧ t.tu.tapeIn = s.tu.tapeIn
      ∧ t.tu.punchPresent = s.tu.punchPresent ∧ t.tu.readerPresent = s.tu.readerPresent := by
  dsimp only
  unfold nextPunchOp
  split
  · split
    · split <;> exact ⟨rfl, rfl, rfl, rfl, rfl, rfl, rfl, rfl, rfl, rfl, rfl, rfl⟩
    · exact ⟨rfl, rfl, rfl, rfl, rfl, rfl, rfl, rfl, rfl, rfl, rfl, rfl⟩
  · exact ⟨rfl, rfl, rfl, rfl, rfl, rfl, rfl, rfl, rfl, rfl, rfl, rfl⟩

/-! ### All of restart -/

/-- Restart settles outside OPEN: what is left is `restartBase` with the LU's part, and the printer's and the punch's work in
hand that goes on. -/
theorem restartAll_settled (lines : PresenceLines) (s : State) :
    let t := settle (restartAll lines s)
    let b := restartBase lines s
    t.cs = b.cs ∧ t.cm = b.cm ∧ t.au = b.au ∧ t.ku = b.ku ∧ t.cl = b.cl ∧ t.lu = (luRestart (restartParty s) b).lu
      ∧ t.tu.run = b.tu.run ∧ t.tu.tape = b.tu.tape ∧ t.tu.tapeIn = b.tu.tapeIn
      ∧ t.tu.punchPresent = b.tu.punchPresent ∧ t.tu.readerPresent = b.tu.readerPresent
      ∧ t.pu.present = b.pu.present ∧ t.pu.paper = b.pu.paper ∧ t.pu.heatTimer = b.pu.heatTimer
      ∧ t.pu.source = b.pu.source ∧ (b.pu.work = none ∨ b.pu.op ≠ none → t.pu = b.pu) := by
  have idle : (restartBase lines s).cm.call.state = .idle := (restartBase_spec lines s).1
  rw [restartAll_eq]
  dsimp only
  generalize restartBase lines s = b at *
  have line : (luRestart (restartParty s) b).cs = b.cs ∧ (luRestart (restartParty s) b).cm = b.cm
      ∧ (luRestart (restartParty s) b).au = b.au ∧ (luRestart (restartParty s) b).ku = b.ku
      ∧ (luRestart (restartParty s) b).cl = b.cl ∧ (luRestart (restartParty s) b).tu = b.tu
      ∧ (luRestart (restartParty s) b).pu = b.pu := by
    cases restartParty s <;> exact ⟨rfl, rfl, rfl, rfl, rfl, rfl, rfl⟩
  obtain ⟨cs1, cm1, au1, ku1, cl1, tu1, pu1⟩ := line
  generalize luRestart (restartParty s) b = x at *
  obtain ⟨cs2, lu2, cm2, au2, ku2, tu2, cl2, present2, paper2, heat2, source2⟩ := nextPrintOp_rest x
  have waits2 : b.pu.work = none ∨ b.pu.op ≠ none → (nextPrintOp x).pu = b.pu := fun waits => by
    rw [nextPrintOp_waits (by rw [pu1]; exact waits), pu1]
  generalize nextPrintOp x = y at *
  obtain ⟨cs3, lu3, cm3, au3, ku3, pu3, cl3, run3, tape3, in3, punch3, reader3⟩ := nextPunchOp_rest y
  generalize nextPunchOp y = z at *
  obtain ⟨m, settled⟩ := settle_of_not_open (s := z) (by rw [cm3, cm2, cm1, idle]; decide)
  rw [settled]
  exact ⟨by rw [cs3, cs2, cs1], by rw [cm3, cm2, cm1], by rw [au3, au2, au1], by rw [ku3, ku2, ku1],
    by rw [cl3, cl2, cl1], by rw [lu3, lu2], by rw [run3, tu2, tu1], by rw [tape3, tu2, tu1], by rw [in3, tu2, tu1],
    by rw [punch3, tu2, tu1], by rw [reader3, tu2, tu1], by rw [pu3, present2, pu1], by rw [pu3, paper2, pu1],
    by rw [pu3, heat2, pu1], by rw [pu3, source2, pu1], fun waits => by rw [pu3, waits2 waits]⟩

/-! ### How restart leaves an OPEN call (R95, R170, R175, R178) -/

/-- The state the CM's restart begins from: the press reported, the position DOWN, the LU empty. -/
def restartBegun (s : State) : State := luEmpty (setScan restartPosition ⟨.down, 0⟩ (pressReport s))

/-- After leaving OPEN, restart makes moves to PRINT only; its records are those of the call's end, but for a replay that
finds one of no cell. -/
theorem restartBase_left (lines : PresenceLines) {s : State} (state : s.cm.call.state = .opened) :
    let t := restartBase lines s
    t.cm.call.fileLink = none ∧ t.cm.call.holdSet = [] ∧ t.cm.call.heldByMe = false
      ∧ t.cs.print.openMark = none ∧ t.cs.punch.openMark = none
      ∧ PrintMoves (MayGoEmpty s.cl.config.keepPrinted) (storeFile (leaveOpen .idle false (restartBegun s))) (storeFile t) := by
  unfold restartBase
  rw [show luEmpty (setScan restartPosition ⟨.down, 0⟩ (pressReport s)) = restartBegun s from rfl]
  obtain ⟨idle, holdSet, held, _, link, _, _, _, _, _, print, punch, _⟩ :=
    leaveOpen_spec (c := .idle) false (restartBegun s) (by decide)
  have closed : (leaveOpen .idle false (restartBegun s)).cl = s.cl :=
    (cl_of_callCore (callCore_leaveOpen .idle false (restartBegun s))).1
  have ends : cmRestart (restartBegun s) = freeView (leaveOpen .idle false (restartBegun s)) := by
    unfold cmRestart
    rw [if_pos (by exact state)]
  rw [ends]
  generalize leaveOpen .idle false (restartBegun s) = x at *
  have off : (freeView x).cm.call.state ≠ .opened := by
    show x.cm.call.state ≠ .opened
    rw [idle]; decide
  obtain ⟨⟨cm2, _⟩, _, _, _, _, queue2, cl2, moves2⟩ := kuRestart_spec off
  generalize kuRestart (freeView x) = z at *
  obtain ⟨cs3, _, au3, _, cl3, _, cm3, _⟩ := tapeRestart_spec lines z
  generalize tapeRestart lines z = u at *
  have off3 : u.cm.call.state ≠ .opened := by rw [cm3, cm2]; exact off
  obtain ⟨⟨cm4, _⟩, _, queue4, _, _, moves4⟩ := auRestart_spec off3
  generalize auRestart u = t at *
  have queues : queueCore t = queueCore x := by
    rw [queue4, queueCore, cs3]
    exact queue2
  simp only [queueCore, Prod.mk.injEq] at queues
  obtain ⟨_, punchQueue, _, printMark⟩ := queues
  have keep : u.cl.config.keepPrinted = s.cl.config.keepPrinted := by rw [cl3, cl2]; exact congrArg (·.config.keepPrinted) closed
  have held3 : storeFile u = storeFile z := by rw [storeFile, cs3, au3, storeFile]
  rw [keep, held3] at moves4
  have call : t.cm.call = { x.cm.call with readerLink := u.cm.call.readerLink } := by
    rw [cm4, cm3, cm2]
    rfl
  exact ⟨by rw [call]; exact link, by rw [call]; exact holdSet, by rw [call]; exact held, printMark.trans print,
    (congrArg Queue.openMark punchQueue).trans punch, (moves2 _).trans moves4⟩

/-! ### The units of a telegram that restart discards (R47) -/

/-- What the units read before the press leave of the call, its file and PUNCH: what they held (R47, R94). -/
structure CountedFrom (s x : State) : Prop where
  state : x.cm.call.state = s.cm.call.state
  link : x.cm.call.fileLink = s.cm.call.fileLink
  file : x.au.file = s.au.file
  clock : x.au.clock = s.au.clock
  loader : x.cl = s.cl
  scan : x.ku.scan = s.ku.scan
  punch : x.cs.punch = s.cs.punch
  held : OneHolder s.cs s.au.file → OneHolder x.cs x.au.file ∧ x.cs.queueCells .punch = s.cs.queueCells .punch

theorem countDiscarded_hunting {units : List Bool} {s : State} (hunting : s.lu.receive = .hunting) :
    countDiscarded units s = s := if_pos hunting

theorem countDiscarded_framing {units : List Bool} {s : State} (framing : s.lu.receive ≠ .hunting)
    (whole : unbroken (countedUnits s.lu.receive units) s) :
    countDiscarded units s =
      { s with
        lu.spaceLeft := spaceGoingOn (unitsSinceStart s.lu.receive units) s
        lu.spaceRun :=
          if markInSlot s.lu.receive units then 0
          else spaceRunThrough (countedUnits s.lu.receive units) s.lu.spaceRun } := by
  unfold countDiscarded
  dsimp only
  rw [if_neg framing, if_neg (by rw [breaksLine_eq_false whole]; decide)]
  rfl

/-- The line not broken, only the run of space and what is left of its last unit change. -/
theorem countDiscarded_unbroken {units : List Bool} {s : State}
    (whole : s.lu.receive ≠ .hunting → unbroken (countedUnits s.lu.receive units) s) :
    ∃ run left, countDiscarded units s = { s with lu := { s.lu with spaceRun := run, spaceLeft := left } }
      ∧ run =
        (match s.lu.receive with
        | .hunting => s.lu.spaceRun
        | .framing _ _ none => spaceRunThrough (countedUnits s.lu.receive units) s.lu.spaceRun
        | .framing _ _ (some f) =>
          if f.taken = false ∧ true ∈ (units.drop 2).take 2 then 0
          else spaceRunThrough (countedUnits s.lu.receive units) s.lu.spaceRun)
      ∧ left =
        (match s.lu.receive with
        | .hunting => s.lu.spaceLeft
        | .framing _ _ none => spaceGoingOn units s
        | .framing _ _ (some f) => spaceGoingOn (framedUnits f.telegram ++ units) s) := by
  by_cases hunting : s.lu.receive = .hunting
  · exact ⟨s.lu.spaceRun, s.lu.spaceLeft, countDiscarded_hunting hunting, by rw [hunting], by rw [hunting]⟩
  · refine ⟨_, _, countDiscarded_framing hunting (whole hunting), ?_, ?_⟩
    · cases receive : s.lu.receive with
      | hunting => exact absurd receive hunting
      | framing own w framed => cases framed <;> simp [markInSlot, countedUnits]
    · cases receive : s.lu.receive with
      | hunting => exact absurd receive hunting
      | framing own w framed => cases framed <;> rfl

theorem countDiscarded_broken {units : List Bool} {s : State} (framing : s.lu.receive ≠ .hunting)
    (broken : ¬ unbroken (countedUnits s.lu.receive units) s) :
    ∃ left, countDiscarded units s = lineBroken { s with lu.spaceLeft := left } := by
  have breaks : breaksLine (countedUnits s.lu.receive units) s = true := decide_eq_true (Nat.not_lt.mp broken)
  refine ⟨spaceGoingOn (unitsSinceStart s.lu.receive units) s, ?_⟩
  unfold countDiscarded
  dsimp only
  rw [if_neg framing, if_pos breaks]

/-- A line break leaves the call, the file and PUNCH, and starts the break timer (R47, R94). -/
theorem lineBroken_spec (s : State) :
    CountedFrom s (lineBroken s) ∧ (lineBroken s).lu.condition = .broken ∧ (lineBroken s).cm.breakTimer = some (sec 5) := by
  unfold lineBroken
  dsimp only
  generalize before : breakRestartClear s.lu _ = x
  have from_x : x.cm = { s.cm with breakTimer := some (sec 5) } ∧ x.cs = s.cs ∧ x.au = s.au ∧ x.cl = s.cl ∧ x.ku = s.ku
      ∧ x.lu.condition = .broken := by
    subst before
    unfold breakRestartClear
    split <;> exact ⟨rfl, rfl, rfl, rfl, rfl, rfl⟩
  obtain ⟨cm, cs, au, cl, ku, condition⟩ := from_x
  have core := storeCore_notice .lineBroken x
  have moves := printMoves_notice (may := fun _ => False) .lineBroken x
  obtain ⟨_, _, _, _, _, _, file, _, _, _, _, _, _, _, clock, _⟩ := rest_of_storeCore core
  have call {α : Type} (f : State → α) (hidden : ∀ u, f (storeCore u) = f u) : f (notice .lineBroken x) = f x := by
    rw [← hidden, core, hidden]
  refine ⟨⟨?_, ?_, file.trans (by rw [au]), clock.trans (by rw [au]), ?_, ?_, ?_, fun one => ?_⟩, ?_, ?_⟩
  · rw [call (fun u => u.cm.call.state) fun _ => rfl, cm]
  · rw [call (fun u => u.cm.call.fileLink) fun _ => rfl, cm]
  · rw [call State.cl fun _ => rfl, cl]
  · rw [call (fun u => u.ku.scan) fun _ => rfl, ku]
  · rw [← cs]; exact moves.queue (n := .punch) (by decide)
  · rw [← cs, ← au] at one
    obtain ⟨cells, _⟩ := moves.cells one
    exact ⟨moves.oneHolder one, (cells .punch (by decide)).trans (by rw [← cs]; rfl)⟩
  · rw [call (fun u => u.lu.condition) fun _ => rfl, condition]
  · rw [call (fun u => u.cm.breakTimer) fun _ => rfl, cm]

/-! ### The statement's parts -/

/-- What restart leaves of an OPEN call. -/
theorem restart_leaves (lines : PresenceLines) {s x : State} (counted : CountedFrom s x)
    (state : s.cm.call.state = .opened) :
    let t := settle (restartAll lines x)
    t.cm.call.fileLink = none ∧ t.cm.call.holdSet = [] ∧ t.cm.call.heldByMe = false
      ∧ t.cs.print.openMark = none ∧ t.cs.punch.openMark = none
      ∧ (fileInOrder s → ∀ r ∈ s.au.file, s.cm.call.fileLink = some r.slot →
          (∀ y ∈ t.au.file, y.slot = r.slot →
              y.state = .cut ∧ y.completedAt = some s.au.clock ∧ y.number = r.number ∧ y.chain = r.chain)
            ∧ (s.cl.config.keepPrinted = true ∨ r.chain.count ≠ 0 → ∃ y ∈ t.au.file, y.slot = r.slot))
      ∧ (blocksHaveOneHolder s →
          (s.cs.punch.openMark = none → t.cs.queueCells .punch = s.cs.queueCells .punch)
            ∧ ∀ n, s.cs.punch.openMark = some n → s.cs.punch.blocksNeeded [.boundary .finish n] = 0 →
                s.cs.punch.blockCount ≤ s.cs.punch.limit →
                t.cs.queueCells .punch = s.cs.queueCells .punch ++ [.boundary .finish n]) := by
  obtain ⟨cs, cm, au, _⟩ := restartAll_settled lines x
  obtain ⟨link, holdSet, held, print, punch, moves⟩ := restartBase_left lines (counted.state.trans state)
  dsimp only
  rw [cs, cm, au]
  refine ⟨link, holdSet, held, print, punch, fun order r mem linked => ?_, fun one => ?_⟩
  · obtain ⟨slots, _⟩ := order
    rw [← counted.file] at slots mem
    rw [← counted.link] at linked
    obtain ⟨closed, stays⟩ := record_after_leaveOpen (s := restartBegun x) (by decide) moves slots mem linked
    refine ⟨fun y inside same => ?_, fun kept => stays fun gone => ?_⟩
    · obtain ⟨cut, completed, number, chain⟩ := closed y inside same
      exact ⟨cut, completed.trans (congrArg some counted.clock), number, chain⟩
    · obtain ⟨off, empty⟩ := gone
      rw [counted.loader] at off
      rcases kept with on | cells
      · exact Bool.false_ne_true (off.symm.trans on)
      · exact cells empty
  · obtain ⟨holder, cells⟩ := counted.held (blocksHaveOneHolder_iff.mp one)
    obtain ⟨others, _⟩ := moves.cells (oneHolder_leaveOpen (s := restartBegun x) (by decide) holder)
    obtain ⟨noMark, ends, _⟩ := cells_leaveOpen (c := .idle) false (s := restartBegun x) (by decide) holder
    have last := others .punch (by decide)
    have queue : (restartBegun x).cs.punch = s.cs.punch := counted.punch
    have before : (restartBegun x).cs.queueCells .punch = s.cs.queueCells .punch := cells
    rw [queue, before] at noMark ends
    exact ⟨fun none => last.trans (noMark none), fun n mark zero fits => last.trans (ends n mark zero fits)⟩

/-- The LU after restart: nothing in hand, but for the restart CLEAR where there is a party to send it to (R54, R97). -/
theorem restart_line (lines : PresenceLines) (s : State) :
    let l := (settle (restartAll lines s)).lu
    l.slot = none ∧ l.text = none ∧ l.condition = s.lu.condition ∧ l.spaceRun = s.lu.spaceRun
      ∧ l.spaceLeft = s.lu.spaceLeft ∧ l.receive = .hunting
      ∧ ((s.cm.call.state = .opened ∨ s.cm.call.state = .awaiting) ∧ s.lu.joinState = .joined ∧ s.lu.condition = .clear →
          l.joinState = .joined ∧ l.restartClear = true
            ∧ l.control = [⟨⟨.clear, s.cm.call.partyAddr, [4], .cmNoOutcome, 0⟩, 0, 0, .ready, false, none⟩])
      ∧ (¬ ((s.cm.call.state = .opened ∨ s.cm.call.state = .awaiting) ∧ s.lu.joinState = .joined
            ∧ s.lu.condition = .clear) →
          l.joinState = .listen ∧ l.control = [] ∧ l.quiet = 0 ∧ l.listenWindow = some (sec 30)
            ∧ l.restartClear = false) := by
  obtain ⟨_, _, _, _, _, line, _⟩ := restartAll_settled lines s
  obtain ⟨_, _, _, _, _, _, lu, _⟩ := restartBase_spec lines s
  dsimp only
  rw [line]
  generalize restartBase lines s = b at *
  by_cases party : (s.cm.call.state = .opened ∨ s.cm.call.state = .awaiting) ∧ s.lu.joinState = .joined
      ∧ s.lu.condition = .clear
  · obtain ⟨_, joined, _⟩ := id party
    rw [show restartParty s = some s.cm.call.partyAddr from if_pos party]
    have sends (d : Addr) : (luRestart (some d) b).lu =
        { b.lu with control := [ControlEntry.fresh ⟨.clear, d, [4], .cmNoOutcome, 0⟩], restartClear := true } := rfl
    rw [sends, lu]
    exact ⟨rfl, rfl, rfl, rfl, rfl, rfl, fun _ => ⟨joined, rfl, rfl⟩, fun absent => absurd party absent⟩
  · rw [show restartParty s = none from if_neg party]
    have listens : (luRestart none b).lu =
        { b.lu with
          joinState := .listen, receive := .hunting, ackRead := none, probeCount := 0, probeCollisions := 0
          probeWait := none, quiet := 0, listenWindow := some (sec 30), lastOwn := false, restartClear := false } := rfl
    rw [listens, lu]
    exact ⟨rfl, rfl, rfl, rfl, rfl, rfl, fun present => absurd present party, fun _ => ⟨rfl, rfl, rfl, rfl, rfl⟩⟩

/-- The printer after restart (R119, R129): where no operation starts it keeps its values. -/
theorem restart_printer (lines : PresenceLines) (s : State) :
    let p := (settle (restartAll lines s)).pu
    p.present = isHigh lines.printer ∧ (s.au.cursor ≠ none → p.source = .queue) ∧ p.paper = s.pu.paper
      ∧ p.heatTimer = s.pu.heatTimer
      ∧ (s.pu.work = none ∨ s.pu.op ≠ none →
          p.op = s.pu.op ∧ p.opLeft = s.pu.opLeft ∧ p.lastOp = s.pu.lastOp ∧ p.column = s.pu.column
            ∧ p.shift = s.pu.shift ∧ p.lastOrigin = s.pu.lastOrigin ∧ p.heat = s.pu.heat ∧ p.throttle = s.pu.throttle
            ∧ ((∀ w, s.pu.work = some w → w.source = .queue) → p.work = s.pu.work)) := by
  obtain ⟨_, _, _, _, _, _, _, _, _, _, _, present, paper, heatTimer, source, waits⟩ := restartAll_settled lines s
  obtain ⟨_, _, _, _, _, _, _, _, _, fallen, pu, work, _⟩ := restartBase_spec lines s
  dsimp only
  generalize restartBase lines s = b at *
  generalize settle (restartAll lines s) = t at *
  have busy : s.pu.work = none ∨ s.pu.op ≠ none → b.pu.work = none ∨ b.pu.op ≠ none := by
    rintro (empty | op)
    · exact .inl ((work (by rw [empty]; nofun)).trans empty)
    · exact .inr (by rw [pu]; exact op)
  refine ⟨by rw [present, pu], fun cursor => source.trans (fallen cursor), by rw [paper, pu], by rw [heatTimer, pu],
    fun still => ?_⟩
  rw [waits (busy still)]
  have same : b.pu.op = s.pu.op ∧ b.pu.opLeft = s.pu.opLeft ∧ b.pu.lastOp = s.pu.lastOp ∧ b.pu.column = s.pu.column
      ∧ b.pu.shift = s.pu.shift ∧ b.pu.lastOrigin = s.pu.lastOrigin ∧ b.pu.heat = s.pu.heat
      ∧ b.pu.throttle = s.pu.throttle := by
    rw [pu]
    exact ⟨rfl, rfl, rfl, rfl, rfl, rfl, rfl, rfl⟩
  obtain ⟨op, opLeft, lastOp, column, shift, origin, heat, throttle⟩ := same
  exact ⟨op, opLeft, lastOp, column, shift, origin, heat, throttle, work⟩

/-- The keyboard and the tape units after restart, and what is configured (R116, R151). -/
theorem restart_units (lines : PresenceLines) (s : State) :
    let t := settle (restartAll lines s)
    t.ku.scan = s.ku.scan.set 45 ⟨.down, 0⟩ ∧ t.ku.fifo = [] ∧ t.ku.editStack = [] ∧ t.ku.dial = []
      ∧ t.ku.case = s.ku.case ∧ t.ku.mode = s.ku.mode ∧ t.tu.run = none ∧ t.tu.tape = s.tu.tape
      ∧ t.tu.tapeIn = s.tu.tapeIn ∧ t.tu.punchPresent = isHigh lines.punch
      ∧ t.tu.readerPresent = isHigh lines.reader ∧ t.cl = s.cl := by
  obtain ⟨_, _, _, ku, cl, _, run, tape, tapeIn, punch, reader, _⟩ := restartAll_settled lines s
  obtain ⟨_, _, _, _, _, _, _, edit, ended, _⟩ := restartBase_spec lines s
  have core := callCore_restartBase lines s
  have read {α : Type} (f : State → α) (hidden : ∀ u, f (callCore u) = f u) :
      f (restartBase lines s) = f (restartBlank lines s) := by rw [← hidden, core, hidden]
  dsimp only
  rw [ku, cl, run, tape, tapeIn, punch, reader]
  exact ⟨read (fun u => u.ku.scan) fun _ => rfl, read (fun u => u.ku.fifo) fun _ => rfl, edit,
    read (fun u => u.ku.dial) fun _ => rfl, read (fun u => u.ku.case) fun _ => rfl,
    read (fun u => u.ku.mode) fun _ => rfl, ended, read (fun u => u.tu.tape) fun _ => rfl,
    read (fun u => u.tu.tapeIn) fun _ => rfl, read (fun u => u.tu.punchPresent) fun _ => rfl,
    read (fun u => u.tu.readerPresent) fun _ => rfl, read State.cl fun _ => rfl⟩

/-- The CM, SEND and the AU after restart (R97, R178). -/
theorem restart_call (lines : PresenceLines) (s : State) :
    let t := settle (restartAll lines s)
    t.cm.call.state = .idle ∧ t.cm.view = LineView.reset ∧ t.cm.sendTimer = .stopped
      ∧ t.cm.breakTimer = s.cm.breakTimer ∧ t.cs.send.cellCount = 0 ∧ t.cs.send.inFlight = 0
      ∧ t.au.clock = s.au.clock ∧ t.au.nextNumber = s.au.nextNumber ∧ t.au.ring = .none ∧ t.au.autoAnswered = false
      ∧ t.au.pending = none := by
  obtain ⟨cs, cm, au, _⟩ := restartAll_settled lines s
  obtain ⟨idle, view, timer, breaks, cells, flight, _, _, _, _, _, _, clock, number, ring, auto, pending⟩ :=
    restartBase_spec lines s
  dsimp only
  rw [cs, cm, au]
  exact ⟨idle, view, timer, breaks, cells, flight, clock, number, ring, auto, pending⟩

/-- An END follows what PRINT held, where nothing is appended before it (R26, R30). -/
theorem restart_print (lines : PresenceLines) {s x : State} (line : ∃ l, x = { s with lu := l })
    (state : s.cm.call.state = .opened) (one : blocksHaveOneHolder s) {n : Station}
    (mark : s.cs.print.openMark = some n) (zero : s.cs.print.blocksNeeded [.boundary .finish n] = 0)
    (empty : s.ku.editStack = []) (fits : s.cs.print.blockCount ≤ s.cs.print.limit) :
    s.cs.queueCells .print ++ [.boundary .finish n] <+: (settle (restartAll lines x)).cs.queueCells .print := by
  obtain ⟨l, rfl⟩ := line
  obtain ⟨cs, _⟩ := restartAll_settled lines { s with lu := l }
  obtain ⟨_, _, _, _, _, moves⟩ := restartBase_left lines (s := { s with lu := l }) state
  have holder : OneHolder (restartBegun { s with lu := l }).cs (restartBegun { s with lu := l }).au.file :=
    blocksHaveOneHolder_iff.mp one
  obtain ⟨_, first⟩ := moves.cells (oneHolder_leaveOpen (by decide) holder)
  obtain ⟨_, _, ends⟩ := cells_leaveOpen (c := .idle) false (by decide) holder
  have printed : (storeFile (leaveOpen .idle false (restartBegun { s with lu := l }))).1.queueCells .print =
      s.cs.queueCells .print ++ [.boundary .finish n] := ends n mark zero empty fits
  rw [cs, ← printed]
  exact first

/-- Settles O53. -/
theorem restartActs : Obligations.RestartActs := by
  intro s lines ready up counted leaves
  have run : exec (.restart lines) s = .next (settle (restartAll lines.toPresenceLines (countDiscarded lines.units s))) := by
    rw [exec, execRestart]
    exact actIf_of _ s (by rw [ready]; exact decide_eq_true up)
  refine ⟨fun whole => ⟨_, run, ?_⟩, fun framing broken => ⟨_, run, ?_⟩⟩
  · obtain ⟨n, left, eq, spaceRun, spaceLeft⟩ := countDiscarded_unbroken whole
    rw [eq]
    have from_s : CountedFrom s { s with lu := { s.lu with spaceRun := n, spaceLeft := left } } :=
      ⟨rfl, rfl, rfl, rfl, rfl, rfl, rfl, fun one => ⟨one, rfl⟩⟩
    have print := @restart_print lines.toPresenceLines s _ ⟨{ s.lu with spaceRun := n, spaceLeft := left }, rfl⟩
    have left_call := restart_leaves lines.toPresenceLines from_s
    obtain ⟨idle, view, timer, breaks, cells, flight, clock, number, ring, auto, pending⟩ :=
      restart_call lines.toPresenceLines { s with lu := { s.lu with spaceRun := n, spaceLeft := left } }
    obtain ⟨scan, fifo, edit, dial, case, mode, ended, tape, tapeIn, punch, reader, loader⟩ :=
      restart_units lines.toPresenceLines { s with lu := { s.lu with spaceRun := n, spaceLeft := left } }
    obtain ⟨present, fallen, paper, heatTimer, still⟩ :=
      restart_printer lines.toPresenceLines { s with lu := { s.lu with spaceRun := n, spaceLeft := left } }
    obtain ⟨slot, text, condition, run', left', hunting, sends, listens⟩ :=
      restart_line lines.toPresenceLines { s with lu := { s.lu with spaceRun := n, spaceLeft := left } }
    generalize settle (restartAll lines.toPresenceLines _) = t at *
    refine ⟨scan, left_call, fun opened one n mark zero empty fits => print opened one mark zero empty fits, idle, view,
      timer, breaks, cells, flight, fifo, edit, dial, case, mode, ended, tape, tapeIn, present, punch, reader, fallen,
      paper, heatTimer, still, clock, number, ring, auto, pending, loader, slot, text, condition, ?_, ?_, sends,
      fun absent => ?_⟩
    · exact run'.trans spaceRun
    · exact left'.trans spaceLeft
    · obtain ⟨listen, control, quiet, window, _⟩ := listens absent
      exact ⟨listen, control, quiet, window, hunting⟩
  · obtain ⟨left, eq⟩ := countDiscarded_broken framing broken
    rw [eq]
    obtain ⟨from_s, broken, breakTimer⟩ := lineBroken_spec { s with lu.spaceLeft := left }
    have left_call := restart_leaves lines.toPresenceLines from_s
    obtain ⟨idle, view, _, breaks, cells, _⟩ :=
      restart_call lines.toPresenceLines (lineBroken { s with lu.spaceLeft := left })
    obtain ⟨scan, fifo, edit, _, _, _, ended, _, _, _, _, loader⟩ :=
      restart_units lines.toPresenceLines (lineBroken { s with lu.spaceLeft := left })
    obtain ⟨slot, text, condition, _, _, hunting, _, listens⟩ :=
      restart_line lines.toPresenceLines (lineBroken { s with lu.spaceLeft := left })
    obtain ⟨listen, control, _, _, clear⟩ := listens (by rw [broken]; simp)
    exact ⟨scan.trans (by rw [from_s.scan]), left_call, condition.trans broken, breaks.trans breakTimer, listen, hunting,
      slot, control, text, clear, idle, view, cells, fifo, edit, ended, loader.trans from_s.loader⟩

end Sys2Proof.Machine
end

section
/-!
The Turn of a TEXT (R21, R22, R64 to R67, R169): the records that go for a delivery, and the blocks they give.
-/

namespace Sys2Proof.Machine

/-! ### Closed printed records, oldest first (R22) -/

/-- The closed printed records, in the file's order. -/
def printedOf (file : List FileRecord) : List FileRecord := file.filter FileRecord.isPrinted

theorem oldestPrinted_eq (s : State) : oldestPrinted s = (printedOf s.au.file).head? := by
  simp [oldestPrinted, printedOf, List.head?_filter]

theorem printedOf_append (a b : List FileRecord) : printedOf (a ++ b) = printedOf a ++ printedOf b := List.filter_append ..

/-- Once the oldest has gone, the others are left. -/
theorem printedOf_drop {file rest : List FileRecord} {r : FileRecord} (slots : (file.map FileRecord.slot).Nodup)
    (printed : printedOf file = r :: rest) : printedOf (file.filter fun x => x.slot ≠ r.slot) = rest := by
  have sub : (r :: rest).Sublist file := printed ▸ List.filter_sublist
  obtain ⟨fresh, _⟩ := List.nodup_cons.mp ((sub.map FileRecord.slot).nodup slots)
  have swap : printedOf (file.filter fun x => x.slot ≠ r.slot) = (printedOf file).filter fun x => x.slot ≠ r.slot := by
    simp only [printedOf, List.filter_filter, Bool.and_comm]
  rw [swap, printed, List.filter_cons_of_neg (by simp)]
  exact List.filter_eq_self.mpr fun x mem => decide_eq_true fun same => fresh (List.mem_map.mpr ⟨x, mem, same⟩)

/-- What the reclaiming for a delivery does: the oldest printed records go, one by one, each where the reserve test fails
without it, until it passes or there is none left (R22). -/
theorem reclaimFor_spec (needed k : Nat) {s : State} (slots : (s.au.file.map FileRecord.slot).Nodup)
    (fuel : (printedOf s.au.file).length ≤ k) :
    ∃ gone, reclaimFor needed k s = dropRecords gone s ∧ gone <+: printedOf s.au.file
      ∧ (∀ before x, gone = before ++ [x] →
          reservePasses .respect (dropRecords before s).cs.free.length needed = false)
      ∧ (reservePasses .respect (dropRecords gone s).cs.free.length needed = true ∨ gone = printedOf s.au.file) := by
  induction k generalizing s with
  | zero =>
    have none := List.eq_nil_of_length_eq_zero (Nat.le_zero.mp fuel)
    exact ⟨[], rfl, List.nil_prefix, fun before x h => by simp at h, .inr none.symm⟩
  | succ k ih =>
    cases passes : reservePasses .respect s.cs.free.length needed with
    | true => exact ⟨[], if_pos passes, List.nil_prefix, fun before x h => by simp at h, .inl passes⟩
    | false =>
      have unfolded : reclaimFor needed (k + 1) s =
          match oldestPrinted s with
          | some r => reclaimFor needed k (dropRecord r s)
          | none => s := if_neg (by simpa [Store.freeCount] using passes)
      cases printed : printedOf s.au.file with
      | nil =>
        rw [unfolded, oldestPrinted_eq, printed]
        exact ⟨[], rfl, List.nil_prefix, fun before x h => by simp at h, .inr rfl⟩
      | cons r rest =>
        have left : printedOf (dropRecord r s).au.file = rest := printedOf_drop slots printed
        rw [printed, List.length_cons] at fuel
        obtain ⟨gone, eq, first, why, ends⟩ := ih (s := dropRecord r s)
          ((List.filter_sublist.map _).nodup slots) (by rw [left]; omega)
        rw [left] at first ends
        refine ⟨r :: gone, ?_, List.cons_prefix_cons.mpr ⟨rfl, first⟩, fun before x split => ?_, ?_⟩
        · rw [unfolded, oldestPrinted_eq, printed]
          exact eq
        · cases before with
          | nil => exact passes
          | cons b before =>
            obtain ⟨rfl, tail⟩ := List.cons.inj split
            exact why before x tail
        · exact ends.imp id (congrArg (r :: ·))

/-! ### What the records that go leave in the store (R25, R171) -/

theorem blockCount_of_oneHolder {st : Store} {file : List FileRecord} (one : OneHolder st file) {r : FileRecord}
    (mem : r ∈ file) : (blocksOfChain st r.chain).length = r.chain.blockCount := (one.chains r mem).inOrder.1

/-- Records that go give their blocks to the stack; the queues, and the chains of the records that stay, hold what they
held. -/
theorem OneHolder.flushChains {st : Store} {file : List FileRecord} (one : OneHolder st file) {gone : List FileRecord}
    (sub : ∀ r ∈ gone, r ∈ file) (slots : (gone.map FileRecord.slot).Nodup) :
    OneHolder (st.flushChains gone) (file.filter fun x => x.slot ∉ gone.map FileRecord.slot)
      ∧ (st.flushChains gone).free.length = st.free.length + (gone.map fun x => x.chain.blockCount).sum
      ∧ (∀ n, (st.flushChains gone).queueCells n = st.queueCells n)
      ∧ ∀ x ∈ file, x.slot ∉ gone.map FileRecord.slot →
        ∀ i, (st.flushChains gone).chainCell x.chain i = st.chainCell x.chain i := by
  refine ⟨one.drops sub slots, ?_⟩
  induction gone generalizing st file with
  | nil => exact ⟨rfl, fun _ => rfl, fun _ _ _ _ => rfl⟩
  | cons r rs ih =>
    obtain ⟨new, rest⟩ := List.nodup_cons.mp slots
    have mem : r ∈ file := sub r (by simp)
    obtain ⟨after, ⟨queues, chains⟩, free⟩ := one.drop mem
    have apart (x : FileRecord) (h : x ∈ rs) : x ∈ file.filter fun x => x.slot ≠ r.slot :=
      List.mem_filter.mpr ⟨sub x (by simp [h]), decide_eq_true fun e => new (List.mem_map.mpr ⟨x, h, e⟩)⟩
    obtain ⟨free', queues', chains'⟩ := ih after apart rest
    rw [flushChains_cons]
    refine ⟨?_, fun n => (queues' n).trans (queues n), fun x inside out i => ?_⟩
    · rw [free', free, List.length_append, List.length_reverse, blockCount_of_oneHolder one mem, List.map_cons,
        List.sum_cons]
      omega
    · rw [List.map_cons, List.mem_cons, not_or] at out
      exact (chains' x (List.mem_filter.mpr ⟨inside, decide_eq_true out.1⟩) out.2 i).trans (chains x inside out.1 i)

/-- Whatever the chains are, records that go take no block from the stack. -/
theorem free_flushChains_le (st : Store) (gone : List FileRecord) :
    st.free.length ≤ (st.flushChains gone).free.length := by
  induction gone generalizing st with
  | nil => exact Nat.le_refl _
  | cons r rs ih =>
    rw [flushChains_cons]
    refine Nat.le_trans ?_ (ih _)
    rw [show (st.flushChain r.chain).free = (blocksOfChain st r.chain).reverse ++ st.free from free_releaseAll _ _,
      List.length_append]
    exact Nat.le_add_left _ _

/-! ### A slot for a new record (R169) -/

theorem lowestSlot_of_fresh {s : State} {slot : Fin 24} (fresh : ∀ x ∈ s.au.file, x.slot ≠ slot) :
    ∃ i, lowestSlot s = some i := by
  have free : (recordIn s slot).isNone = true := by
    rw [Option.isNone_iff_eq_none]
    exact List.find?_eq_none.mpr fun x mem => by simpa using fresh x mem
  exact Option.isSome_iff_exists.mp (List.find?_isSome.mpr ⟨slot, List.mem_finRange slot, free⟩)

theorem exists_fresh_slot {file : List FileRecord} (room : file.length < 24) : ∃ slot, ∀ x ∈ file, x.slot ≠ slot := by
  by_contra none
  push Not at none
  have all : (Finset.univ : Finset (Fin 24)) ⊆ (file.map FileRecord.slot).toFinset := fun i _ => by
    obtain ⟨x, mem, same⟩ := none i
    exact List.mem_toFinset.mpr (List.mem_map.mpr ⟨x, mem, same⟩)
  have count := (Finset.card_le_card all).trans (List.toFinset_card_le _)
  rw [Finset.card_univ, Fintype.card_fin, List.length_map] at count
  omega

/-- The record that goes for a slot: the oldest printed one, where 24 records stand (R169). -/
theorem slotFreed_eq (s : State) :
    ∃ gone, slotFreed s = dropRecords gone s ∧ gone <+: printedOf s.au.file
      ∧ (gone = [] ∨ 24 ≤ s.au.file.length ∧ ∃ r, gone = [r])
      ∧ (slotFree s = true → ∃ slot, lowestSlot (slotFreed s) = some slot) := by
  rcases slotFreed_cases s with ⟨same, without⟩ | ⟨r, found, full, dropped⟩
  · refine ⟨[], same, List.nil_prefix, .inl rfl, fun free => ?_⟩
    have room : s.au.file.length < 24 := by
      rcases without with room | none
      · exact room
      · simp only [slotFree, Bool.or_eq_true, decide_eq_true_eq] at free
        refine free.resolve_right fun some => ?_
        obtain ⟨x, mem, printed⟩ := List.any_eq_true.mp some
        exact List.find?_eq_none.mp none x mem printed
    obtain ⟨slot, fresh⟩ := exists_fresh_slot room
    rw [same]
    exact lowestSlot_of_fresh fresh
  · refine ⟨[r], dropped, ?_, .inr ⟨full, r, rfl⟩, fun _ => ?_⟩
    · rw [oldestPrinted_eq] at found
      obtain ⟨rest, printed⟩ := List.head?_eq_some_iff.mp found
      rw [printed]
      exact List.cons_prefix_cons.mpr ⟨rfl, List.nil_prefix⟩
    · rw [dropped]
      exact lowestSlot_of_fresh (slot := r.slot) fun x mem => of_decide_eq_true (List.mem_filter.mp mem).2

/-! ### The state ready for the runs (R21, R22, R169) -/

/-- The state with the record opened, where the delivery needs one. -/
def openedFor (e : Route) (s : State) : State :=
  if e.file = true ∧ s.cm.call.fileLink = none then openRecord s else s

theorem deliveryReady_eq (e : Route) (r : TextRuns) (s : State) :
    deliveryReady e r s =
      if e.file then reclaimFor (deliveryBlocks s r) (openedFor e s).au.file.length (openedFor e s) else openedFor e s := rfl

/-- How `t` comes from `s` by records that go and records that open: `gone` are the oldest printed ones, `new` stands last. -/
structure Refiled (s t : State) (gone new : List FileRecord) : Prop where
  oldest : gone <+: printedOf s.au.file
  store : t.cs = s.cs.flushChains gone
  file : t.au.file = s.au.file.filter (fun x => x.slot ∉ gone.map FileRecord.slot) ++ new
  rest : t = { s with
    cs := t.cs, au.file := t.au.file, au.nextNumber := t.au.nextNumber, cm.call.fileLink := t.cm.call.fileLink }
  linked : s.cm.call.fileLink ≠ none →
    new = [] ∧ t.cm.call.fileLink = s.cm.call.fileLink ∧ t.au.nextNumber = s.au.nextNumber
  opened : s.cm.call.fileLink = none → slotFree s = true →
    ∃ slot, new = [newRecord slot s] ∧ t.cm.call.fileLink = some slot ∧ t.au.nextNumber = numberAfter s.au.nextNumber
  fresh : ∀ y ∈ new, y.isPrinted = false ∧ y.chain = Chain.empty
    ∧ ∀ x ∈ s.au.file, x.slot ∉ gone.map FileRecord.slot → x.slot ≠ y.slot
  one : new.length ≤ 1

theorem newRecord_dropRecords (slot : Fin 24) (gone : List FileRecord) (s : State) :
    newRecord slot (dropRecords gone s) = newRecord slot s := by rw [dropRecords_eq]; rfl

/-- A record opens for a delivery to FILE (R169). -/
theorem openedFor_refiled (s : State) {e : Route} (file : e.file = true) :
    ∃ gone new, Refiled s (openedFor e s) gone new
      ∧ (gone = [] ∨ s.cm.call.fileLink = none ∧ 24 ≤ s.au.file.length ∧ ∃ r, gone = [r]) := by
  unfold openedFor
  by_cases link : s.cm.call.fileLink = none
  · rw [if_pos ⟨file, link⟩]
    obtain ⟨gone, freed, oldest, count, room⟩ := slotFreed_eq s
    have stands : gone = [] ∨ s.cm.call.fileLink = none ∧ 24 ≤ s.au.file.length ∧ ∃ r, gone = [r] :=
      count.imp id fun h => ⟨link, h⟩
    cases found : lowestSlot (slotFreed s) with
    | none =>
      refine ⟨gone, [], ?_, stands⟩
      rw [openRecord_of_none found, freed, dropRecords_eq]
      refine ⟨oldest, rfl, (List.append_nil _).symm, rfl, fun h => absurd link h, fun _ free => ?_, by simp, Nat.zero_le _⟩
      obtain ⟨slot, some⟩ := room free
      rw [found] at some
      cases some
    | some slot =>
      have fresh := recordIn_of_lowestSlot found
      rw [openRecord_of_slot found, freed, newRecord_dropRecords]
      rw [freed, dropRecords_eq] at fresh
      rw [dropRecords_eq]
      refine ⟨gone, [newRecord slot s], ⟨oldest, rfl, rfl, rfl, fun h => absurd link h, fun _ _ => ⟨slot, rfl, rfl, rfl⟩,
        fun y mem => ?_, Nat.le_refl _⟩, stands⟩
      rw [List.mem_singleton.mp mem]
      exact ⟨rfl, rfl, fun x inside out => fresh x (List.mem_filter.mpr ⟨inside, decide_eq_true out⟩)⟩
  · rw [if_neg fun h => link h.2]
    exact ⟨[], [], ⟨List.nil_prefix, rfl, by simp, rfl, fun _ => ⟨rfl, rfl, rfl⟩, fun h => absurd h link,
      by simp, Nat.zero_le _⟩, .inl rfl⟩

theorem mem_of_oldest {file gone : List FileRecord} (oldest : gone <+: printedOf file) : ∀ r ∈ gone, r ∈ file :=
  fun _ mem => List.mem_of_mem_filter (oldest.subset mem)

theorem nodup_of_oldest {file gone : List FileRecord} (slots : (file.map FileRecord.slot).Nodup)
    (oldest : gone <+: printedOf file) : (gone.map FileRecord.slot).Nodup :=
  ((oldest.sublist.trans List.filter_sublist).map FileRecord.slot).nodup slots

/-- One holder for each block, the blocks that came free, and what is left as it was. -/
theorem Refiled.oneHolder {s t : State} {gone new : List FileRecord} (h : Refiled s t gone new)
    (one : OneHolder s.cs s.au.file) :
    OneHolder t.cs t.au.file
      ∧ t.cs.free.length = s.cs.free.length + (gone.map fun x => x.chain.blockCount).sum
      ∧ (∀ n, t.cs.queueCells n = s.cs.queueCells n)
      ∧ ∀ x ∈ s.au.file, x.slot ∉ gone.map FileRecord.slot →
        ∀ i, t.cs.chainCell x.chain i = s.cs.chainCell x.chain i := by
  obtain ⟨whole, rest⟩ := one.flushChains (mem_of_oldest h.oldest) (nodup_of_oldest one.slots h.oldest)
  rw [h.store, h.file]
  refine ⟨?_, rest⟩
  have fresh := h.fresh
  have count := h.one
  clear h
  match new with
  | [] => rw [List.append_nil]; exact whole
  | [y] =>
    obtain ⟨_, empty, apart⟩ := fresh y (by simp)
    exact whole.opened empty fun x mem => by
      obtain ⟨inside, out⟩ := List.mem_filter.mp mem
      exact apart x inside (of_decide_eq_true out)
  | _ :: _ :: _ => simp at count

/-- The printed records left, of those the file had. -/
theorem Refiled.printed {s t : State} {gone new : List FileRecord} (h : Refiled s t gone new)
    (slots : (s.au.file.map FileRecord.slot).Nodup) : gone ++ printedOf t.au.file = printedOf s.au.file := by
  obtain ⟨left, split⟩ := h.oldest
  have none : printedOf new = [] := List.filter_eq_nil_iff.mpr fun y mem => by simp [(h.fresh y mem).1]
  rw [h.file, printedOf_append, none, List.append_nil, ← split]
  congr 1
  have nodup : ((gone ++ left).map FileRecord.slot).Nodup :=
    ((split ▸ List.filter_sublist : (gone ++ left).Sublist s.au.file).map FileRecord.slot).nodup slots
  rw [List.map_append, List.nodup_append] at nodup
  obtain ⟨_, _, apart⟩ := nodup
  have swap : printedOf (s.au.file.filter fun x => x.slot ∉ gone.map FileRecord.slot) =
      (printedOf s.au.file).filter fun x => x.slot ∉ gone.map FileRecord.slot := by
    simp only [printedOf, List.filter_filter, Bool.and_comm]
  rw [swap, ← split, List.filter_append]
  have out : gone.filter (fun x => x.slot ∉ gone.map FileRecord.slot) = [] := List.filter_eq_nil_iff.mpr fun x mem => by
    simpa using ⟨x, mem, rfl⟩
  rw [out, List.nil_append]
  exact List.filter_eq_self.mpr fun x mem => decide_eq_true fun same =>
    apart _ same _ (List.mem_map_of_mem mem) rfl

theorem flushChains_append (st : Store) (a b : List FileRecord) :
    st.flushChains (a ++ b) = (st.flushChains a).flushChains b := List.foldl_append ..

/-- More records go: the oldest of the printed ones that are left. -/
theorem Refiled.dropRecords {s t : State} {gone new more : List FileRecord} (h : Refiled s t gone new)
    (slots : (s.au.file.map FileRecord.slot).Nodup) (oldest : more <+: printedOf t.au.file) :
    Refiled s (dropRecords more t) (gone ++ more) new := by
  have printed := h.printed slots
  have fresh (y : FileRecord) (mem : y ∈ new) : y.slot ∉ more.map FileRecord.slot := by
    intro same
    obtain ⟨x, inside, e⟩ := List.mem_map.mp same
    have there := mem_of_oldest oldest x inside
    have isPrinted : x.isPrinted = true := (List.mem_filter.mp (oldest.subset inside)).2
    rw [h.file] at there
    obtain ⟨unprinted, _, apart⟩ := h.fresh y mem
    rcases List.mem_append.mp there with old | new'
    · obtain ⟨first, out⟩ := List.mem_filter.mp old
      exact apart x first (of_decide_eq_true out) e
    · rw [(h.fresh x new').1] at isPrinted
      cases isPrinted
  rw [dropRecords_eq]
  refine ⟨?_, ?_, ?_, ?_, h.linked, h.opened, fun y mem => ?_, h.one⟩
  · rw [← printed]; exact (List.prefix_append_right_inj gone).mpr oldest
  · rw [flushChains_append, ← h.store]
  · show t.au.file.filter _ = _
    rw [h.file, List.filter_append, List.filter_filter]
    congr 1
    · refine List.filter_congr fun x _ => ?_
      simp [Bool.and_comm]
    · exact List.filter_eq_self.mpr fun y mem => decide_eq_true (fresh y mem)
  · exact h.rest ▸ rfl
  · obtain ⟨unprinted, empty, apart⟩ := h.fresh y mem
    refine ⟨unprinted, empty, fun x inside out => apart x inside fun e => out ?_⟩
    rw [List.map_append]
    exact List.mem_append_left _ e

/-! ### The blocks a delivery finds (R21, R22) -/

theorem respect_iff (free needed : Nat) :
    reservePasses .respect free needed = true ↔ needed = 0 ∨ needed + 5 ≤ free := reservePasses_iff _ _ _

/-- With a record opened and printed records gone the reserve test passes, and the last of them was needed (R21, R22, R169). -/
theorem deliveryReady_refiled {e : Route} {r : TextRuns} {s : State} (one : OneHolder s.cs s.au.file)
    (file : e.file = true)
    (passes : reservePasses .respect (s.cs.free.length + reclaimable s) (deliveryBlocks s r) = true) :
    ∃ gone new, Refiled s (deliveryReady e r s) gone new
      ∧ reservePasses .respect (deliveryReady e r s).cs.free.length (deliveryBlocks s r) = true
      ∧ ∀ before x, gone = before ++ [x] →
          deliveryBlocks s r ≠ 0
              ∧ s.cs.free.length + (before.map fun z => z.chain.blockCount).sum < deliveryBlocks s r + 5
            ∨ before = [] ∧ s.cm.call.fileLink = none ∧ s.au.file.length = 24 := by
  obtain ⟨first, new, opened, small⟩ := openedFor_refiled s file
  obtain ⟨whole, _⟩ := opened.oneHolder one
  obtain ⟨more, eq, oldest, why, ends⟩ :=
    reclaimFor_spec (deliveryBlocks s r) (openedFor e s).au.file.length whole.slots (List.length_filter_le _ _)
  have ready : deliveryReady e r s = dropRecords more (openedFor e s) := by rw [deliveryReady_eq, if_pos file, eq]
  have refiled := opened.dropRecords one.slots oldest
  obtain ⟨_, free, _⟩ := refiled.oneHolder one
  rw [ready]
  refine ⟨first ++ more, new, refiled, ?_, fun before x split => ?_⟩
  · rcases ends with enough | all
    · exact enough
    · rw [free, all, opened.printed one.slots]
      exact passes
  · rcases List.eq_nil_or_concat more with rfl | ⟨more', y, rfl⟩
    · rw [List.append_nil] at split
      rcases small with rfl | ⟨link, full, z, rfl⟩
      · simp at split
      · right
        have bound : s.au.file.length ≤ 24 := by
          simpa using List.Nodup.length_le_card one.slots
        refine ⟨?_, link, Nat.le_antisymm bound full⟩
        exact (List.append_eq_singleton_iff.mp split.symm).elim (fun h => h.1) fun h => by simp at h
    · left
      rw [List.concat_eq_append, ← List.append_assoc] at split
      obtain ⟨rfl, _⟩ := List.append_inj' split rfl
      have fails := why more' y (List.concat_eq_append ..)
      have before : more' <+: printedOf (openedFor e s).au.file :=
        (List.concat_eq_append .. ▸ List.prefix_append more' [y]).trans oldest
      obtain ⟨_, left, _⟩ := (opened.dropRecords one.slots before).oneHolder one
      rw [left] at fails
      have needed := mt (respect_iff _ _).mpr (by rw [fails]; decide)
      omega

/-- Where the stack has the blocks, no record goes for them (R22). -/
theorem reclaimFor_enough {needed k : Nat} {s : State} (passes : reservePasses .respect s.cs.free.length needed = true) :
    reclaimFor needed k s = s := by
  cases k with
  | zero => rfl
  | succ k => exact if_pos passes

/-- The blocks are had in any store, where the stack has them from the first (R21). -/
theorem deliveryReady_enough {e : Route} {r : TextRuns} {s : State}
    (passes : reservePasses .respect s.cs.free.length (deliveryBlocks s r) = true) :
    reservePasses .respect (deliveryReady e r s).cs.free.length (deliveryBlocks s r) = true := by
  by_cases file : e.file = true
  · obtain ⟨gone, new, opened, _⟩ := openedFor_refiled s file
    have more : reservePasses .respect (openedFor e s).cs.free.length (deliveryBlocks s r) = true := by
      have grown := free_flushChains_le s.cs gone
      rw [opened.store, respect_iff]
      have := (respect_iff _ _).mp passes
      omega
    rw [deliveryReady_eq, if_pos file, reclaimFor_enough more]
    exact more
  · rw [deliveryReady_eq, if_neg file, openedFor, if_neg fun h => file h.1]
    exact passes

/-- A delivery without FILE has nothing to make ready. -/
theorem deliveryReady_of_not_file {e : Route} {r : TextRuns} {s : State} (file : e.file = false) :
    deliveryReady e r s = s := by
  rw [deliveryReady_eq, file, openedFor, file]
  rfl

/-! ### The runs of PRINT and PUNCH (R26, R66) -/

/-- A run of characters begins with no boundary. -/
theorem characters_gapRun (lost : Nat) (text : List Resolved) :
    ∀ c ∈ gapRun lost ++ cellsOf .line text, ∃ r o, c = .character r o := by
  have run (o : Origin) (rs : List Resolved) : ∀ c ∈ cellsOf o rs, ∃ r o, c = .character r o := fun c mem => by
    obtain ⟨r, _, rfl⟩ := List.mem_map.mp mem
    exact ⟨r, o, rfl⟩
  intro c mem
  rcases List.mem_append.mp mem with gap | body
  · unfold gapRun at gap
    split at gap
    · cases gap
    · exact run _ _ c gap
  · exact run _ _ c body

/-- The mark after a run that begins with a START where the mark is absent (R26, R66). -/
theorem openMark_markStart {q first : Queue} (mark : q.openMark = first.openMark) (party : Station) {body : List Cell}
    (plain : ∀ c ∈ body, ∃ r o, c = .character r o) :
    (markStart q party (withStart first party body)).openMark =
      if withStart first party body ≠ [] ∧ first.openMark = none then some party else first.openMark := by
  unfold withStart
  cases body with
  | nil => simp [markStart, mark]
  | cons c rest =>
    obtain ⟨r, o, rfl⟩ := plain c (by simp)
    cases stands : first.openMark with
    | none => simp [markStart]
    | some n => simp [markStart, mark, stands]

/-- Each queue's mark after the runs of a TEXT (R26). -/
theorem openMark_textRun {q first : Queue} (mark : q.openMark = first.openMark) (party : Station) (sent : Bool)
    {body : List Cell} (plain : ∀ c ∈ body, ∃ r o, c = .character r o) {run : List Cell}
    (is : run = if sent then withStart first party body else []) :
    (markStart q party run).openMark = if run ≠ [] ∧ first.openMark = none then some party else first.openMark := by
  subst is
  cases sent with
  | true => exact openMark_markStart mark party plain
  | false => simp [markStart, mark]

/-- A queue's record with its mark set is the same elsewhere. -/
theorem markStart_same (q : Queue) (party : Station) (run : List Cell) :
    (markStart q party run).cellCount = q.cellCount ∧ (markStart q party run).blockCount = q.blockCount
      ∧ ∃ m, markStart q party run = { q with openMark := m } := by
  obtain ⟨m, eq⟩ := markStart_eq q party run
  exact ⟨by rw [eq], by rw [eq], m, eq⟩

theorem cs_deliveryPushed (r : TextRuns) (party : Station) (x : State) :
    (deliveryPushed r party x).cs =
      (((x.cs.pushRun .print r.print).pushRun .punch r.punch).setQueue .print
          (markStart ((x.cs.pushRun .print r.print).pushRun .punch r.punch).print party r.print)).setQueue .punch
        (markStart ((x.cs.pushRun .print r.print).pushRun .punch r.punch).punch party r.punch) := rfl

/-- The queues once the runs are in: counts where the stack had the blocks, the marks, SEND as it was; and the blocks left. -/
theorem deliveryPushed_queues {r : TextRuns} {s x : State} (party : Station)
    (queues : ∀ m, x.cs.queue m = s.cs.queue m) {more : Nat}
    (enough : s.cs.print.blocksNeeded r.print + s.cs.punch.blocksNeeded r.punch + more ≤ x.cs.free.length) :
    let u := deliveryPushed r party x
    u.cs.print.cellCount = s.cs.print.cellCount + r.print.length
      ∧ u.cs.punch.cellCount = s.cs.punch.cellCount + r.punch.length ∧ more ≤ u.cs.free.length := by
  have print : x.cs.queue .print = s.cs.print := queues .print
  have punch : (x.cs.pushRun .print r.print).queue .punch = s.cs.punch :=
    (Store.queue_pushRun_ne r.print (by decide)).trans (queues .punch)
  obtain ⟨cells, _, free⟩ := pushRun_counts (st := x.cs) (n := .print) (run := r.print) (by rw [print]; omega)
  rw [print] at cells free
  obtain ⟨cells', _, free'⟩ := pushRun_counts (st := x.cs.pushRun .print r.print) (n := .punch) (run := r.punch)
    (by rw [punch, free, List.length_drop]; omega)
  rw [punch] at cells' free'
  have kept : ((x.cs.pushRun .print r.print).pushRun .punch r.punch).queue .print = (x.cs.pushRun .print r.print).queue .print :=
    Store.queue_pushRun_ne r.punch (by decide)
  refine ⟨?_, ?_, ?_⟩
  · exact (markStart_same _ party r.print).1.trans ((congrArg Queue.cellCount kept).trans cells)
  · exact (markStart_same _ party r.punch).1.trans cells'
  · show more ≤ ((x.cs.pushRun .print r.print).pushRun .punch r.punch).free.length
    rw [free', free, List.length_drop, List.length_drop]
    omega

/-- The marks, and the record of SEND, whatever the stack has. -/
theorem marks_deliveryPushed {r : TextRuns} {s x : State} (party : Station)
    (queues : ∀ m, x.cs.queue m = s.cs.queue m) {print punch : Bool} {first second : List Cell}
    (plainPrint : ∀ c ∈ first, ∃ r o, c = .character r o) (plainPunch : ∀ c ∈ second, ∃ r o, c = .character r o)
    (isPrint : r.print = if print then withStart s.cs.print party first else [])
    (isPunch : r.punch = if punch then withStart s.cs.punch party second else []) :
    let u := deliveryPushed r party x
    u.cs.print.openMark =
        (if r.print ≠ [] ∧ s.cs.print.openMark = none then some party else s.cs.print.openMark)
      ∧ u.cs.punch.openMark =
        (if r.punch ≠ [] ∧ s.cs.punch.openMark = none then some party else s.cs.punch.openMark)
      ∧ u.cs.send = s.cs.send := by
  have first' : (((x.cs.pushRun .print r.print).pushRun .punch r.punch).queue .print).openMark = s.cs.print.openMark := by
    obtain ⟨_, mark, _⟩ := x.cs.pushRun_fixed .print r.print
    rw [Store.queue_pushRun_ne (n := .punch) (m := .print) r.punch (by decide), mark, queues .print]
    rfl
  have second' : (((x.cs.pushRun .print r.print).pushRun .punch r.punch).queue .punch).openMark = s.cs.punch.openMark := by
    obtain ⟨_, mark, _⟩ := (x.cs.pushRun .print r.print).pushRun_fixed .punch r.punch
    rw [mark, Store.queue_pushRun_ne (n := .print) (m := .punch) r.print (by decide), queues .punch]
    rfl
  refine ⟨openMark_textRun first' party print plainPrint isPrint, openMark_textRun second' party punch plainPunch isPunch, ?_⟩
  exact (Store.queue_pushRun_ne (n := .punch) (m := .send) r.punch (by decide)).trans
    ((Store.queue_pushRun_ne (n := .print) (m := .send) r.print (by decide)).trans (queues .send))

theorem OneHolder.marked {st : Store} {file : List FileRecord} (one : OneHolder st file) (n : QueueName) (party : Station)
    (run : List Cell) :
    OneHolder (st.setQueue n (markStart (st.queue n) party run)) file
      ∧ (∀ m, (st.setQueue n (markStart (st.queue n) party run)).queueCells m = st.queueCells m)
      ∧ ∀ x ∈ file, ∀ i, (st.setQueue n (markStart (st.queue n) party run)).chainCell x.chain i = st.chainCell x.chain i := by
  obtain ⟨_, _, m, eq⟩ := markStart_same (st.queue n) party run
  rw [eq]
  obtain ⟨whole, keeps, cells⟩ := OneHolder.setQueue (q := { st.queue n with openMark := m }) one rfl
  refine ⟨whole, fun k => ?_, keeps.2⟩
  by_cases same : k = n
  · rw [same]; exact cells
  · exact keeps.1 k same

/-- What the queues and the chains hold once the runs are in, where every block has its one holder. -/
theorem deliveryPushed_cells {r : TextRuns} {s x : State} (party : Station) (queues : ∀ m, x.cs.queue m = s.cs.queue m)
    (one : OneHolder x.cs x.au.file)
    (enough : s.cs.print.blocksNeeded r.print + s.cs.punch.blocksNeeded r.punch ≤ x.cs.free.length) :
    let u := deliveryPushed r party x
    OneHolder u.cs x.au.file
      ∧ u.cs.queueCells .print = x.cs.queueCells .print ++ r.print
      ∧ u.cs.queueCells .punch = x.cs.queueCells .punch ++ r.punch
      ∧ u.cs.queueCells .send = x.cs.queueCells .send
      ∧ ∀ y ∈ x.au.file, ∀ i, u.cs.chainCell y.chain i = x.cs.chainCell y.chain i := by
  have print : x.cs.queue .print = s.cs.print := queues .print
  have punch : (x.cs.pushRun .print r.print).queue .punch = s.cs.punch :=
    (Store.queue_pushRun_ne r.print (by decide)).trans (queues .punch)
  have enoughPrint : (x.cs.queue .print).blocksNeeded r.print ≤ x.cs.free.length := by rw [print]; omega
  obtain ⟨_, _, free⟩ := pushRun_counts enoughPrint
  obtain ⟨one1, others1, chains1⟩ := one.pushRun .print r.print
  have cells1 := one.queueCells_pushRun enoughPrint
  have enoughPunch : ((x.cs.pushRun .print r.print).queue .punch).blocksNeeded r.punch
      ≤ (x.cs.pushRun .print r.print).free.length := by rw [punch, free, List.length_drop, print]; omega
  obtain ⟨one2, others2, chains2⟩ := one1.pushRun .punch r.punch
  have cells2 := one1.queueCells_pushRun enoughPunch
  obtain ⟨one3, cells3, chains3⟩ := one2.marked .print party r.print
  obtain ⟨one4, cells4, chains4⟩ := one3.marked .punch party r.punch
  have store : (deliveryPushed r party x).cs = _ := cs_deliveryPushed r party x
  dsimp only
  rw [store]
  refine ⟨one4, ?_, ?_, ?_, fun y mem i => ?_⟩
  · exact (cells4 .print).trans ((cells3 .print).trans ((others2 .print (by decide)).trans cells1))
  · exact (cells4 .punch).trans ((cells3 .punch).trans (cells2.trans (by rw [others1 .punch (by decide)])))
  · exact (cells4 .send).trans ((cells3 .send).trans ((others2 .send (by decide)).trans (others1 .send (by decide))))
  · exact (chains4 y mem i).trans ((chains3 y mem i).trans ((chains2 y mem i).trans (chains1 y mem i)))

/-! ### The file run (R65, R169, R170) -/

theorem recordIn_of_mem {s : State} {z : FileRecord} (slots : (s.au.file.map FileRecord.slot).Nodup) (mem : z ∈ s.au.file) :
    recordIn s z.slot = some z := by
  cases found : recordIn s z.slot with
  | none => exact absurd (List.find?_eq_none.mp found z mem) (by simp)
  | some r =>
    obtain ⟨inside, same⟩ := recordIn_mem found
    exact congrArg some (List.inj_on_of_nodup_map slots inside mem same)

/-- The record with its run and its gaps in (R65). -/
def FileRecord.grown (z : FileRecord) (ch : Chain) (lost : Nat) : FileRecord :=
  { z with chain := ch, gapCount := min 255 (z.gapCount + lost) }

/-- The file run goes into the record that the call links. -/
theorem appendFile_linked {run : List Cell} {lost : Nat} {s : State} {z : FileRecord}
    (link : s.cm.call.fileLink = some z.slot) (found : recordIn s z.slot = some z) :
    appendFile run lost s =
      updateRecord z.slot (fun x => x.grown (s.cs.pushChainRun z.chain run).2 lost)
        { s with cs := (s.cs.pushChainRun z.chain run).1 } := by
  simp only [appendFile, link, found]
  rfl

theorem appendFile_cases (run : List Cell) (lost : Nat) (s : State) :
    appendFile run lost s = s
      ∨ ∃ z ∈ s.au.file, appendFile run lost s =
        updateRecord z.slot (fun x => x.grown (s.cs.pushChainRun z.chain run).2 lost)
          { s with cs := (s.cs.pushChainRun z.chain run).1 } := by
  cases link : s.cm.call.fileLink with
  | none => exact .inl (by simp only [appendFile, link])
  | some slot =>
    cases found : recordIn s slot with
    | none => exact .inl (by simp only [appendFile, link, found])
    | some z =>
      obtain ⟨mem, rfl⟩ := recordIn_mem found
      exact .inr ⟨z, mem, appendFile_linked link found⟩

/-- What a file run changes: the chain and the gap count of one record, and no queue. -/
theorem appendFile_rest (run : List Cell) (lost : Nat) (s : State) :
    let t := appendFile run lost s
    t = { s with cs := t.cs, au.file := t.au.file } ∧ (∀ m, t.cs.queue m = s.cs.queue m)
      ∧ t.au.file.map FileRecord.number = s.au.file.map FileRecord.number
      ∧ (OneHolder s.cs s.au.file → OneHolder t.cs t.au.file ∧ ∀ m, t.cs.queueCells m = s.cs.queueCells m) := by
  dsimp only
  rcases appendFile_cases run lost s with same | ⟨z, mem, eq⟩
  · rw [same]
    exact ⟨rfl, fun _ => rfl, rfl, fun one => ⟨one, fun _ => rfl⟩⟩
  · rw [eq]
    refine ⟨rfl, fun m => Store.queue_pushChainRun s.cs z.chain run m, ?_, fun one => ?_⟩
    · refine List.map_map.trans (List.map_congr_left fun x _ => ?_)
      simp only [Function.comp]
      split <;> rfl
    · refine ⟨Move.keeps_oneHolder (Move.fileRun s.cs s.au.file z mem run
        (fun x => x.grown (s.cs.pushChainRun z.chain run).2 lost) fun x => ⟨rfl, rfl⟩) one, ?_⟩
      obtain ⟨a, b, split⟩ := List.append_of_mem mem
      rw [split] at one
      obtain ⟨_, keeps, _⟩ := one.pushChainRun run
      exact keeps

/-- A file run whose blocks stand on the stack follows what its record's chain held. -/
theorem appendFile_grows {run : List Cell} (lost : Nat) {s : State} {z : FileRecord} (one : OneHolder s.cs s.au.file)
    (mem : z ∈ s.au.file) (link : s.cm.call.fileLink = some z.slot)
    (enough : z.chain.blocksNeeded run ≤ s.cs.free.length) :
    let t := appendFile run lost s
    ∃ ch, z.grown ch lost ∈ t.au.file ∧ ch.count = z.chain.count + run.length
      ∧ (∀ i, i < z.chain.count → t.cs.chainCell ch i = s.cs.chainCell z.chain i)
      ∧ ∀ i, i < run.length → t.cs.chainCell ch (z.chain.count + i) = run[i]? := by
  dsimp only
  rw [appendFile_linked link (recordIn_of_mem one.slots mem)]
  obtain ⟨a, b, split⟩ := List.append_of_mem mem
  rw [split] at one
  obtain ⟨count, old, new⟩ := one.chainCells_pushChainRun enough
  exact ⟨(s.cs.pushChainRun z.chain run).2, List.mem_map.mpr ⟨z, mem, if_pos rfl⟩, count, old, new⟩

/-! ### The delivery (R21, R22, R66) -/

theorem reclaimFor_rest (needed k : Nat) (s : State) :
    reclaimFor needed k s = { s with cs := (reclaimFor needed k s).cs, au.file := (reclaimFor needed k s).au.file } := by
  induction k generalizing s with
  | zero => rfl
  | succ k ih =>
    unfold reclaimFor
    split
    · rfl
    · split
      · rw [ih]; rfl
      · rfl

theorem deliveryReady_rest (e : Route) (r : TextRuns) (s : State) :
    deliveryReady e r s = { openedFor e s with
      cs := (deliveryReady e r s).cs, au.file := (deliveryReady e r s).au.file } := by
  rw [deliveryReady_eq]
  split
  · exact reclaimFor_rest _ _ _
  · rfl

/-- What a delivery changes: the store, the file, and, where a record opens, the next number and the call's file link. -/
theorem deliver_rest (e : Route) (r : TextRuns) (party : Station) (lost : Nat) (s : State) :
    deliver e r party lost s = { openedFor e s with
      cs := (deliver e r party lost s).cs, au.file := (deliver e r party lost s).au.file } := by
  have pushed : deliveryPushed r party (deliveryReady e r s) = { openedFor e s with
      cs := (deliveryPushed r party (deliveryReady e r s)).cs
      au.file := (deliveryReady e r s).au.file } := by
    unfold deliveryPushed
    rw [deliveryReady_rest]
  rw [deliver_eq]
  split
  · rw [(appendFile_rest r.file lost _).1, pushed]
  · rw [pushed]

theorem openedFor_rest (e : Route) (s : State) :
    openedFor e s = { s with
      cs := (openedFor e s).cs, au.file := (openedFor e s).au.file, au.nextNumber := (openedFor e s).au.nextNumber
      cm.call.fileLink := (openedFor e s).cm.call.fileLink } := by
  by_cases file : e.file = true
  · obtain ⟨gone, new, refiled, _⟩ := openedFor_refiled s file
    exact refiled.rest
  · unfold openedFor
    rw [if_neg fun h => file h.1]

/-- FILE is an effective destination only where it is available (R61 to R63). -/
theorem fileAvailable_of_effective {s : State} (file : (effective s).file = true) : fileAvailable s = true := by
  unfold effective availableIn at file
  cases attended : s.au.attendance <;> simp [attended] at file
  · exact file.1.2
  · exact file.2

theorem slotFree_of_available {s : State} (available : fileAvailable s = true) (link : s.cm.call.fileLink = none) :
    slotFree s = true := by
  simp only [fileAvailable, link, Option.isSome_none, Bool.false_or, Bool.and_eq_true] at available
  exact available.2

theorem deliveryPasses_iff (s : State) (e : Route) (r : TextRuns) :
    deliveryPasses s e r = true ↔
      s.cs.print.blockCount + s.cs.print.blocksNeeded r.print ≤ s.cs.print.limit
        ∧ s.cs.punch.blockCount + s.cs.punch.blocksNeeded r.punch ≤ s.cs.punch.limit
        ∧ reservePasses .respect (s.cs.free.length + (if e.file then reclaimable s else 0)) (deliveryBlocks s r) = true := by
  simp only [deliveryPasses, Bool.and_eq_true, Queue.limitPasses, decide_eq_true_eq, and_assoc]
  exact Iff.rfl

/-- The blocks of all the runs stand on the stack (R21, R22). -/
theorem deliveryReady_blocks {e : Route} {r : TextRuns} {s : State} (passes : deliveryPasses s e r = true)
    (sure : e.file = false ∨ deliveryBlocks s r + 5 ≤ s.cs.free.length ∨ OneHolder s.cs s.au.file) :
    deliveryBlocks s r ≤ (deliveryReady e r s).cs.free.length := by
  obtain ⟨_, _, reserve⟩ := (deliveryPasses_iff s e r).mp passes
  refine enough_of_reserve (c := .respect) ?_
  cases file : e.file with
  | false =>
    rw [deliveryReady_of_not_file file]
    simpa [file] using reserve
  | true =>
    rw [file, if_pos rfl] at reserve
    rcases sure with off | enough | one
    · rw [file] at off; cases off
    · exact deliveryReady_enough ((respect_iff _ _).mpr (.inr enough))
    · obtain ⟨_, _, _, ready, _⟩ := deliveryReady_refiled one file reserve
      exact ready

/-- A delivery's queues are those once its runs are in: the file run changes none. -/
theorem deliver_queue (e : Route) (r : TextRuns) (party : Station) (lost : Nat) (s : State) (m : QueueName) :
    (deliver e r party lost s).cs.queue m = (deliveryPushed r party (deliveryReady e r s)).cs.queue m := by
  rw [deliver_eq]
  split
  · obtain ⟨_, queues, _⟩ := appendFile_rest r.file lost (deliveryPushed r party (deliveryReady e r s))
    exact queues m
  · rfl

/-- The counts after a delivery (R66). -/
theorem deliver_counts {e : Route} {r : TextRuns} {s : State} (party : Station) (lost : Nat)
    (passes : deliveryPasses s e r = true)
    (sure : e.file = false ∨ deliveryBlocks s r + 5 ≤ s.cs.free.length ∨ OneHolder s.cs s.au.file) :
    (deliver e r party lost s).cs.print.cellCount = s.cs.print.cellCount + r.print.length
      ∧ (deliver e r party lost s).cs.punch.cellCount = s.cs.punch.cellCount + r.punch.length := by
  obtain ⟨print, punch, _⟩ := deliveryPushed_queues (r := r) party (queue_deliveryReady e r s)
    (deliveryReady_blocks passes sure)
  exact ⟨(congrArg Queue.cellCount (deliver_queue e r party lost s .print)).trans print,
    (congrArg Queue.cellCount (deliver_queue e r party lost s .punch)).trans punch⟩

/-- The marks after a delivery, and SEND (R26, R66). -/
theorem deliver_marks (s : State) (e : Route) (party : Station) (lost : Nat) (text : List Resolved) :
    let r := textRuns s e party lost text
    let d := deliver e r party lost s
    d.cs.print.openMark = (if r.print ≠ [] ∧ s.cs.print.openMark = none then some party else s.cs.print.openMark)
      ∧ d.cs.punch.openMark = (if r.punch ≠ [] ∧ s.cs.punch.openMark = none then some party else s.cs.punch.openMark)
      ∧ d.cs.send = s.cs.send := by
  intro r d
  have plainPunch : ∀ c ∈ cellsOf .line text, ∃ r o, c = .character r o := fun c mem =>
    characters_gapRun 0 text c (List.mem_append_right _ mem)
  obtain ⟨print, punch, send⟩ := marks_deliveryPushed (r := r) party (queue_deliveryReady e r s)
    (characters_gapRun lost text) plainPunch rfl rfl
  exact ⟨(congrArg Queue.openMark (deliver_queue e r party lost s .print)).trans print,
    (congrArg Queue.openMark (deliver_queue e r party lost s .punch)).trans punch,
    (deliver_queue e r party lost s .send).trans send⟩

/-- What a delivery makes ready, in a store with one holder for each block: the queues and the chains that stay hold what they
held. -/
theorem deliveryReady_held {e : Route} {r : TextRuns} {s : State} (passes : deliveryPasses s e r = true)
    (one : OneHolder s.cs s.au.file) :
    OneHolder (deliveryReady e r s).cs (deliveryReady e r s).au.file
      ∧ ∀ n, (deliveryReady e r s).cs.queueCells n = s.cs.queueCells n := by
  obtain ⟨_, _, reserve⟩ := (deliveryPasses_iff s e r).mp passes
  cases file : e.file with
  | false => rw [deliveryReady_of_not_file file]; exact ⟨one, fun _ => rfl⟩
  | true =>
    rw [file, if_pos rfl] at reserve
    obtain ⟨_, _, refiled, _⟩ := deliveryReady_refiled one file reserve
    obtain ⟨whole, _, cells, _⟩ := refiled.oneHolder one
    exact ⟨whole, cells⟩

/-- PRINT and PUNCH hold their runs after what they held, and SEND what it held (R66). -/
theorem deliver_cells {e : Route} {r : TextRuns} {s : State} (party : Station) (lost : Nat)
    (passes : deliveryPasses s e r = true) (one : OneHolder s.cs s.au.file) :
    (deliver e r party lost s).cs.queueCells .print = s.cs.queueCells .print ++ r.print
      ∧ (deliver e r party lost s).cs.queueCells .punch = s.cs.queueCells .punch ++ r.punch
      ∧ (deliver e r party lost s).cs.queueCells .send = s.cs.queueCells .send := by
  have blocks := deliveryReady_blocks passes (.inr (.inr one))
  obtain ⟨ready, cells⟩ := deliveryReady_held passes one
  obtain ⟨pushed, print, punch, send, _⟩ := deliveryPushed_cells (r := r) party (queue_deliveryReady e r s) ready
    (by unfold deliveryBlocks at blocks; omega)
  rw [cells] at print punch send
  have same (n : QueueName) : (deliver e r party lost s).cs.queueCells n =
      (deliveryPushed r party (deliveryReady e r s)).cs.queueCells n := by
    rw [deliver_eq]
    split
    · obtain ⟨_, _, _, held⟩ := appendFile_rest r.file lost (deliveryPushed r party (deliveryReady e r s))
      exact (held pushed).2 n
    · rfl
  exact ⟨(same .print).trans print, (same .punch).trans punch, (same .send).trans send⟩

/-! ### The file after a delivery (R22, R65, R169, R170) -/

/-- The record that the call links takes the file run; an OPEN one stays through what goes, and a new one opens where there is
none. -/
theorem deliver_grows {e : Route} {r : TextRuns} {s : State} (party : Station) (lost : Nat) (file : e.file = true)
    (passes : deliveryPasses s e r = true) (one : OneHolder s.cs s.au.file) {z : FileRecord}
    (mem : z ∈ (deliveryReady e r s).au.file) (link : (deliveryReady e r s).cm.call.fileLink = some z.slot)
    (chain : targetChain s = z.chain) :
    ∃ ch, z.grown ch lost ∈ (deliver e r party lost s).au.file ∧ ch.count = z.chain.count + r.file.length
      ∧ (∀ i, i < z.chain.count →
          (deliver e r party lost s).cs.chainCell ch i = (deliveryReady e r s).cs.chainCell z.chain i)
      ∧ ∀ i, i < r.file.length → (deliver e r party lost s).cs.chainCell ch (z.chain.count + i) = r.file[i]? := by
  have blocks := deliveryReady_blocks passes (.inr (.inr one))
  obtain ⟨ready, _⟩ := deliveryReady_held passes one
  obtain ⟨_, _, enough⟩ := deliveryPushed_queues (r := r) party (queue_deliveryReady e r s) blocks
  obtain ⟨pushed, _, _, _, chains⟩ := deliveryPushed_cells (r := r) party (queue_deliveryReady e r s) ready
    (by unfold deliveryBlocks at blocks; omega)
  rw [chain] at enough
  obtain ⟨ch, inside, count, old, new⟩ := appendFile_grows (run := r.file) lost
    (s := deliveryPushed r party (deliveryReady e r s)) pushed mem link enough
  rw [deliver_eq, if_pos file]
  exact ⟨ch, inside, count, fun i small => (old i small).trans (chains z mem i), new⟩

theorem not_gone {file gone : List FileRecord} (slots : (file.map FileRecord.slot).Nodup) (oldest : gone <+: printedOf file)
    {x : FileRecord} (mem : x ∈ file) : x.slot ∈ gone.map FileRecord.slot ↔ x ∈ gone := by
  refine ⟨fun same => ?_, fun inside => List.mem_map_of_mem inside⟩
  obtain ⟨y, inside, e⟩ := List.mem_map.mp same
  exact List.inj_on_of_nodup_map slots (mem_of_oldest oldest y inside) mem e ▸ inside

/-- The call's OPEN record after a delivery to FILE (R65, R170). -/
theorem deliver_linked {e : Route} {r : TextRuns} {s : State} (party : Station) (lost : Nat) (file : e.file = true)
    (passes : deliveryPasses s e r = true) (one : OneHolder s.cs s.au.file) {x : FileRecord}
    (link : s.cm.call.fileLink = some x.slot) (mem : x ∈ s.au.file) (state : x.state = .opened) :
    (deliver e r party lost s).cm.call.fileLink = some x.slot
      ∧ ∃ ch, x.grown ch lost ∈ (deliver e r party lost s).au.file ∧ ch.count = x.chain.count + r.file.length
        ∧ (∀ i, i < x.chain.count → (deliver e r party lost s).cs.chainCell ch i = s.cs.chainCell x.chain i)
        ∧ ∀ i, i < r.file.length → (deliver e r party lost s).cs.chainCell ch (x.chain.count + i) = r.file[i]? := by
  obtain ⟨_, _, reserve⟩ := (deliveryPasses_iff s e r).mp passes
  rw [file, if_pos rfl] at reserve
  obtain ⟨gone, new, refiled, _⟩ := deliveryReady_refiled one file reserve
  have some : s.cm.call.fileLink ≠ none := by rw [link]; nofun
  obtain ⟨_, linked, _⟩ := refiled.linked some
  have stays : x.slot ∉ gone.map FileRecord.slot := by
    rw [not_gone one.slots refiled.oldest mem]
    intro inside
    have printed := (List.mem_filter.mp (refiled.oldest.subset inside)).2
    simp [FileRecord.isPrinted, FileRecord.isClosed, state] at printed
  have there : x ∈ (deliveryReady e r s).au.file := by
    rw [refiled.file]
    exact List.mem_append_left _ (List.mem_filter.mpr ⟨mem, decide_eq_true stays⟩)
  obtain ⟨_, _, _, chains⟩ := refiled.oneHolder one
  have target : targetChain s = x.chain := by
    simp only [targetChain, link, recordIn_of_mem one.slots mem]
  obtain ⟨ch, inside, count, old, new⟩ := deliver_grows party lost file passes one there (linked.trans link) target
  refine ⟨?_, ch, inside, count, fun i small => (old i small).trans (chains x mem stays i), new⟩
  rw [deliver_rest, openedFor, if_neg fun h => some h.2]
  exact link

/-- Where FILE is wanted and no record linked, one opens, whatever the store (R169). -/
theorem deliver_opens (e : Route) (r : TextRuns) (party : Station) (lost : Nat) {s : State} (file : e.file = true)
    (link : s.cm.call.fileLink = none) (room : slotFree s = true) :
    ∃ slot, (deliver e r party lost s).cm.call.fileLink = some slot
      ∧ (deliver e r party lost s).au.nextNumber = numberAfter s.au.nextNumber := by
  obtain ⟨_, _, refiled, _⟩ := openedFor_refiled s file
  obtain ⟨slot, _, linked, number⟩ := refiled.opened link room
  rw [deliver_rest]
  exact ⟨slot, linked, number⟩

/-- The record that opens, with its file run (R65, R169). -/
theorem deliver_opened {e : Route} {r : TextRuns} {s : State} (party : Station) (lost : Nat) (file : e.file = true)
    (passes : deliveryPasses s e r = true) (one : OneHolder s.cs s.au.file) (link : s.cm.call.fileLink = none)
    (room : slotFree s = true) :
    ∃ slot ch, (deliver e r party lost s).cm.call.fileLink = some slot
      ∧ (newRecord slot s).grown ch lost ∈ (deliver e r party lost s).au.file ∧ ch.count = r.file.length
      ∧ ∀ i, i < r.file.length → (deliver e r party lost s).cs.chainCell ch i = r.file[i]? := by
  obtain ⟨_, _, reserve⟩ := (deliveryPasses_iff s e r).mp passes
  rw [file, if_pos rfl] at reserve
  obtain ⟨gone, new, refiled, _⟩ := deliveryReady_refiled one file reserve
  obtain ⟨slot, is, linked, _⟩ := refiled.opened link room
  have there : newRecord slot s ∈ (deliveryReady e r s).au.file := by
    rw [refiled.file, is]
    simp
  have target : targetChain s = (newRecord slot s).chain := by simp only [targetChain, link]; rfl
  obtain ⟨ch, inside, count, _, cells⟩ := deliver_grows party lost file passes one there linked target
  have none : (newRecord slot s).chain.count = 0 := rfl
  rw [none, Nat.zero_add] at count
  refine ⟨slot, ch, ?_, inside, count, fun i small => ?_⟩
  · have same : (deliver e r party lost s).cm.call.fileLink = (deliveryReady e r s).cm.call.fileLink := by
      rw [deliver_rest, deliveryReady_rest]
    rw [same]
    exact linked
  · have cell := cells i small
    rwa [none, Nat.zero_add] at cell

/-- The records that go for a delivery to FILE, and the file's order after it (R22, R169). -/
theorem deliver_gone {e : Route} {r : TextRuns} {s : State} (party : Station) (lost : Nat) (file : e.file = true)
    (passes : deliveryPasses s e r = true) (one : OneHolder s.cs s.au.file)
    (room : s.cm.call.fileLink = none → slotFree s = true) :
    ∃ gone, gone <+: printedOf s.au.file
      ∧ (deliver e r party lost s).au.file.map FileRecord.number =
          (s.au.file.filter fun x => decide (x ∉ gone)).map FileRecord.number
            ++ (if s.cm.call.fileLink = none then [s.au.nextNumber] else [])
      ∧ ∀ before x, gone = before ++ [x] →
          deliveryBlocks s r ≠ 0
              ∧ s.cs.free.length + (before.map fun z => z.chain.blockCount).sum < deliveryBlocks s r + 5
            ∨ before = [] ∧ s.cm.call.fileLink = none ∧ s.au.file.length = 24 := by
  obtain ⟨_, _, reserve⟩ := (deliveryPasses_iff s e r).mp passes
  rw [file, if_pos rfl] at reserve
  obtain ⟨gone, new, refiled, _, why⟩ := deliveryReady_refiled one file reserve
  obtain ⟨_, _, numbers, _⟩ := appendFile_rest r.file lost (deliveryPushed r party (deliveryReady e r s))
  refine ⟨gone, refiled.oldest, ?_, why⟩
  rw [deliver_eq, if_pos file, numbers, show (deliveryPushed r party (deliveryReady e r s)).au.file = _ from refiled.file,
    List.map_append]
  congr 1
  · refine congrArg (List.map FileRecord.number) (List.filter_congr fun x mem => ?_)
    rw [decide_eq_decide, not_gone one.slots refiled.oldest mem]
  · by_cases link : s.cm.call.fileLink = none
    · obtain ⟨slot, is, _⟩ := refiled.opened link (room link)
      rw [if_pos link, is]
      rfl
    · obtain ⟨is, _⟩ := refiled.linked link
      rw [if_neg link, is]
      rfl

/-! ### What follows a delivery in the same act (R27, R172) -/

/-- The test for FOLLOW sets a flag of a record, and the cursor (R172). -/
theorem followTest_rest (s : State) :
    ∃ f : FileRecord → FileRecord, (∀ x, ∃ b, f x = { x with printStarted := b })
      ∧ followTest s = { s with au.file := s.au.file.map f, au.cursor := (followTest s).au.cursor } := by
  unfold followTest
  split
  · rename_i r _
    refine ⟨fun x => if x.slot = r.slot then { x with printStarted := true } else x, fun x => ?_, rfl⟩
    dsimp only
    split
    · exact ⟨true, rfl⟩
    · exact ⟨x.printStarted, rfl⟩
  · exact ⟨id, fun x => ⟨x.printStarted, rfl⟩, by rw [List.map_id]⟩

/-- A field that block events leave is the first one's. -/
theorem signal_field {α : Type} (f : State → α) (hidden : ∀ u, f (storeCore u) = f u) (released taken : Bool) (s : State) :
    f (signal released taken s) = f s := by rw [← hidden, storeCore_signal, hidden]

/-- `settle` leaves what each queue holds: a TEXT formed only counts its cells in flight (R24). -/
theorem cells_settle (s : State) (n : QueueName) : (settle s).cs.queueCells n = s.cs.queueCells n := by
  cases n with
  | send =>
    unfold settle
    split
    · obtain ⟨m, demand⟩ := refreshDemand_eq (formText s)
      rw [demand]
      by_cases forms : formsText s
      · rw [formText_of_forms forms]
        exact queueCells_congr rfl rfl rfl rfl rfl
      · rw [formText_of_not_forms forms]
    · rfl
  | print => exact queueCells_settle s (by decide)
  | punch => exact queueCells_settle s (by decide)

/-- What a TEXT taken leaves, where `d` is its delivery: block events, a FOLLOW that begins, and the settling of the command
leave the store's contents, the marks and the counts, the records but for their print-started flags, and the call's record
but for its holds. -/
structure AfterDelivery (d u : State) : Prop where
  print : u.cs.print = d.cs.print
  punch : u.cs.punch = d.cs.punch
  sendCount : u.cs.send.cellCount = d.cs.send.cellCount
  cells : ∀ n, u.cs.queueCells n = d.cs.queueCells n
  chains : ∀ ch i, u.cs.chainCell ch i = d.cs.chainCell ch i
  file : ∃ f : FileRecord → FileRecord, (∀ x, ∃ b, f x = { x with printStarted := b }) ∧ u.au.file = d.au.file.map f
  nextNumber : u.au.nextNumber = d.au.nextNumber
  state : u.cm.call.state = d.cm.call.state
  link : u.cm.call.fileLink = d.cm.call.fileLink
  sendSeq : u.cm.call.sendSeq = d.cm.call.sendSeq
  recvSeq : u.cm.call.recvSeq = d.cm.call.recvSeq
  editStack : u.ku.editStack = d.ku.editStack
  fifo : u.ku.fifo = d.ku.fifo

/-- What follows the delivery of a TEXT taken at its Turn. -/
theorem afterDelivery (released taken opened : Bool) (receive : Receive) (d : State) :
    AfterDelivery d (settle
      { (if opened then followTest (signal released taken d) else signal released taken d) with lu.receive := receive }) := by
  generalize signalled : signal released taken d = x
  have cs : x.cs = d.cs := by rw [← signalled, cs_signal]
  have file : x.au.file = d.au.file := by
    rw [← signalled]; exact signal_field (fun u => u.au.file) (fun _ => rfl) released taken d
  have field {α : Type} (f : State → α) (hidden : ∀ u, f (storeCore u) = f u) : f x = f d := by
    rw [← signalled]; exact signal_field f hidden released taken d
  obtain ⟨f, flag, follows⟩ := followTest_rest x
  have after : ∃ g : FileRecord → FileRecord, ∃ c, (∀ y, ∃ b, g y = { y with printStarted := b })
      ∧ (if opened then followTest x else x) = { x with au.file := x.au.file.map g, au.cursor := c } := by
    cases opened with
    | true => exact ⟨f, _, flag, follows⟩
    | false => exact ⟨id, x.au.cursor, fun y => ⟨y.printStarted, rfl⟩, by rw [List.map_id]; rfl⟩
  obtain ⟨g, c, flags, eq⟩ := after
  rw [eq]
  generalize whole :
    ({ ({ x with au.file := x.au.file.map g, au.cursor := c } : State) with lu.receive := receive } : State) = y
  have from_y : y.cs = x.cs ∧ y.au.file = x.au.file.map g ∧ y.au.nextNumber = x.au.nextNumber ∧ y.cm = x.cm ∧ y.ku = x.ku := by
    subst whole; exact ⟨rfl, rfl, rfl, rfl, rfl⟩
  obtain ⟨cs', file', number', cm', ku'⟩ := from_y
  refine ⟨?_, ?_, ?_, fun n => ?_, fun ch i => ?_, ⟨g, flags, ?_⟩, ?_, ?_, ?_, ?_, ?_, ?_, ?_⟩
  · rw [settle_print, cs', cs]
  · rw [settle_punch, cs', cs]
  · rw [settle_sendCells, cs', cs]
  · rw [cells_settle, cs', cs]
  · rw [chainCell_congr (settle_cells y) (settle_links y), cs', cs]
  · rw [settle_au, file', file]
  · rw [settle_au, number']; exact field (fun u => u.au.nextNumber) fun _ => rfl
  · rw [settle_call, cm']; exact field (fun u => u.cm.call.state) fun _ => rfl
  · rw [settle_call, cm']; exact field (fun u => u.cm.call.fileLink) fun _ => rfl
  · rw [settle_call, cm']; exact field (fun u => u.cm.call.sendSeq) fun _ => rfl
  · rw [settle_call, cm']; exact field (fun u => u.cm.call.recvSeq) fun _ => rfl
  · rw [settle_ku, ku']; exact field (fun u => u.ku.editStack) fun _ => rfl
  · rw [settle_ku, ku']; exact field (fun u => u.ku.fifo) fun _ => rfl

/-! ### The Turn of a TEXT (R64 to R66) -/

theorem textIsForUs_iff (s : State) (t : Telegram) :
    textIsForUs s t = true ↔
      s.cm.call.state = .opened ∧ s.cm.call.partyStation = some t.source ∧ isGroupCaller s.cm.call = false
        ∧ (t.destination = addrOf s.cl.station
          ∨ s.cm.call.role = some .member ∧ t.destination = s.cm.call.callAddr) := by
  cases group : isGroupCaller s.cm.call with
  | true => simp [textIsForUs, group]
  | false =>
    simp only [textIsForUs, isParty, group, Bool.and_eq_true, Bool.or_eq_true, decide_eq_true_eq, Bool.false_eq_true,
      if_false, Bool.not_false, and_true, true_and, and_assoc]
    exact Iff.rfl

/-- What the Turn of a TEXT comes to: what acceptance leaves, and the telegram framed with its result. -/
theorem telegramTurn_text {s : State} {t : Telegram} (waits : awaitsTurn s) (whole : unbroken (framedUnits t) s)
    (kind : validKind t = some .text) (joined : s.lu.joinState = .joined) (clear : s.lu.condition = .clear)
    (window : windowFor s t.destination ≠ none) :
    let a := acceptText t (lineResolve (unshift s) t.text) (countUnits (framedUnits t) s)
    exec (.telegramTurn t) s = .next (settle { a.2 with
      lu.receive := .framing false false (some ⟨t, lineResolve (unshift s) t.text, resultTakes a.1, .text a.1⟩) }) := by
  obtain ⟨w, receive⟩ := waits
  obtain ⟨i, found⟩ := Option.ne_none_iff_exists'.mp window
  have undecided : framingUndecided s = some (false, w) := by simp [framingUndecided, receive]
  have takes : takesTelegrams (countUnits (framedUnits t) s) = true := by
    simp [takesTelegrams, countUnits, joined, clear]
  have found' : windowFor (countUnits (framedUnits t) s) t.destination = some i := found
  have decided : turnDecision .text t (countUnits (framedUnits t) s) =
      (let a := acceptText t (telegramRun (countUnits (framedUnits t) s) .text t) (countUnits (framedUnits t) s)
      (resultTakes a.1, .text a.1, a.2)) := by
    simp only [turnDecision, takes, isProbe, found']
    rfl
  rw [exec, execTelegramTurn, undecided, kind]
  dsimp only
  rw [readUnits_of_unbroken whole, turnHeard, decided]
  rfl

theorem seq_lost {a b : Seq} (other : b ≠ a) : (b - a - 1).toNat ≤ 6 := by
  revert a b
  decide

/-- Acceptance, case by case (R64, R66). -/
theorem acceptText_notForUs {t : Telegram} {run : List Resolved} {s : State} (apart : textIsForUs s t = false) :
    acceptText t run s = (.notForUs, s) := by simp [acceptText, apart]

theorem acceptText_duplicate {t : Telegram} {run : List Resolved} {s : State} (forUs : textIsForUs s t = true)
    (same : t.sequence = s.cm.call.recvSeq) : acceptText t run s = (.duplicate, s) := by
  simp [acceptText, forUs, classify, same]

theorem isEmpty_iff (e : Route) : e.isEmpty = true ↔ e = Route.none := by
  obtain ⟨print, punch, file⟩ := e
  cases print <;> cases punch <;> cases file <;> simp [Route.isEmpty, Route.none]

theorem acceptText_noDestination {t : Telegram} {run : List Resolved} {s : State} (forUs : textIsForUs s t = true)
    (other : t.sequence ≠ s.cm.call.recvSeq) (none : effective s = Route.none) :
    acceptText t run s = (.noDestination, s) := by
  simp only [acceptText, forUs, classify, if_neg other, if_true, (isEmpty_iff _).mpr none]

theorem acceptText_noSpace {t : Telegram} {run : List Resolved} {s : State} (forUs : textIsForUs s t = true)
    (other : t.sequence ≠ s.cm.call.recvSeq) (some : effective s ≠ Route.none)
    (fails : deliveryPasses s (effective s)
      (textRuns s (effective s) t.source (t.sequence - s.cm.call.recvSeq - 1).toNat run) = false) :
    acceptText t run s = (.noSpace, s) := by
  simp only [acceptText, forUs, classify, if_neg other, if_true, mt (isEmpty_iff _).mp some, fails, if_false,
    Bool.false_eq_true]

/-- A TEXT taken: its delivery, the last accepted sequence, the block events, and a FOLLOW test where a record opened. -/
theorem acceptText_taken {t : Telegram} {run : List Resolved} {s : State} (forUs : textIsForUs s t = true)
    (other : t.sequence ≠ s.cm.call.recvSeq) (some : effective s ≠ Route.none) :
    let lost := (t.sequence - s.cm.call.recvSeq - 1).toNat
    let r := textRuns s (effective s) t.source lost run
    deliveryPasses s (effective s) r = true →
    ∃ released opened : Bool, acceptText t run s =
      (.taken (effective s) (deliveryBlocks s r != 0),
        let after := signal released (deliveryBlocks s r != 0)
          { deliver (effective s) r t.source lost s with cm.call.recvSeq := t.sequence }
        if opened then followTest after else after) := by
  intro lost r passes
  refine ⟨s.cs.freeCount < (deliver (effective s) r t.source lost s).cs.freeCount + deliveryBlocks s r,
    s.cm.call.fileLink = none && (deliver (effective s) r t.source lost s).cm.call.fileLink ≠ none, ?_⟩
  simp only [acceptText, forUs, classify, if_neg other, if_true, mt (isEmpty_iff _).mp some, if_false, Bool.false_eq_true]
  rw [if_pos passes]

/-! ### The statement's parts -/

/-- The Turn of a TEXT taken: what `TurnOfAText` says of the state after it. -/
theorem turn_taken {s : State} {t : Telegram} (lost : Nat) (text : List Resolved) {d u : State}
    (sequence : Seq) (bound : lost ≤ 6)
    (opened : s.cm.call.state = .opened) (party : s.cm.call.partyStation = some t.source)
    (passes : deliveryPasses s (effective s) (textRuns s (effective s) t.source lost text) = true)
    (delivered : d = { deliver (effective s) (textRuns s (effective s) t.source lost text) t.source lost s with
      cm.call.recvSeq := sequence }) (after : AfterDelivery d u) :
    let e := effective s
    let r := textRuns s e t.source lost text
    u.cm.call.recvSeq = sequence ∧ u.cm.call.state = .opened ∧ u.cm.call.sendSeq = s.cm.call.sendSeq
      ∧ (e.file = false ∨ deliveryBlocks s r + 5 ≤ s.cs.free.length ∨ blocksHaveOneHolder s →
          u.cs.print.cellCount = s.cs.print.cellCount + r.print.length
            ∧ u.cs.punch.cellCount = s.cs.punch.cellCount + r.punch.length)
      ∧ (blocksHaveOneHolder s →
          u.cs.queueCells .print = s.cs.queueCells .print ++ r.print
            ∧ u.cs.queueCells .punch = s.cs.queueCells .punch ++ r.punch
            ∧ u.cs.queueCells .send = s.cs.queueCells .send)
      ∧ (∀ q run, (q = .print ∧ run = r.print) ∨ (q = .punch ∧ run = r.punch) →
          (u.cs.queue q).openMark =
            if run ≠ [] ∧ (s.cs.queue q).openMark = none then some t.source else (s.cs.queue q).openMark)
      ∧ (e.file = true → blocksHaveOneHolder s → fileInOrder s →
          (∀ x, s.cm.call.fileLink = some x.slot → x ∈ s.au.file → x.state = .opened →
            u.cm.call.fileLink = some x.slot
              ∧ ∃ y ∈ u.au.file, y.slot = x.slot ∧ y.chain.count = x.chain.count + r.file.length
                ∧ y.gapCount = min 255 (x.gapCount + lost)
                ∧ (∀ i, i < x.chain.count → u.cs.chainCell y.chain i = s.cs.chainCell x.chain i)
                ∧ ∀ i, i < r.file.length → u.cs.chainCell y.chain (x.chain.count + i) = r.file[i]?)
            ∧ (s.cm.call.fileLink = none →
              ∃ y ∈ u.au.file, u.cm.call.fileLink = some y.slot ∧ y.chain.count = r.file.length
                ∧ y.gapCount = lost ∧ y.number = s.au.nextNumber ∧ y.source = t.source
                ∧ y.destination = s.cm.call.callAddr ∧ y.state = .opened ∧ y.printed = false
                ∧ y.openedAt = s.au.clock
                ∧ ∀ i, i < r.file.length → u.cs.chainCell y.chain i = r.file[i]?)
            ∧ ∃ gone, gone <+: s.au.file.filter (fun x => decide (x.state ≠ .opened) && x.printed)
                ∧ u.au.file.map FileRecord.number =
                    (s.au.file.filter fun x => decide (x ∉ gone)).map FileRecord.number
                      ++ (if s.cm.call.fileLink = none then [s.au.nextNumber] else [])
                ∧ ∀ before x, gone = before ++ [x] →
                    deliveryBlocks s r ≠ 0
                        ∧ s.cs.free.length + (before.map fun z => z.chain.blockCount).sum
                            < deliveryBlocks s r + 5
                      ∨ before = [] ∧ s.cm.call.fileLink = none ∧ s.au.file.length = 24)
      ∧ u.cs.send.cellCount = s.cs.send.cellCount
      ∧ (e.file = true → s.cm.call.fileLink = none → fileAvailable s = true →
          u.cm.call.fileLink ≠ none ∧ u.au.nextNumber = numberAfter s.au.nextNumber)
      ∧ u.ku.editStack = s.ku.editStack ∧ u.ku.fifo = s.ku.fifo := by
  intro e r
  have cs : d.cs = (deliver e r t.source lost s).cs := by rw [delivered]
  have file : d.au = (deliver e r t.source lost s).au := by rw [delivered]
  have link : d.cm.call.fileLink = (deliver e r t.source lost s).cm.call.fileLink := by rw [delivered]
  have rest : d.cm.call.state = s.cm.call.state ∧ d.cm.call.sendSeq = s.cm.call.sendSeq ∧ d.ku = s.ku := by
    rw [delivered, deliver_rest, openedFor_rest]
    exact ⟨rfl, rfl, rfl⟩
  obtain ⟨state, sendSeq, ku⟩ := rest
  obtain ⟨printMark, punchMark, send⟩ := deliver_marks s e t.source lost text
  refine ⟨after.recvSeq.trans (by rw [delivered]), by rw [after.state, state, opened], by rw [after.sendSeq, sendSeq],
    fun sure => ?_, fun one => ?_, ?_, fun toFile one _ => ?_, ?_, fun toFile none available => ?_,
    by rw [after.editStack, ku], by rw [after.fifo, ku]⟩
  · rw [after.print, after.punch, cs]
    exact deliver_counts t.source lost passes (sure.imp id (Or.imp id blocksHaveOneHolder_iff.mp))
  · rw [after.cells, after.cells, after.cells, cs]
    exact deliver_cells t.source lost passes (blocksHaveOneHolder_iff.mp one)
  · rintro q run (⟨rfl, rfl⟩ | ⟨rfl, rfl⟩)
    · exact (congrArg Queue.openMark (after.print.trans (by rw [cs]))).trans printMark
    · exact (congrArg Queue.openMark (after.punch.trans (by rw [cs]))).trans punchMark
  · have holder := blocksHaveOneHolder_iff.mp one
    have room : s.cm.call.fileLink = none → slotFree s = true :=
      slotFree_of_available (fileAvailable_of_effective toFile)
    obtain ⟨f, flag, flagged⟩ := after.file
    rw [file] at flagged
    refine ⟨fun x linked mem state => ?_, fun none => ?_, ?_⟩
    · obtain ⟨stays, ch, inside, count, old, new⟩ := deliver_linked t.source lost toFile passes holder linked mem state
      obtain ⟨b, eq⟩ := flag (x.grown ch lost)
      refine ⟨by rw [after.link, link]; exact stays, f (x.grown ch lost), by rw [flagged]; exact List.mem_map_of_mem inside, ?_⟩
      rw [eq]
      exact ⟨rfl, count, rfl, fun i small => by rw [after.chains, cs]; exact old i small,
        fun i small => by rw [after.chains, cs]; exact new i small⟩
    · obtain ⟨slot, ch, linked, inside, count, new⟩ := deliver_opened t.source lost toFile passes holder none (room none)
      obtain ⟨b, eq⟩ := flag ((newRecord slot s).grown ch lost)
      refine ⟨f ((newRecord slot s).grown ch lost), by rw [flagged]; exact List.mem_map_of_mem inside, ?_⟩
      rw [eq]
      have gaps : min 255 (0 + lost) = lost := by omega
      have source : s.cm.call.partyStation.getD 0 = t.source := by rw [party]; rfl
      exact ⟨by rw [after.link, link]; exact linked, count, gaps, rfl, source, rfl, rfl, rfl, rfl,
        fun i small => by rw [after.chains, cs]; exact new i small⟩
    · obtain ⟨gone, oldest, numbers, why⟩ := deliver_gone t.source lost toFile passes holder room
      refine ⟨gone, oldest, ?_, why⟩
      rw [← numbers, flagged, List.map_map]
      refine List.map_congr_left fun x _ => ?_
      obtain ⟨b, eq⟩ := flag x
      exact (congrArg FileRecord.number eq).trans rfl
  · exact after.sendCount.trans (by rw [cs, send])
  · obtain ⟨slot, linked, number⟩ := deliver_opens e r t.source lost toFile none (slotFree_of_available available none)
    rw [after.link, link, after.nextNumber, file, linked]
    exact ⟨nofun, number⟩

/-- The runs, and the gap notice's length (R65, R66). -/
theorem textRuns_spec (s : State) (e : Route) (n : Station) (lost : Nat) (text : List Resolved) :
    let body := text.map fun c => Cell.character c .line
    let gap := if lost = 0 then [] else (Notice.textLost lost).run
    let start (q : Queue) (run : List Cell) : List Cell :=
      if run ≠ [] ∧ q.openMark = none then .boundary .start n :: run else run
    (textRuns s e n lost text).print = (if e.print = true then start s.cs.print (gap ++ body) else [])
      ∧ (textRuns s e n lost text).punch = (if e.punch = true then start s.cs.punch body else [])
      ∧ (textRuns s e n lost text).file = (if e.file = true then gap ++ body else [])
      ∧ (1 ≤ lost → lost ≤ 6 → gap.length = 14) := by
  refine ⟨rfl, rfl, rfl, fun low high => ?_⟩
  interval_cases lost <;> rfl

/-- The space check in the words of R21 and R22. -/
theorem deliveryPasses_spec (s : State) (e : Route) (r : TextRuns) :
    let held := (s.au.file.filter fun x => decide (x.state ≠ .opened) && x.printed).map fun x => x.chain.blockCount
    let needed :=
      s.cs.print.blocksNeeded r.print + s.cs.punch.blocksNeeded r.punch + (targetChain s).blocksNeeded r.file
    deliveryBlocks s r = needed
      ∧ (deliveryPasses s e r = true ↔
        s.cs.print.blockCount + s.cs.print.blocksNeeded r.print ≤ s.cs.print.limit
          ∧ s.cs.punch.blockCount + s.cs.punch.blocksNeeded r.punch ≤ s.cs.punch.limit
          ∧ (needed = 0 ∨ needed + 5 ≤ s.cs.free.length + (if e.file = true then held.sum else 0))) := by
  refine ⟨rfl, (deliveryPasses_iff s e r).trans (and_congr_right' (and_congr_right' ?_))⟩
  exact respect_iff _ _

/-! ### The hand-on of a TEXT (R67, R83) -/

/-- A TEXT frees no line view (R69). -/
theorem not_freesView_text {v : LineView} {h : Handed} (kind : h.kind = .text) : freesView v (viewAfter v h) = false := by
  cases state : v.state <;> simp [viewAfter, state, kind, freesView]
  all_goals split_ifs <;> simp [state]

/-- The hand-on of another station's TEXT: the CM's part by its result. -/
theorem telegramHandOn_text {s : State} {f : Framed} {w : Bool} {slot : SlotUnits}
    (receive : s.lu.receive = .framing false w (some f)) (kind : validKind f.telegram = some .text)
    (joined : s.lu.joinState = .joined) (other : f.telegram.source ≠ s.cl.station) (whole : unbroken (turnUnits slot) s) :
    exec (.telegramHandOn slot) s =
      .next (settle (heardText ⟨.text, f.telegram, f.run, heldSpace slot || f.taken, false, w, f.taken, f.result⟩
        (handedBase false slot .text f s))) := by
  have heard := execTelegramHandOn_heard receive kind joined other whole
  have kept : freesView s.cm.view (handedBase false slot .text f s).cm.view = false := not_freesView_text rfl
  dsimp only at heard
  rw [exec, heard, kept]
  rfl

/-- Held-by-me asks for HOLD where the LU enters requests (R83). -/
theorem queueHold_entered {s : State} (joined : s.lu.joinState = .joined) (clear : s.lu.restartClear = false) :
    queueHold s = { s with lu := enterRequest ⟨.hold, talkingParty s.cm.call, [], .cm, s.cl.config.retryLimit⟩ s.lu } := by
  rw [queueHold, requestOrDrop_eq, if_pos ⟨joined, clear⟩]
  rfl

/-- A TEXT that finds no destination or no space asks for HOLD in an OPEN call, and sets held-by-me (R67, R83). -/
theorem heardText_refused {h : Handed} {s : State} (refused : h.result = .text .noDestination ∨ h.result = .text .noSpace) :
    heardText h s =
      if s.cm.call.state ≠ .opened then s else if s.cm.call.heldByMe then queueHold s else setHeld s := by
  rcases refused with result | result <;> simp only [heardText, result]

/-- Settles O30. -/
theorem turnOfAText : Obligations.TurnOfAText := by
  refine ⟨fun s t waits whole kind joined clear window => ?_, textRuns_spec, deliveryPasses_spec,
    fun s f x w slot receive kind result joined clear other whole => ?_⟩
  · intro run forUs lost e r
    have turn := telegramTurn_text waits whole kind joined clear window
    dsimp only at turn
    generalize counted : countUnits (framedUnits t) s = c at turn
    have isForUs : textIsForUs c t = true ↔ forUs := by rw [← counted]; exact textIsForUs_iff s t
    refine ⟨fun apart => ?_, fun ours same => ?_, fun ours fresh => ⟨seq_lost fresh, ?_⟩⟩
    · rw [acceptText_notForUs (Bool.eq_false_iff.mpr fun h => apart (isForUs.mp h))] at turn
      rw [turn, ← counted]
      rfl
    · rw [acceptText_duplicate (isForUs.mpr ours) (by rw [← counted]; exact same)] at turn
      rw [turn, ← counted]
      rfl
    · subst counted
      refine ⟨fun none => ?_, fun some fails => ?_, fun some passes => ?_⟩
      · rw [acceptText_noDestination (isForUs.mpr ours) fresh none] at turn
        exact turn
      · rw [acceptText_noSpace (isForUs.mpr ours) fresh some fails] at turn
        exact turn
      · obtain ⟨released, began, accepted⟩ := acceptText_taken (run := run) (isForUs.mpr ours) fresh some passes
        rw [show acceptText t (lineResolve (unshift s) t.text) _ = _ from accepted] at turn
        obtain ⟨opened, party, _⟩ := ours
        refine ⟨_, turn, settle_receive _, ?_⟩
        exact turn_taken (s := countUnits (framedUnits t) s) lost run t.sequence (seq_lost fresh) opened party passes rfl
          (afterDelivery _ _ _ _ _)
  · intro b party held
    have handed := telegramHandOn_text receive kind joined other whole
    rw [handed]
    have hold : queueHold b = held := queueHold_entered joined clear
    have refused (is : x = .noDestination ∨ x = .noSpace) := heardText_refused (s := b)
      (h := ⟨.text, f.telegram, f.run, heldSpace slot || f.taken, false, w, f.taken, f.result⟩)
      (is.imp (fun h => result.trans (congrArg TurnResult.text h)) fun h => result.trans (congrArg TurnResult.text h))
    refine ⟨fun e bt is => ?_, fun is => ?_, fun is opened => ⟨fun mine => ?_, fun free => ?_⟩⟩
    · subst is
      simp only [heardText, result]
      rfl
    · rcases is with rfl | rfl | ⟨state, is⟩
      · simp only [heardText, result]
        rfl
      · simp only [heardText, result]
        rfl
      · rw [refused is, if_pos (by exact state)]
    · rw [refused is, if_neg (by exact not_not.mpr opened), if_pos (by exact mine), hold]
    · rw [refused is, if_neg (by exact not_not.mpr opened), if_neg (by exact Bool.eq_false_iff.mp free), setHeld, hold]

end Sys2Proof.Machine
end

section
/-!
Time (log 1), and the telegrams this station makes (R33 to R35).
-/

namespace Sys2Proof.Machine

/-! ### Time (log 1) -/

theorem counting_iff (l : LineUnit) : l.counting = true ↔ l.joinState ≠ .offline ∧ l.receive = .hunting := by
  simp [LineUnit.counting]

/-- The Line Unit after time without a space read, its conditions written out (R32, R47, R48, log 17). -/
theorem LineUnit.elapse_eq (d : Tick) (l : LineUnit) :
    l.elapse d =
      { l with
        quiet := if l.joinState ≠ .offline ∧ l.receive = .hunting then l.quiet + (d - l.spaceLeft) else l.quiet
        markRun := if l.condition = .broken then l.markRun + (d - l.spaceLeft) else l.markRun
        spaceRun := if (l.joinState ≠ .offline ∧ l.receive = .hunting) ∧ l.spaceLeft < d then 0 else l.spaceRun
        spaceLeft := l.spaceLeft - d
        frameTime := if l.receive = .hunting then l.frameTime else l.frameTime + d
        listenWindow := if l.condition = .clear then timeDown d l.listenWindow else l.listenWindow
        probeWait := timeDown d l.probeWait
        control := l.control.map (ControlEntry.elapse d)
        text := l.text.map (TextPlace.elapse d) } := by
  simp only [LineUnit.elapse, counting_iff, Bool.and_eq_true, decide_eq_true_eq]

/-- Settles O3. -/
theorem timeMovesTimersOnly : Obligations.TimeMovesTimersOnly := by
  intro d s down phase wait hunting
  have readiness (r : Readiness) : r.elapse d = wait r := by cases r <;> rfl
  have entry (e : ControlEntry) : e.elapse d = { e with readiness := wait e.readiness } := by
    rw [ControlEntry.elapse, readiness]
  have place (p : TextPlace) : p.elapse d = { p with readiness := wait p.readiness } := by
    rw [TextPlace.elapse, readiness]
  refine ⟨fun low => if_pos low, fun high => ?_⟩
  rw [elapse, if_neg (by rw [high]; decide), LineUnit.elapse_eq]
  simp only [show ControlEntry.elapse d = fun e => { e with readiness := wait e.readiness } from funext entry,
    show TextPlace.elapse d = fun p => { p with readiness := wait p.readiness } from funext place]
  cases timer : s.cm.sendTimer <;> simp only [CallManager.elapse, timer] <;> rfl

/-! ### Telegrams (R33 to R35) -/

theorem check_add_sum (t : Telegram) : (checkSum t + (checkFor t).toNat) % 256 = 0 := by
  simp only [checkFor, BitVec.toNat_ofNat]
  omega

/-- One value alone makes the sum a multiple of 256 (R34). -/
theorem eq_checkFor {t : Telegram} {b : Byte} (zero : (checkSum t + b.toNat) % 256 = 0) : b = checkFor t := by
  apply BitVec.eq_of_toNat_eq
  have small := b.isLt
  simp only [checkFor, BitVec.toNat_ofNat]
  omega

/-- A malformed sum makes the telegram malformed (R34, R35). -/
theorem validKind_of_bad_sum {t : Telegram} (bad : (checkSum t + t.check.toNat) % 256 ≠ 0) : validKind t = none := by
  unfold validKind
  split
  · rfl
  · exact if_neg fun ⟨_, _, _, _, _, _, sum⟩ => bad sum

/-- The check is not one of the fields summed (R34). -/
theorem checkFor_makeTelegram (k : Kind) (n : Station) (q : Seq) (d : Addr) (text : List Code) :
    (makeTelegram k n q d text).check = checkFor (makeTelegram k n q d text) := rfl

/-- Settles O18. -/
theorem checkMakesTheSumZero : Obligations.CheckMakesTheSumZero :=
  ⟨fun t => ⟨rfl, check_add_sum t, fun _ => eq_checkFor, validKind_of_bad_sum⟩, checkFor_makeTelegram,
    by decide, by decide⟩

@[simp] theorem kindOfField_kindField (k : Kind) : kindOfField (kindField k) = some k := by cases k <;> rfl

theorem length_le_of_allowed {k : Kind} {n : Nat} (allowed : lengthAllowed k n = true) : n ≤ 48 := by
  cases k <;> simp [lengthAllowed] at allowed <;> omega

/-- Settles O19. -/
theorem sentTelegramsAreValid : Obligations.SentTelegramsAreValid := by
  intro k n q d text sequence destination length allowed t
  have lengthField : t.length.toNat = text.length := by
    have := length_le_of_allowed length
    show (BitVec.ofNat 6 text.length).toNat = _
    rw [BitVec.toNat_ofNat]
    omega
  refine ⟨?_, by cases k <;> rfl, rfl, rfl, rfl, lengthField, rfl⟩
  have kind : kindOfField t.kind = some k := kindOfField_kindField k
  have sum : (checkSum t + t.check.toNat) % 256 = 0 := check_add_sum t
  unfold validKind
  rw [kind]
  exact if_pos ⟨rfl, sequence, destination, by rw [lengthField]; exact length, lengthField.symm, allowed, sum⟩

end Sys2Proof.Machine
end

section
/-!
The configuration image: what makes it valid, and the values it gives (R180 to R182).
-/

namespace Sys2Proof.Machine

/-! ### Bytes and their bits (R180) -/

theorem getLsbD_eq_div_mod (x : Byte) (i : Nat) : x.getLsbD i = decide (x.toNat / 2 ^ i % 2 = 1) := by
  rw [BitVec.getLsbD, Nat.testBit_eq_decide_div_mod_eq]

theorem bitAt_eq_false (image : List Byte) (n i : Nat) : (!bitAt image n i) = true ↔ byteAt image n / 2 ^ i % 2 = 0 := by
  rw [bitAt, getLsbD_eq_div_mod, byteAt]
  simp

theorem byteIn_iff (image : List Byte) (n lo hi : Nat) :
    byteIn image n lo hi = true ↔ lo ≤ byteAt image n ∧ byteAt image n ≤ hi := by simp [byteIn]

theorem byteAt_lt (image : List Byte) (n : Nat) : byteAt image n < 256 := (image.getD n 0).isLt

/-- The bits above the flags of W0 are 0 where the byte is below 16 (R180). -/
theorem upper_bits_of_own_flags (image : List Byte) (n : Nat) :
    (((!bitAt image n 7) = true ∧ (!bitAt image n 6) = true) ∧ (!bitAt image n 5) = true) ∧ (!bitAt image n 4) = true
      ↔ byteAt image n < 16 := by
  have := byteAt_lt image n
  simp only [bitAt_eq_false]
  omega

theorem windowBytesValid_iff (image : List Byte) (i : Nat) :
    windowBytesValid image i = true ↔
      byteAt image (36 + 3 * i) ≤ 63 ∧ byteAt image (37 + 3 * i) ≤ 63 ∧ byteAt image (38 + 3 * i) % 128 < 16 := by
  have := byteAt_lt image (38 + 3 * i)
  simp only [windowBytesValid, Bool.and_eq_true, decide_eq_true_eq, bitAt_eq_false]
  rw [show 36 + 3 * i + 1 = 37 + 3 * i by omega, show 36 + 3 * i + 2 = 38 + 3 * i by omega]
  omega

theorem forall_window_iff (P : Nat → Prop) :
    (∀ i : Fin 8, i ≠ 0 → P i) ↔ P 1 ∧ P 2 ∧ P 3 ∧ P 4 ∧ P 5 ∧ P 6 ∧ P 7 := by
  refine ⟨fun h => ⟨h 1 (by decide), h 2 (by decide), h 3 (by decide), h 4 (by decide), h 5 (by decide), h 6 (by decide),
    h 7 (by decide)⟩, fun ⟨h1, h2, h3, h4, h5, h6, h7⟩ i ne => ?_⟩
  fin_cases i
  · exact absurd rfl ne
  all_goals assumption

/-- The tests of R182 on single bytes, as ranges. -/
theorem imageBytesValid_iff (image : List Byte) :
    imageBytesValid image = true ↔
      image.length = 61 ∧ byteAt image 0 = 0xA5 ∧ byteAt image 1 = 0x3C ∧ (image.map BitVec.toNat).sum % 256 = 0
        ∧ (40 ≤ byteAt image 4 ∧ byteAt image 4 ≤ 80) ∧ (2 ≤ byteAt image 5 ∧ byteAt image 5 ≤ 120)
        ∧ byteAt image 6 ≤ 60 ∧ byteAt image 7 ≤ 1 ∧ (1 ≤ byteAt image 8 ∧ byteAt image 8 ≤ 7)
        ∧ (4 ≤ byteAt image 9 ∧ byteAt image 9 ≤ 32) ∧ (8 ≤ byteAt image 10 ∧ byteAt image 10 ≤ 96)
        ∧ (8 ≤ byteAt image 11 ∧ byteAt image 11 ≤ 96) ∧ byteAt image 38 < 16
        ∧ ∀ i : Fin 8, i ≠ 0 →
            byteAt image (36 + 3 * i) ≤ 63 ∧ byteAt image (37 + 3 * i) ≤ 63 ∧ byteAt image (38 + 3 * i) % 128 < 16 := by
  have windows := forall_window_iff fun i =>
    byteAt image (36 + 3 * i) ≤ 63 ∧ byteAt image (37 + 3 * i) ≤ 63 ∧ byteAt image (38 + 3 * i) % 128 < 16
  rw [windows, ← upper_bits_of_own_flags image 38]
  simp only [imageBytesValid, Bool.and_eq_true, beq_iff_eq, byteIn_iff, windowBytesValid_iff]
  simp only [and_assoc, Nat.zero_le, true_and]

/-! ### What single bytes name (R31, R157, R181) -/

theorem rateOf_eq_none : ∀ n : Nat, rateOf n = none ↔ 3 < n
  | 0 | 1 | 2 | 3 => by simp [rateOf]
  | n + 4 => by simp [rateOf]

theorem unit_of_rateOf {n : Nat} {r : Rate} (h : rateOf n = some r) : r.unit = 40 / 2 ^ n := by
  unfold rateOf at h
  split at h <;> cases h <;> rfl

/-- The functions in the order of their codes (R157). -/
def auxFunctions : List AuxFn :=
  [.unused, .bell, .callLamp, .engagedLamp, .fileLamp, .faultLamp, .attendedLamp, .tapeLowLamp, .paperLowLamp,
    .motorSense, .attendSwitch, .runLamp]

theorem auxFnOf_eq (n : Nat) : auxFnOf n = auxFunctions[n]? := by
  by_cases small : n < 12
  · interval_cases n <;> rfl
  · obtain ⟨m, rfl⟩ := Nat.exists_eq_add_of_le' (Nat.le_of_not_lt small)
    rfl

/-- Each AUX byte names its function, or the image names none (R157). -/
theorem imageAux_spec (image : List Byte) :
    (imageAux image ≠ none ↔ ∀ i : Fin 6, byteAt image (12 + i) ≤ 11)
      ∧ ∀ aux, imageAux image = some aux → ∀ i : Fin 6, auxFunctions[byteAt image (12 + i)]? = some aux[i] := by
  have named (n : Nat) : auxFnOf n ≠ none ↔ n ≤ 11 := by
    rw [auxFnOf_eq, ne_eq, List.getElem?_eq_none_iff]
    simp only [auxFunctions, List.length_cons, List.length_nil]
    omega
  have six : (∀ i : Fin 6, byteAt image (12 + i) ≤ 11) ↔ ∀ i : Fin 6, auxFnOf (byteAt image (12 + i)) ≠ none :=
    forall_congr' fun i => (named _).symm
  rw [six]
  unfold imageAux
  split
  · rename_i a b c d e f ha hb hc hd he hf
    refine ⟨⟨fun _ i => ?_, fun _ => Option.some_ne_none _⟩, fun aux h i => ?_⟩
    · fin_cases i
      exacts [by simp [ha], by simp [hb], by simp [hc], by simp [hd], by simp [he], by simp [hf]]
    · cases h
      rw [← auxFnOf_eq]
      fin_cases i
      exacts [ha, hb, hc, hd, he, hf]
  · rename_i missing
    refine ⟨⟨fun h => absurd rfl h, fun all => ?_⟩, fun _ h => by cases h⟩
    obtain ⟨a, ha⟩ := Option.ne_none_iff_exists'.mp (all 0)
    obtain ⟨b, hb⟩ := Option.ne_none_iff_exists'.mp (all 1)
    obtain ⟨c, hc⟩ := Option.ne_none_iff_exists'.mp (all 2)
    obtain ⟨d, hd⟩ := Option.ne_none_iff_exists'.mp (all 3)
    obtain ⟨e, he⟩ := Option.ne_none_iff_exists'.mp (all 4)
    obtain ⟨f, hf⟩ := Option.ne_none_iff_exists'.mp (all 5)
    exact absurd hf (missing a b c d e f ha hb hc hd he)

/-- The answerback byte of a character of two cases (R181). -/
theorem answerbackChar_of_code :
    ∀ c : Code, 3 ≤ c.toNat → c.toNat ≤ 29 → c.toNat ≠ 16 →
      answerbackChar (BitVec.ofNat 8 (0x20 + c.toNat)) = some (.letter c)
        ∧ answerbackChar (BitVec.ofNat 8 (0x40 + c.toNat)) = some (if c.toNat = 26 then .bell else .figure c) := by
  decide

/-- What a byte that gives a character stands for: its code with the case's offset, or a function character (R181). -/
theorem answerbackChar_cases {x : Byte} {r : Resolved} (h : answerbackChar x = some r) :
    Resolved.isOfCode r
      ∧ (x = 0x01 ∨ x = 0x02 ∨ x = 0x10
        ∨ ∃ c : Code, 3 ≤ c.toNat ∧ c.toNat ≤ 29 ∧ c.toNat ≠ 16
            ∧ (x.toNat = 0x20 + c.toNat ∨ x.toNat = 0x40 + c.toNat)) := by
  have code (n : Nat) (small : n < 32) : (BitVec.ofNat 5 n).toNat = n := by rw [BitVec.toNat_ofNat]; omega
  unfold answerbackChar at h
  dsimp only at h
  split_ifs at h with letter figure bell cr lf space <;> cases h
  · have value := code (x.toNat - 0x20) (by omega)
    exact ⟨by simp only [Resolved.isOfCode, value]; omega,
      .inr (.inr (.inr ⟨_, by rw [value]; omega, by rw [value]; omega, by rw [value]; omega, .inl (by rw [value]; omega)⟩))⟩
  · have value := code (x.toNat - 0x40) (by omega)
    exact ⟨by simp only [Resolved.isOfCode, value]; omega,
      .inr (.inr (.inr ⟨_, by rw [value]; omega, by rw [value]; omega, by rw [value]; omega, .inr (by rw [value]; omega)⟩))⟩
  · exact ⟨trivial, .inr (.inr (.inr ⟨26, by decide, by decide, by decide, .inr bell⟩))⟩
  · exact ⟨trivial, .inl (BitVec.eq_of_toNat_eq cr)⟩
  · exact ⟨trivial, .inr (.inl (BitVec.eq_of_toNat_eq lf))⟩
  · exact ⟨trivial, .inr (.inr (.inl (BitVec.eq_of_toNat_eq space)))⟩

/-! ### The answerback (R181) -/

/-- `k` bytes give characters, and the field or a byte of 0 ends there. -/
def EndsAt (bs : List Byte) (k : Nat) : Prop :=
  k ≤ bs.length ∧ (∀ i, i < k → answerbackChar (bs.getD i 0) ≠ none) ∧ (k = bs.length ∨ bs.getD k 0 = 0)

theorem answerbackChars_of_endsAt {bs : List Byte} {k : Nat} (ends : EndsAt bs k) :
    ∃ rs, answerbackChars bs = some rs ∧ rs.map some = (List.range k).map fun i => answerbackChar (bs.getD i 0) := by
  induction bs generalizing k with
  | nil =>
    obtain ⟨le, _, _⟩ := ends
    obtain rfl : k = 0 := Nat.le_zero.mp le
    exact ⟨[], rfl, rfl⟩
  | cons b bs ih =>
    obtain ⟨le, chars, stop⟩ := ends
    cases k with
    | zero =>
      obtain zero : b = 0 := stop.resolve_left (by simp)
      exact ⟨[], by simp [answerbackChars, zero], rfl⟩
    | succ k =>
      obtain ⟨r, read⟩ := Option.ne_none_iff_exists'.mp (chars 0 (by omega))
      obtain ⟨rs, rest, same⟩ := ih (k := k) ⟨by simpa using le, fun i small => chars (i + 1) (by omega), by simpa using stop⟩
      have read : answerbackChar b = some r := read
      have nonzero : b ≠ 0 := by
        rintro rfl
        exact absurd read (by rw [show answerbackChar 0 = none from rfl]; exact Option.some_ne_none r ∘ Eq.symm)
      refine ⟨r :: rs, by rw [answerbackChars, if_neg nonzero, read, rest], ?_⟩
      rw [List.map_cons, same, List.range_succ_eq_map, List.map_cons, List.map_map]
      exact congrArg₂ List.cons read.symm rfl

theorem endsAt_of_answerbackChars {bs : List Byte} {rs : List Resolved} (h : answerbackChars bs = some rs) :
    EndsAt bs rs.length ∧ ∀ r ∈ rs, Resolved.isOfCode r := by
  induction bs generalizing rs with
  | nil =>
    cases h
    exact ⟨⟨Nat.le_refl 0, fun i small => absurd small (Nat.not_lt_zero i), .inl rfl⟩, by simp⟩
  | cons b bs ih =>
    unfold answerbackChars at h
    split_ifs at h with zero
    · cases h
      exact ⟨⟨Nat.zero_le _, fun i small => absurd small (Nat.not_lt_zero i), .inr zero⟩, by simp⟩
    · split at h
      · rename_i r rs' read rest
        cases h
        obtain ⟨⟨le, chars, stop⟩, codes⟩ := ih rest
        refine ⟨⟨by simpa using le, fun i small => ?_, by simpa using stop⟩, ?_⟩
        · cases i with
          | zero => exact ne_of_eq_of_ne read (Option.some_ne_none r)
          | succ i => exact chars i (by simpa using small)
        · intro x mem
          rcases List.mem_cons.mp mem with rfl | mem
          · exact (answerbackChar_cases read).1
          · exact codes x mem
      · cases h

/-- The answerback of an image of full length: where its bytes end (R181). -/
def answersAt (image : List Byte) (k : Nat) : Prop :=
  1 ≤ k ∧ k ≤ 20 ∧ (∀ i, i < k → answerbackChar (image.getD (18 + i) 0) ≠ none)
    ∧ (k = 20 ∨ image.getD (18 + k) 0 = 0)

theorem answerback_field {image : List Byte} (full : image.length = 61) :
    ((image.drop 18).take 20).length = 20
      ∧ ∀ i, i < 20 → ((image.drop 18).take 20).getD i 0 = image.getD (18 + i) 0 := by
  refine ⟨by simp [full], fun i small => ?_⟩
  simp [List.getD_eq_getElem?_getD, List.getElem?_drop, small]

theorem endsAt_field_iff {image : List Byte} (full : image.length = 61) (k : Nat) :
    1 ≤ k ∧ EndsAt ((image.drop 18).take 20) k ↔ answersAt image k := by
  obtain ⟨length, bytes⟩ := answerback_field full
  unfold EndsAt answersAt
  rw [length]
  refine and_congr_right fun _ => and_congr_right fun le => and_congr ?_ ?_
  · exact forall₂_congr fun i small => by rw [bytes i (by omega)]
  · by_cases last : k = 20
    · simp [last]
    · rw [bytes k (by omega)]

theorem imageAnswerback_spec {image : List Byte} (full : image.length = 61) :
    (imageAnswerback image ≠ none ↔ ∃ k, answersAt image k)
      ∧ ∀ rs, imageAnswerback image = some rs →
          (∀ k, answersAt image k → rs.map some = (List.range k).map fun i => answerbackChar (image.getD (18 + i) 0))
            ∧ 1 ≤ rs.length ∧ rs.length ≤ 20 ∧ ∀ r ∈ rs, Resolved.isOfCode r := by
  obtain ⟨_, bytes⟩ := answerback_field full
  have read {k : Nat} (answers : answersAt image k) : ∃ rs, imageAnswerback image = some rs
      ∧ rs.map some = (List.range k).map fun i => answerbackChar (image.getD (18 + i) 0) := by
    obtain ⟨positive, ends⟩ := (endsAt_field_iff full k).mpr answers
    obtain ⟨_, small, _⟩ := answers
    obtain ⟨rs, chars, same⟩ := answerbackChars_of_endsAt ends
    have some_ : imageAnswerback image = some rs := by
      cases rs with
      | nil => simp at same; omega
      | cons r rs => simp [imageAnswerback, chars]
    refine ⟨rs, some_, same.trans (List.map_congr_left fun i mem => ?_)⟩
    rw [bytes i (by rw [List.mem_range] at mem; omega)]
  have ended {rs : List Resolved} (h : imageAnswerback image = some rs) :
      answersAt image rs.length ∧ ∀ r ∈ rs, Resolved.isOfCode r := by
    have chars : answerbackChars ((image.drop 18).take 20) = some rs ∧ rs ≠ [] := by
      unfold imageAnswerback at h
      split at h
      · cases h
      · rename_i apart
        exact ⟨h, fun empty => apart (by rw [h, empty])⟩
    obtain ⟨ends, codes⟩ := endsAt_of_answerbackChars chars.1
    exact ⟨(endsAt_field_iff full _).mp ⟨List.length_pos_iff.mpr chars.2, ends⟩, codes⟩
  refine ⟨⟨fun h => ?_, fun ⟨k, answers⟩ => ?_⟩, fun rs h => ⟨fun k answers => ?_, ?_⟩⟩
  · obtain ⟨rs, h⟩ := Option.ne_none_iff_exists'.mp h
    exact ⟨rs.length, (ended h).1⟩
  · obtain ⟨rs, h, _⟩ := read answers
    simp [h]
  · obtain ⟨rs', h', same⟩ := read answers
    obtain rfl : rs = rs' := by rw [h] at h'; exact Option.some.inj h'
    exact same
  · obtain ⟨⟨positive, le, _⟩, codes⟩ := ended h
    exact ⟨positive, le, codes⟩

/-! ### The load (R180 to R182) -/

/-- What a valid image gives, from what its bytes name (R180, R181). -/
def imageLoaded (n : Station) (image : List Byte) (rate : Rate) (aux : Vector AuxFn 6) (answerback : List Resolved) :
    Loaded where
  limits := ⟨byteAt image 9, byteAt image 10, byteAt image 11⟩
  config :=
    { rate
      edit := bitAt image 3 7
      unshiftOnSpace := bitAt image 3 6
      wrap := bitAt image 3 5
      originSeparation := bitAt image 3 4
      keepPrinted := bitAt image 3 3
      autoReplay := bitAt image 3 2
      tapeEcho := bitAt image 3 1
      autoWho := bitAt image 3 0
      width := byteAt image 4
      motorHold := byteAt image 5
      attendTimeout := byteAt image 6
      defaultAttended := byteAt image 7 == 1
      retryLimit := byteAt image 8
      aux, answerback
      windows := imageWindows n image }

theorem loadImage_eq_some (n : Station) (image : List Byte) (ld : Loaded) :
    loadImage n image = some ld ↔
      imageBytesValid image = true ∧ ∃ rate aux answerback, rateOf (byteAt image 2) = some rate
        ∧ imageAux image = some aux ∧ imageAnswerback image = some answerback
        ∧ imageLoaded n image rate aux answerback = ld := by
  unfold loadImage
  split_ifs with valid
  · split
    · rename_i rate aux answerback hr ha hb
      refine ⟨fun h => ⟨valid, rate, aux, answerback, hr, ha, hb, Option.some.inj h⟩, fun ⟨_, _, _, _, hr', ha', hb', h⟩ => ?_⟩
      cases hr.symm.trans hr'
      cases ha.symm.trans ha'
      cases hb.symm.trans hb'
      exact congrArg some h
    · rename_i missing
      exact ⟨nofun, fun ⟨_, _, _, _, hr, ha, hb, _⟩ => absurd hb (missing _ _ _ hr ha)⟩
  · exact ⟨nofun, fun ⟨h, _⟩ => absurd h valid⟩

theorem imageWindows_get (n : Station) (image : List Byte) :
    (imageWindows n image)[0] = ownWindow n (routeAt image 38) (bitAt image 38 3)
      ∧ ∀ i : Fin 8, i ≠ 0 → (imageWindows n image)[i] = windowAt image i := by
  refine ⟨rfl, fun i ne => ?_⟩
  fin_cases i
  · exact absurd rfl ne
  all_goals rfl

theorem windowAt_eq (image : List Byte) (i : Nat) :
    windowAt image i =
      ⟨bitAt image (38 + 3 * i) 7, BitVec.ofNat 6 (byteAt image (36 + 3 * i)), BitVec.ofNat 6 (byteAt image (37 + 3 * i)),
        routeAt image (38 + 3 * i), bitAt image (38 + 3 * i) 3⟩ := by
  unfold windowAt
  dsimp only
  rw [show 36 + 3 * i + 1 = 37 + 3 * i by omega, show 36 + 3 * i + 2 = 38 + 3 * i by omega]

/-- Settles O25. -/
theorem imageIsValidWhole : Obligations.ImageIsValidWhole := by
  intro n image b bit char answers
  refine ⟨⟨fun h => ?_, ?_⟩, fun ld h => ?_, answerbackChar_of_code, rfl, rfl, rfl, fun x h => ?_⟩
  · obtain ⟨ld, h⟩ := Option.ne_none_iff_exists'.mp h
    obtain ⟨valid, rate, aux, answerback, hr, ha, hb, _⟩ := (loadImage_eq_some n image ld).mp h
    obtain ⟨full, b0, b1, sum, ⟨b4, b4'⟩, ⟨b5, b5'⟩, b6, b7, ⟨b8, b8'⟩, ⟨b9, b9'⟩, ⟨b10, b10'⟩, ⟨b11, b11'⟩, b38, windows⟩ :=
      (imageBytesValid_iff image).mp valid
    have rateByte : b 2 ≤ 3 := by
      by_contra large
      rw [(rateOf_eq_none _).mpr (Nat.lt_of_not_le large)] at hr
      cases hr
    exact ⟨full, b0, b1, sum, rateByte, b4, b4', b5, b5', b6, b7, b8, b8', b9, b9', b10, b10', b11, b11',
      (imageAux_spec image).1.mp (by simp [ha]), (imageAnswerback_spec full).1.mp (by simp [hb]), b38, windows⟩
  · rintro ⟨full, b0, b1, sum, b2, b4, b4', b5, b5', b6, b7, b8, b8', b9, b9', b10, b10', b11, b11', functions, ends, b38,
      windows⟩
    have valid := (imageBytesValid_iff image).mpr ⟨full, b0, b1, sum, ⟨b4, b4'⟩, ⟨b5, b5'⟩, b6, b7, ⟨b8, b8'⟩, ⟨b9, b9'⟩,
      ⟨b10, b10'⟩, ⟨b11, b11'⟩, b38, windows⟩
    obtain ⟨rate, hr⟩ := Option.ne_none_iff_exists'.mp fun h => absurd ((rateOf_eq_none (b 2)).mp h) (Nat.not_lt.mpr b2)
    obtain ⟨aux, ha⟩ := Option.ne_none_iff_exists'.mp ((imageAux_spec image).1.mpr functions)
    obtain ⟨answerback, hb⟩ := Option.ne_none_iff_exists'.mp ((imageAnswerback_spec full).1.mpr ends)
    rw [(loadImage_eq_some n image _).mpr ⟨valid, rate, aux, answerback, hr, ha, hb, rfl⟩]
    exact Option.some_ne_none _
  · obtain ⟨valid, rate, aux, answerback, hr, ha, hb, rfl⟩ := (loadImage_eq_some n image ld).mp h
    obtain ⟨full, _⟩ := (imageBytesValid_iff image).mp valid
    obtain ⟨chars, least, most, codes⟩ := (imageAnswerback_spec full).2 answerback hb
    obtain ⟨own, others⟩ := imageWindows_get n image
    exact ⟨unit_of_rateOf hr, rfl, rfl, rfl, rfl, rfl, rfl, rfl, rfl, rfl, rfl, rfl, beq_iff_eq, rfl, rfl,
      (imageAux_spec image).2 aux ha, chars, least, most, codes, own, fun i ne => (others i ne).trans (windowAt_eq image i)⟩
  · obtain ⟨r, read⟩ := Option.ne_none_iff_exists'.mp h
    exact (answerbackChar_cases read).2

end Sys2Proof.Machine
end

section
/-!
Sending on the common line: the choice of TRANSMIT_START and its gap, this station's own Turn, and the control list (R36, R38,
R43 to R45, R47, R51).
-/

namespace Sys2Proof.Machine

/-! ### What the LU may do (R36, R45) -/

theorem online_of {s : State} (load : loaded s = true) (on : s.lu.joinState ≠ .offline) : online s = true := by
  simp [online, load, on]

theorem hunts_of {s : State} (load : loaded s = true) (on : s.lu.joinState ≠ .offline) (clear : s.lu.condition = .clear)
    (hunting : s.lu.receive = .hunting) : hunts s = true := by simp [hunts, online_of load on, clear, hunting]

theorem maySlot_of {s : State} (load : loaded s = true) (on : s.lu.joinState ≠ .offline) (clear : s.lu.condition = .clear)
    (hunting : s.lu.receive = .hunting) (empty : s.lu.slot = none) : maySlot s = true := by
  simp [maySlot, hunts_of load on clear hunting, empty]

/-- No TEXT is formed in a station that is not JOINED (R79). -/
theorem formText_of_not_joined {s : State} (h : s.lu.joinState ≠ .joined) : formText s = s :=
  formText_of_not_forms fun ⟨_, _, permits, _⟩ => by simp [permitsText, h] at permits

/-- No TEXT is formed while a control entry is ready (R45). -/
theorem formText_of_ready {s : State} {e : ControlEntry} (mem : e ∈ s.lu.control) (ready : e.readiness.isReady = true) :
    formText s = s :=
  formText_of_not_forms fun ⟨_, chosen, _⟩ => by
    have waiting : s.lu.control.any (fun x => x.readiness.isReady) = false := by
      simp only [textMayBeChosen, Bool.and_eq_true, Bool.not_eq_true'] at chosen
      exact chosen.2
    exact absurd ready (by simpa using List.any_eq_false.mp waiting e mem)

/-! ### The choice and its gap (R38, R45, R51) -/

/-- What is left of a gap: until the quiet timer reaches it, and for a retry until it has passed since that was ready (R38). -/
theorem gapLeft_eq {s : State} {c : Candidate} {units : Nat} (length : gapUnits c.telegram.precedence s.lu.lastOwn = units) :
    gapLeft s c =
      max (if units * unitTime s ≤ s.lu.quiet then 0 else s.lu.spaceLeft + (units * unitTime s - s.lu.quiet))
        (match c.readiness with | .retryReady since => units * unitTime s - since | _ => 0) := by
  unfold gapLeft LineUnit.untilMark retryGapLeft
  rw [length]
  simp only [Nat.sub_eq_zero_iff_le] <;> rfl

theorem gapUnits_kind (k : Kind) (lastOwn : Bool) :
    gapUnits (kindPrecedence k) lastOwn =
      8 + (if k = .brk then 0 else if k = .text then 8 else 4) + (if lastOwn = true then 8 else 0) := by
  cases k <;> rfl

/-- TRANSMIT_START with a candidate, no TEXT being formed (R45). -/
theorem exec_transmitStart {s : State} {c : Candidate} (may : maySlot s = true) (formed : formText s = s)
    (chosen : candidate s = some c) : exec .transmitStart s = .next (settle (startTelegram c s)) := by
  rw [exec, execTransmitStart, formed, chosen]
  exact actIf_of _ s may

theorem candidate_control {s : State} {e : ControlEntry} (joined : s.lu.joinState = .joined)
    (first : readyControl s.lu = some e) :
    candidate s = some ⟨.control e.content.kind, entryTelegram s e, e.readiness⟩ := by simp [candidate, joined, first]

theorem readyControl_eq_none {l : LineUnit} (h : ∀ e ∈ l.control, e.readiness.isReady = false) : readyControl l = none := by
  unfold readyControl
  have none_ (p : ControlEntry → Bool) (sub : ∀ e, p e = true → e.readiness.isReady = true) : l.control.find? p = none :=
    List.find?_eq_none.mpr fun e mem found => by simpa [h e mem] using sub e found
  rw [none_ _ fun e found => (Bool.and_eq_true _ _ ▸ found).1, none_ _ fun _ => id]

/-- The oldest ready BREAK, else the oldest ready entry (R45). -/
theorem readyControl_eq_some {l : LineUnit} {e : ControlEntry}
    (h : e.content.kind = .brk ∧ l.control.find? (fun x => x.readiness.isReady && x.content.kind = .brk) = some e
      ∨ (∀ x ∈ l.control, x.content.kind = .brk → x.readiness.isReady = false)
        ∧ l.control.find? (fun x => x.readiness.isReady) = some e) :
    readyControl l = some e ∧ e ∈ l.control ∧ e.readiness.isReady = true := by
  unfold readyControl
  rcases h with ⟨_, first⟩ | ⟨others, first⟩
  · have ready := List.find?_some first
    exact ⟨by rw [first], List.mem_of_find?_eq_some first, (Bool.and_eq_true _ _ ▸ ready).1⟩
  · have breaks : l.control.find? (fun x => x.readiness.isReady && x.content.kind = .brk) = none := by
      refine List.find?_eq_none.mpr fun x mem found => ?_
      simp only [Bool.and_eq_true, decide_eq_true_eq] at found
      obtain ⟨ready, kind⟩ := found
      rw [others x mem kind] at ready
      cases ready
    exact ⟨by rw [breaks, first], List.mem_of_find?_eq_some first,
      List.find?_some (p := fun x : ControlEntry => x.readiness.isReady) first⟩

/-! ### The control list (R43) -/

theorem inSlot_iff (k : Kind) (l : LineUnit) : inSlot k l = decide (l.slot.map Slot.source = some (.control k)) := by
  unfold inSlot
  cases l.slot <;> simp

theorem cancels_iff (l : LineUnit) (r : Request) (e : ControlEntry) :
    cancels l r e = true ↔
      (r.kind = .hold ∧ e.content.kind = .go ∨ r.kind = .go ∧ e.content.kind = .hold)
        ∧ e.content.destination = r.destination ∧ inSlot e.content.kind l = false := by
  have pair : holdOpposite r.kind = some e.content.kind ↔
      r.kind = .hold ∧ e.content.kind = .go ∨ r.kind = .go ∧ e.content.kind = .hold := by
    cases r.kind <;> simp [holdOpposite, eq_comm]
  simp [cancels, pair, and_assoc]

/-- A request cancels an opposite one that waits (R43, log 36). -/
theorem enterRequest_cancels {r : Request} {l : LineUnit} (h : ∃ e ∈ l.control, cancels l r e = true) :
    enterRequest r l = { l with control := l.control.filter fun e => !cancels l r e } := if_pos (List.any_eq_true.mpr h)

/-- A request joins the list's end, with no entry of its kind there (R43). -/
theorem enterRequest_joins {r : Request} {l : LineUnit} (apart : ∀ e ∈ l.control, cancels l r e = false)
    (new : ∀ e ∈ l.control, e.content.kind ≠ r.kind) :
    enterRequest r l = { l with control := l.control ++ [ControlEntry.fresh r] } := by
  have none_ : l.control.any (cancels l r) = false := List.any_eq_false.mpr fun e mem => by simp [apart e mem]
  have other : (l.control.any fun e => decide (e.content.kind = r.kind)) = false :=
    List.any_eq_false.mpr fun e mem => by simp [new e mem]
  simp only [enterRequest, none_, other, Bool.false_eq_true, if_false]

/-- A request takes the place of the entry of its kind, or is held beside it in the slot (R43, log 41). -/
theorem enterRequest_renews {r : Request} {l : LineUnit} (apart : ∀ e ∈ l.control, cancels l r e = false)
    (there : ∃ e ∈ l.control, e.content.kind = r.kind) :
    enterRequest r l =
      { l with
        control := l.control.map fun e =>
          if e.content.kind = r.kind then
            if inSlot r.kind l = true then { e with beside := some r } else ControlEntry.fresh r
          else e } := by
  have none_ : l.control.any (cancels l r) = false := List.any_eq_false.mpr fun e mem => by simp [apart e mem]
  have same : (l.control.any fun e => decide (e.content.kind = r.kind)) = true := by simpa using there
  simp only [enterRequest, none_, same, Bool.false_eq_true, if_false, if_true]

/-! ### The statement's parts -/

theorem transmitStart_control {s : State} {e : ControlEntry} (load : loaded s = true) (joined : s.lu.joinState = .joined)
    (clear : s.lu.condition = .clear) (hunting : s.lu.receive = .hunting) (empty : s.lu.slot = none)
    (first : e.content.kind = .brk ∧ s.lu.control.find? (fun x => x.readiness.isReady && x.content.kind = .brk) = some e
      ∨ (∀ x ∈ s.lu.control, x.content.kind = .brk → x.readiness.isReady = false)
        ∧ s.lu.control.find? (fun x => x.readiness.isReady) = some e) :
    exec .transmitStart s =
      .next (settle (startTelegram ⟨.control e.content.kind, entryTelegram s e, e.readiness⟩ s)) := by
  obtain ⟨ready, mem, isReady⟩ := readyControl_eq_some first
  exact exec_transmitStart (maySlot_of load (by rw [joined]; decide) clear hunting empty) (formText_of_ready mem isReady)
    (candidate_control joined ready)

theorem transmitStart_text {s : State} {p : TextPlace} (load : loaded s = true) (joined : s.lu.joinState = .joined)
    (clear : s.lu.condition = .clear) (hunting : s.lu.receive = .hunting) (empty : s.lu.slot = none)
    (served : s.lu.restartClear = false) (others : ∀ e ∈ s.lu.control, e.readiness.isReady = false)
    (text : s.lu.text = some p) (ready : p.readiness.isReady = true) (state : s.cm.call.state = .opened)
    (role : s.cm.call.role = some .caller ∨ s.cm.call.role = some .called) (holds : s.cm.call.holdSet = []) :
    exec .transmitStart s =
      .next (settle (startTelegram
        ⟨.text, makeTelegram .text s.cl.station p.sequence p.destination p.codes, p.readiness⟩ s)) := by
  have permits : permitsText s = true := by simp [permitsText, joined, (maySend_iff _).mpr ⟨state, role⟩, holds]
  refine exec_transmitStart (maySlot_of load (by rw [joined]; decide) clear hunting empty)
    (formText_of_text (by rw [text]; exact Option.some_ne_none p)) ?_
  simp [candidate, joined, readyControl_eq_none others, textCandidate, text, ready, permits, served]

theorem transmitStart_probe {s : State} (load : loaded s = true) (probe : s.lu.joinState = .probe)
    (clear : s.lu.condition = .clear) (hunting : s.lu.receive = .hunting) (empty : s.lu.slot = none)
    (wait : s.lu.probeWait = none) :
    exec .transmitStart s =
      .next (settle (startTelegram ⟨.probe, makeTelegram .who s.cl.station 0 (ownAddr s) [], .ready⟩ s)) :=
  exec_transmitStart (maySlot_of load (by rw [probe]; decide) clear hunting empty)
    (formText_of_not_joined (by rw [probe]; decide)) (by simp [candidate, probe, probeCandidate, wait])

/-- The Turn of this station's own telegram: taken by nobody here, its units counted (R36, R47). -/
theorem telegramTurn_own {s : State} {x : Slot} {k : Kind} {w : Bool} (receive : s.lu.receive = .framing true w none)
    (slot : s.lu.slot = some x) (kind : validKind x.telegram = some k) (whole : unbroken (framedUnits x.telegram) s) :
    exec (.telegramTurn x.telegram) s =
      .next (settle (turnOwn k x.telegram w (countUnits (framedUnits x.telegram) s))) := by
  have undecided : framingUndecided s = some (true, w) := by simp [framingUndecided, receive]
  have mine : isSlotTelegram s x.telegram = true := by simp [isSlotTelegram, slot]
  rw [exec, execTelegramTurn, undecided, kind]
  dsimp only
  rw [if_pos mine, readUnits_of_unbroken whole]
  rfl

/-- Settles O36. -/
theorem transmitStartsControl : Obligations.TransmitStartsControl := by
  refine ⟨fun s e load joined clear hunting empty first => ?_,
    fun s p load joined clear hunting empty served others text ready state role holds => ?_,
    fun s load probe clear hunting empty wait => ?_,
    fun s x k w receive slot kind whole => telegramTurn_own receive slot kind whole,
    fun r l => ?_⟩
  · intro t units gap quietLeft retryLeft
    rw [transmitStart_control load joined clear hunting empty first, startTelegram,
      gapLeft_eq (c := ⟨.control e.content.kind, entryTelegram s e, e.readiness⟩) (gapUnits_kind e.content.kind s.lu.lastOwn)]
    cases readiness : e.readiness <;> simp only [quietLeft, retryLeft, gap, units, readiness] <;> rfl
  · intro gap quietLeft retryLeft
    rw [transmitStart_text load joined clear hunting empty served others text ready state role holds, startTelegram,
      gapLeft_eq (c := ⟨.text, makeTelegram .text s.cl.station p.sequence p.destination p.codes, p.readiness⟩)
        (gapUnits_kind .text s.lu.lastOwn)]
    cases readiness : p.readiness <;> simp only [quietLeft, retryLeft, gap, readiness] <;> rfl
  · intro gap
    rw [transmitStart_probe load probe clear hunting empty wait, startTelegram,
      gapLeft_eq (c := ⟨.probe, makeTelegram .who s.cl.station 0 (ownAddr s) [], .ready⟩)
        (gapUnits_kind .who s.lu.lastOwn)]
    dsimp only
    rw [Nat.max_zero]
    rfl
  · intro busy opposite fresh
    have slot (k : Kind) : inSlot k l = busy k := inSlot_iff k l
    have pair (e : ControlEntry) : cancels l r e = opposite e := by
      rw [Bool.eq_iff_iff, cancels_iff, slot]
      exact decide_eq_true_iff.symm
    have apart (none_ : ∀ e ∈ l.control, opposite e = false) : ∀ e ∈ l.control, cancels l r e = false :=
      fun e mem => (pair e).trans (none_ e mem)
    refine ⟨fun ⟨e, mem, found⟩ => ?_, fun none_ => ⟨enterRequest_joins (apart none_), fun there => ?_⟩, fun k => ?_⟩
    · rw [enterRequest_cancels ⟨e, mem, (pair e).trans found⟩]
      simp only [pair]
    · rw [enterRequest_renews (apart none_) there, slot]
      rfl
    · rw [withdraw, slot]

end Sys2Proof.Machine
end

section
/-!
The end of an attempt before its Turn: arbitration loss and collision (R36, R39, R40, R42, R43, R51, R53, R54).
-/

namespace Sys2Proof.Machine

/-! ### An LU that sends nothing and takes no request (R46, R53) -/

/-- The LU has nothing in hand, and refuses what is asked of it. -/
structure LineUnit.Spent (l : LineUnit) : Prop where
  refuses : entersRequests l = false
  slot : l.slot = none
  control : l.control = []
  text : l.text = none

theorem spent_luListenOnly (l : LineUnit) : (luListenOnly l).Spent := ⟨rfl, rfl, rfl, rfl⟩

theorem LineUnit.Spent.withdrawals {l : LineUnit} (h : l.Spent) :
    withdraw .brk (withdraw .go (withdraw .hold (withdrawText l))) = l := withdraw_empty h.slot h.control h.text

/-- Where requests are refused the flow levels bring none (R46, R83, R84). -/
theorem lu_flowTest_refused {s : State} (refuses : entersRequests s.lu = false) : (flowTest s).lu = s.lu := by
  unfold flowTest setHeld clearHeld queueHold
  split_ifs <;> simp [requestOrDrop_refused refuses]

theorem lu_notice_refused (n : Notice) {s : State} (refuses : entersRequests s.lu = false) : (notice n s).lu = s.lu := by
  cases present : s.pu.present with
  | false => rw [notice_absent present]
  | true =>
    rw [notice_present present]
    cases passes : s.cs.spaceCheck .print .mayUse n.run with
    | false => rw [appendRun_refused passes]; rfl
    | true =>
      rw [appendRun_passed passes, Option.getD_some, placeRun_of_not_send (by decide)]
      split_ifs
      · rfl
      · exact lu_flowTest_refused (s := { s with cs := s.cs.pushRun .print n.run }) refuses

theorem lu_toIdle_spent (filed : Bool) (n : Option Notice) {s : State} (spent : s.lu.Spent) :
    (toIdle filed n s).lu = s.lu := by
  by_cases opened : s.cm.call.state = .opened
  · obtain ⟨_, _, _, _, _, _, _, _, lu, _⟩ := toIdle_of_open filed n opened
    exact lu.trans spent.withdrawals
  · exact (toIdle_of_not_open filed n opened).2.1

theorem lu_exhausted_spent (r : Request) {s : State} (spent : s.lu.Spent) : (exhausted r s).lu = s.lu := by
  unfold exhausted
  split
  · cases r.kind <;> dsimp only <;> (try split_ifs) <;>
      simp only [lu_toIdle_spent _ _ spent, lu_notice_refused _ spent.refuses]
  · rfl

theorem lu_reportExhausted_spent (rs : List Request) {s : State} (spent : s.lu.Spent) :
    (reportExhausted rs s).lu = s.lu := by
  unfold reportExhausted
  induction rs generalizing s with
  | nil => rfl
  | cons r rs ih =>
    have same := lu_exhausted_spent r spent
    exact (ih (s := exhausted r s) (by rw [same]; exact spent)).trans same

/-- An act after which the LU still holds nothing and refuses: the CLEAR is exhausted at once (R46, R92). -/
theorem lu_openToClearing_spent (filed : Bool) (n : Option Notice) (c : Cause) {s : State} (spent : s.lu.Spent) :
    (openToClearing filed n c s).lu = s.lu := by
  obtain ⟨state, _, _, _, _, _, _, _, lu, _⟩ := leaveOpen_spec (c := .clearing) filed s (by decide)
  have after := SameLine.afterEnd (s := leaveOpen .clearing filed s) (by rw [state]; decide) n
  have same : (finishCursor (noticeIf n (leaveOpen .clearing filed s))).lu = s.lu :=
    after.2.trans (lu.trans spent.withdrawals)
  have spent' : (finishCursor (noticeIf n (leaveOpen .clearing filed s))).lu.Spent := by rw [same]; exact spent
  unfold openToClearing sendRequest luRequest
  dsimp only
  rw [if_neg (by rw [spent'.refuses]; decide)]
  exact (lu_exhausted_spent _ spent').trans same

theorem lu_textExhausted_spent {s : State} (spent : s.lu.Spent) : (textExhausted s).lu = s.lu := by
  unfold textExhausted
  split_ifs
  · exact lu_openToClearing_spent _ _ _ spent
  · rfl

/-- Entering LISTEN-ONLY, the reports change nothing of the LU (R53). -/
theorem lu_enterListenOnly (s : State) : (enterListenOnly s).lu = luListenOnly s.lu := by
  have spent := spent_luListenOnly s.lu
  have reported := lu_reportExhausted_spent (s.lu.control.filterMap reportedContent) (s := { s with lu := luListenOnly s.lu }) spent
  unfold enterListenOnly
  dsimp only
  generalize reportExhausted _ _ = x at reported ⊢
  have spent' : x.lu.Spent := by rw [reported]; exact spent
  have text : (reportText s.lu.text x).lu = x.lu := by
    unfold reportText
    split
    · split_ifs
      · rfl
      · exact lu_textExhausted_spent spent'
    · rfl
  rw [lu_notice_refused _ (by rw [text]; exact spent'.refuses), text, reported]

/-! ### The record through exhaustion (R81, R96) -/

theorem openToClearing_state (filed : Bool) (n : Option Notice) (c : Cause) (s : State) :
    (openToClearing filed n c s).cm.call.state ≠ .opened := by
  obtain ⟨state, _⟩ := leaveOpen_spec (c := .clearing) filed s (by decide)
  have notOpen : (leaveOpen .clearing filed s).cm.call.state ≠ .opened := by rw [state]; decide
  have after : (finishCursor (noticeIf n (leaveOpen .clearing filed s))).cm.call.state = .clearing := by
    rw [(SameLine.afterEnd notOpen n).1, state]
  unfold openToClearing sendRequest luRequest
  dsimp only
  generalize finishCursor _ = x at after ⊢
  split_ifs with enters
  · exact ne_of_eq_of_ne after (by decide)
  · show (exhausted (clearRequest c x) x).cm.call.state ≠ .opened
    simp only [exhausted, clearRequest, request, if_true, after]
    rw [toIdle_state]
    decide

/-- A TEXT that is exhausted leaves no OPEN call (R81). -/
theorem textExhausted_state (s : State) : (textExhausted s).cm.call.state ≠ .opened := by
  unfold textExhausted
  split_ifs with opened
  · exact openToClearing_state _ _ _ s
  · exact opened

theorem enterListenOnly_state {s : State} {p : TextPlace} (text : s.lu.text = some p) (live : p.withdrawn = false) :
    (enterListenOnly s).cm.call.state ≠ .opened := by
  unfold enterListenOnly
  dsimp only
  rw [(call_of_storeCore (storeCore_notice _ _)).1]
  simp only [text, reportText, live, Bool.false_eq_true, if_false]
  exact textExhausted_state _

/-! ### The entry of a kind (R43) -/

theorem entryOf_mapEntry (k : Kind) {f : ControlEntry → ControlEntry} (same : ∀ e, (f e).content = e.content)
    (l : LineUnit) : entryOf k (mapEntry k f l) = (entryOf k l).map f := find_changed k f same l.control

theorem dropEntry_mapEntry (k : Kind) {f : ControlEntry → ControlEntry} (same : ∀ e, (f e).content = e.content)
    (l : LineUnit) : dropEntry k (mapEntry k f l) = dropEntry k l := by
  unfold dropEntry mapEntry
  dsimp only
  rw [others_changed k f same]

theorem mapEntry_mapEntry (k : Kind) (g : ControlEntry → ControlEntry) {f : ControlEntry → ControlEntry}
    (same : ∀ e, (f e).content = e.content) (l : LineUnit) :
    mapEntry k g (mapEntry k f l) = mapEntry k (fun e => g (f e)) l := by
  unfold mapEntry
  dsimp only
  rw [List.map_map]
  congr 1
  refine List.map_congr_left fun e _ => ?_
  by_cases kind : e.content.kind = k <;> simp [kind, same]

theorem appendFresh_control (r : Option Request) (l : LineUnit) :
    appendFresh r l = { l with control := l.control ++ (r.map ControlEntry.fresh).toList } := by
  cases r <;> simp [appendFresh]

/-- An entry whose attempt stops without an end of its own (R39, R43, R47, log 42). -/
theorem entryReadyAgain_eq {k : Kind} {l : LineUnit} {e : ControlEntry} (entry : entryOf k l = some e) :
    (e.withdrawn = true → entryReadyAgain k l = appendFresh e.beside (dropEntry k l))
      ∧ (∀ r, e.withdrawn = false → e.beside = some r →
          entryReadyAgain k l = mapEntry k (fun _ => ControlEntry.fresh r) l)
      ∧ (e.withdrawn = false → e.beside = none →
          entryReadyAgain k l = mapEntry k (fun x => { x with readiness := .ready }) l) := by
  refine ⟨fun gone => ?_, fun r live beside => ?_, fun live beside => ?_⟩
  · simp [entryReadyAgain, entry, gone]
  · simp [entryReadyAgain, entry, live, beside]
  · simp [entryReadyAgain, entry, live, beside]

/-- An entry whose attempt was unanswered (R42, R43). -/
theorem entryUnanswered_eq {k : Kind} {s : State} {e : ControlEntry} (entry : entryOf k s.lu = some e) :
    (e.withdrawn = true → entryUnanswered k s = { s with lu := appendFresh e.beside (dropEntry k s.lu) })
      ∧ (∀ r, e.withdrawn = false → e.beside = some r →
          entryUnanswered k s = { s with lu := mapEntry k (fun _ => ControlEntry.fresh r) s.lu })
      ∧ (e.withdrawn = false → e.beside = none → e.retriesUsed < e.content.allowance →
          entryUnanswered k s = { s with lu := mapEntry k (useRetry (retryWait s)) s.lu })
      ∧ (e.withdrawn = false → e.beside = none → e.content.allowance ≤ e.retriesUsed →
          entryUnanswered k s = exhausted e.content { s with lu := dropEntry k s.lu }) := by
  refine ⟨fun gone => ?_, fun r live beside => ?_, fun live beside left => ?_, fun live beside none_ => ?_⟩
  · simp [entryUnanswered, entry, gone]
  · simp [entryUnanswered, entry, live, beside]
  · simp [entryUnanswered, entry, live, beside, left]
  · simp [entryUnanswered, entry, live, beside, Nat.not_lt.mpr none_]

theorem kind_of_entryOf {k : Kind} {l : LineUnit} {e : ControlEntry} (entry : entryOf k l = some e) : e.content.kind = k := by
  simpa using List.find?_some entry

/-! ### The slot's attempt stopped before its Turn (R36, R39, R40) -/

/-- The LU with its slot empty, framing on as a receiver. -/
def LineUnit.stopped (l : LineUnit) : LineUnit := { l with slot := none, receive := .framing false false none }

section
variable {s : State} {x : Slot} {w : Bool} (receive : s.lu.receive = .framing true w none) (slot : s.lu.slot = some x)
include receive

theorem stopped_eq : { s.lu with slot := none, receive := stopDriving s.lu.receive } = s.lu.stopped := by
  rw [receive]; rfl

include slot

theorem sendingNow_of : sendingNow s = some x := by simp [sendingNow, receive, slot]

theorem exec_arbitrationLoss :
    exec .arbitrationLoss s = .next (settle { s with lu := readyAgain x.source s.lu.stopped }) := by
  rw [exec, execArbitrationLoss, sendingNow_of receive slot]
  dsimp only
  rw [loseArbitration, stopped_eq receive]
  rfl

/-- COLLISION of any telegram but the restart CLEAR's (R40, R54). -/
theorem exec_collision (frames : endsFraming x s = false) : exec .collision s = .next (settle (collide x s)) := by
  rw [exec, execCollision, sendingNow_of receive slot]
  simp only [frames, Bool.false_eq_true, if_false]
  rfl

omit slot in
/-- A first collision is an unanswered attempt (R40). -/
theorem collide_first (first : collisionsOf x.source s.lu = 0) :
    collide x s = endRestartClear x.source
      (collisionUnanswered x.source { s with lu := setCollisions 1 x.source s.lu.stopped }) := by
  rw [collide, stopped_eq receive, first]
  exact if_neg (by decide)

omit slot in
/-- A second collision brings LISTEN-ONLY (R40). -/
theorem collide_second (second : collisionsOf x.source s.lu = 1) :
    collide x s = enterListenOnly { s with lu := setCollisions 2 x.source s.lu.stopped } := by
  rw [collide, stopped_eq receive, second]
  exact if_pos (by decide)

end

theorem endRestartClear_of {source : SlotSource} {s : State} (h : s.lu.restartClear = false ∨ source ≠ .control .clear) :
    endRestartClear source s = s := by
  refine if_neg fun ⟨waits, clear⟩ => ?_
  rcases h with served | other
  · rw [served] at waits; cases waits
  · exact other clear

theorem endsFraming_of {x : Slot} {s : State} (h : s.lu.restartClear = false ∨ x.source ≠ .control .clear) :
    endsFraming x s = false := by
  rcases h with served | other
  · simp [endsFraming, served]
  · simp [endsFraming, other]

theorem endsFraming_of_second {x : Slot} {s : State} (second : collisionsOf x.source s.lu = 1) : endsFraming x s = false := by
  simp [endsFraming, second]

/-- In LISTEN-ONLY the LU holds nothing, and goes on framing what it framed (R53). -/
theorem settle_enterListenOnly (s : State) :
    let t := settle (enterListenOnly s)
    t.lu = luListenOnly s.lu ∧ t.cm.call = (enterListenOnly s).cm.call := by
  have lu := lu_enterListenOnly s
  obtain ⟨m, settled⟩ := settle_eq_of_formText (formText_of_not_joined (s := enterListenOnly s) (by rw [lu]; simp [luListenOnly]))
  dsimp only
  rw [settled]
  exact ⟨lu, rfl⟩

/-- A second collision, of any telegram (R40, R53). -/
theorem collision_second {s : State} {x : Slot} {w : Bool} (receive : s.lu.receive = .framing true w none)
    (slot : s.lu.slot = some x) (second : collisionsOf x.source s.lu = 1) :
    ∃ t, exec .collision s = .next t ∧ t.lu.joinState = .listenOnly ∧ t.lu.slot = none ∧ t.lu.control = []
      ∧ t.lu.text = none ∧ t.lu.probeWait = none ∧ t.lu.receive = .framing false false none
      ∧ t.cm.call = (enterListenOnly { s with lu := setCollisions 2 x.source s.lu.stopped }).cm.call := by
  refine ⟨_, exec_collision receive slot (endsFraming_of_second second), ?_⟩
  rw [collide_second receive second]
  obtain ⟨lu, call⟩ := settle_enterListenOnly { s with lu := setCollisions 2 x.source s.lu.stopped }
  rw [lu]
  refine ⟨rfl, rfl, rfl, rfl, rfl, ?_, call⟩
  show stopDriving (setCollisions 2 x.source s.lu.stopped).receive = _
  cases x.source <;> rfl

/-! ### The restart CLEAR's first collision (R47, R54) -/

/-- The units read of it, from the time since its Start (R40, log 17). -/
theorem unitsToCollision_eq (t : Telegram) (s : State) :
    unitsToCollision t s =
      if s.lu.frameTime / unitTime s = 0 then []
      else (framedUnits t).take (s.lu.frameTime / unitTime s - 1)
        ++ (((framedUnits t)[s.lu.frameTime / unitTime s - 1]?).map fun u => !u).toList := by
  unfold unitsToCollision
  split
  · rename_i zero; rw [if_pos zero]
  · rename_i n more
    rw [if_neg (by rw [more]; exact Nat.succ_ne_zero n), more, Nat.succ_sub_one]
    cases (framedUnits t)[n]? <;> rfl

theorem length_unitsToCollision (t : Telegram) (s : State) : (unitsToCollision t s).length ≤ s.lu.frameTime / unitTime s := by
  rw [unitsToCollision_eq]
  split_ifs with zero
  · simp
  · have last : ∀ o : Option Bool, o.toList.length ≤ 1 := by intro o; cases o <;> simp
    rw [List.length_append, List.length_take]
    calc _ ≤ (s.lu.frameTime / unitTime s - 1) + 1 := Nat.add_le_add (Nat.min_le_left _ _) (last _)
      _ = s.lu.frameTime / unitTime s := Nat.succ_pred zero

/-- The unit that did not match goes on for what of it is left, where it is space (log 17). -/
theorem spaceGoingOn_collision (t : Telegram) (s : State) :
    spaceGoingOn (unitsToCollision t s) s =
      if (unitsToCollision t s).getLast? = some false then ((unitsToCollision t s).length + 1) * unitTime s - s.lu.frameTime
      else 0 := by
  have enough : (unitsToCollision t s).length * unitTime s ≤ s.lu.frameTime :=
    (Nat.mul_le_mul_right _ (length_unitsToCollision t s)).trans (Nat.div_mul_le_self _ _)
  unfold spaceGoingOn
  rw [Nat.add_mul, Nat.one_mul]
  split_ifs
  · exact Nat.min_eq_right (by omega)
  · rfl

/-- An unanswered CLEAR leaves of the LU all but its list (R42, R43, R92). -/
theorem lu_clearUnanswered {s : State} {e : ControlEntry} (entry : entryOf .clear s.lu = some e) :
    ∃ control, (entryUnanswered .clear s).lu = { s.lu with control := control } := by
  obtain ⟨gone, renewed, again, ends⟩ := entryUnanswered_eq entry
  cases withdrawn : e.withdrawn with
  | true => rw [gone withdrawn, appendFresh_control]; exact ⟨_, rfl⟩
  | false =>
    cases beside : e.beside with
    | some r => rw [renewed r withdrawn beside]; exact ⟨_, rfl⟩
    | none =>
      by_cases left : e.retriesUsed < e.content.allowance
      · rw [again withdrawn beside left]; exact ⟨_, rfl⟩
      · rw [ends withdrawn beside (Nat.le_of_not_lt left)]
        refine ⟨(dropEntry .clear s.lu).control, ?_⟩
        have kind := kind_of_entryOf entry
        simp only [exhausted, kind]
        split_ifs with cm clearing
        · exact (toIdle_of_not_open (s := { s with lu := dropEntry .clear s.lu }) false none (by rw [clearing]; decide)).2.1
        · rfl
        · rfl

/-- What the LU is once the restart CLEAR's first collision has ended its framing (R54). -/
theorem lu_collide_restartClear {s : State} {tel : Telegram} {e : ControlEntry} {w : Bool}
    (receive : s.lu.receive = .framing true w none) (entry : entryOf .clear s.lu = some e)
    (waits : s.lu.restartClear = true) (first : e.collisions = 0) :
    ∃ control, (collide ⟨.control .clear, tel⟩ s).lu = (enterListen { s with lu := { s.lu.stopped with control := control } }).lu := by
  have zero : collisionsOf (.control .clear) s.lu = 0 := by simp [collisionsOf, entry, first]
  have found : entryOf .clear (setCollisions 1 (.control .clear) s.lu.stopped) = some { e with collisions := 1 } := by
    exact (entryOf_mapEntry .clear (f := fun e => { e with collisions := 1 }) (fun _ => rfl) s.lu.stopped).trans
      (congrArg (Option.map _) entry)
  rw [collide_first receive zero, collisionUnanswered]
  obtain ⟨control, lu⟩ := lu_clearUnanswered (s := { s with lu := setCollisions 1 (.control .clear) s.lu.stopped }) found
  refine ⟨control, ?_⟩
  generalize entryUnanswered .clear _ = y at lu ⊢
  have fields : y.lu = { s.lu.stopped with control := control } := lu
  rw [endRestartClear, if_pos ⟨by rw [fields]; exact waits, rfl⟩, listenAfterAttempt, fields]
  simp only [LineUnit.stopped, enterListen, fields]

@[simp] theorem settle_spaceRun (s : State) : (settle s).lu.spaceRun = s.lu.spaceRun := by
  have := congrArg LineUnit.spaceRun (settle_bare s); exact this
@[simp] theorem settle_spaceLeft (s : State) : (settle s).lu.spaceLeft = s.lu.spaceLeft := by
  have := congrArg LineUnit.spaceLeft (settle_bare s); exact this
@[simp] theorem settle_frameTime (s : State) : (settle s).lu.frameTime = s.lu.frameTime := by
  have := congrArg LineUnit.frameTime (settle_bare s); exact this

/-! ### The obligation -/

theorem collision_text {s : State} {tel : Telegram} {p : TextPlace} {w : Bool} (receive : s.lu.receive = .framing true w none)
    (text : s.lu.text = some p) (live : p.withdrawn = false)
    (slot : s.lu.slot = some ⟨.text, tel⟩) (first : p.collisions = 0) (left : p.retriesUsed < s.cl.config.retryLimit) :
    exec .collision s =
      .next (settle
        { s with
          lu.slot := none
          lu.receive := .framing false false none
          lu.text := some
            { p with collisions := 1, retriesUsed := p.retriesUsed + 1, readiness := .waiting (40 * unitTime s) } }) := by
  rw [exec_collision receive slot (endsFraming_of (.inr (by simp))),
    collide_first receive (by simp [collisionsOf, text, first])]
  rw [endRestartClear_of (.inr (by simp))]
  simp [collisionUnanswered, textUnanswered, setCollisions, LineUnit.stopped, text, live, left, retryWait, unitTime]

/-- The first collision of a control entry's attempt (R40, R43). -/
theorem collision_control {s : State} {tel : Telegram} {k : Kind} {e : ControlEntry} {w : Bool}
    (receive : s.lu.receive = .framing true w none) (slot : s.lu.slot = some ⟨.control k, tel⟩)
    (entry : entryOf k s.lu = some e) (first : e.collisions = 0) (served : s.lu.restartClear = false)
    {t : State} (unanswered :
      entryUnanswered k { s with lu := mapEntry k (fun x => { x with collisions := 1 }) s.lu.stopped } = t)
    (waits : t.lu.restartClear = false) :
    exec .collision s = .next (settle t) := by
  rw [exec_collision receive slot (endsFraming_of (.inl served)),
    collide_first receive (by simp [collisionsOf, entry, first])]
  refine congrArg (fun y => Host.Outcome.next (settle y)) ?_
  refine (congrArg (endRestartClear (.control k)) unanswered).trans ?_
  exact endRestartClear_of (.inl waits)

/-- Settles O37. -/
theorem arbitrationAndCollision : Obligations.ArbitrationAndCollision := by
  unfold Obligations.ArbitrationAndCollision
  refine ⟨fun s tel p w load receive slot text live served => ⟨?_, fun first left => ?_, fun second => ?_⟩,
    fun s tel k e w receive slot entry served => ?_, fun s tel e w receive slot entry waits first load joined clear => ?_,
    fun s tel w receive slot => ⟨?_, fun first => ?_, fun second => ?_⟩⟩
  · rw [exec_arbitrationLoss receive slot]
    simp [readyAgain, textReadyAgain, LineUnit.stopped, text, live]
  · exact collision_text receive text live slot first left
  · obtain ⟨t, run, join, slot', control, text', _, receive', call⟩ :=
      collision_second receive slot (by simp [collisionsOf, text, second])
    refine ⟨t, run, join, slot', control, text', receive', ?_⟩
    rw [call]
    exact enterListenOnly_state (p := { p with collisions := 2 }) (by simp [setCollisions, LineUnit.stopped, text]) live
  · have marked : entryOf k (mapEntry k (fun x => { x with collisions := 1 }) s.lu.stopped)
        = some { e with collisions := 1 } :=
      (entryOf_mapEntry k (f := fun e => { e with collisions := 1 }) (fun _ => rfl) s.lu.stopped).trans
        (congrArg (Option.map _) entry)
    obtain ⟨gone, renewed, again⟩ := entryReadyAgain_eq (l := s.lu.stopped) entry
    obtain ⟨gone', renewed', again', -⟩ := entryUnanswered_eq
      (s := { s with lu := mapEntry k (fun x => { x with collisions := 1 }) s.lu.stopped }) marked
    refine ⟨fun withdrawn => ⟨?_, fun first => ?_⟩, fun r withdrawn beside => ⟨?_, fun first => ?_⟩,
      fun withdrawn beside => ⟨?_, fun first left => ?_⟩, fun second => ?_⟩
    · rw [exec_arbitrationLoss receive slot, readyAgain, gone withdrawn, appendFresh_control]
      rfl
    · refine collision_control receive slot entry first served ((gone' withdrawn).trans ?_) served
      rw [dropEntry_mapEntry k (f := fun e => { e with collisions := 1 }) (fun _ => rfl), appendFresh_control]
      rfl
    · rw [exec_arbitrationLoss receive slot, readyAgain, renewed r withdrawn beside]
      rfl
    · refine collision_control receive slot entry first served ((renewed' r withdrawn beside).trans ?_) served
      rw [mapEntry_mapEntry k _ (f := fun e => { e with collisions := 1 }) (fun _ => rfl)]
      rfl
    · rw [exec_arbitrationLoss receive slot, readyAgain, again withdrawn beside]
      rfl
    · refine collision_control receive slot entry first served ((again' withdrawn beside left).trans ?_) served
      rw [mapEntry_mapEntry k _ (f := fun e => { e with collisions := 1 }) (fun _ => rfl)]
      rfl
    · obtain ⟨t, run, join, slot', control, text', _, receive', _⟩ :=
        collision_second receive slot (by
          show (match entryOf k s.lu with | some e => e.collisions | none => 0) = 1
          rw [show entryOf k s.lu = some e from entry]; exact second)
      exact ⟨t, run, join, slot', control, text', receive'⟩
  · have entry' : entryOf .clear s.lu = some e := entry
    have ends : endsFraming ⟨.control .clear, tel⟩ s = true := by simp [endsFraming, waits, collisionsOf, entry', first]
    have run : exec .collision s =
        readUnits (unitsToCollision tel s)
          (fun s1 => collide ⟨.control .clear, tel⟩ { s1 with lu.spaceLeft := spaceGoingOn (unitsToCollision tel s) s }) s := by
      rw [exec, execCollision, sendingNow_of receive slot]
      simp only [ends, if_true]
    dsimp only
    rw [run, spaceGoingOn_collision, ← unitsToCollision_eq]
    generalize unitsToCollision tel s = read
    refine ⟨fun whole => ⟨_, readUnits_of_unbroken whole, ?_⟩, fun broken => ?_⟩
    · obtain ⟨control, lu⟩ := lu_collide_restartClear (tel := tel)
        (s := { countUnits read s with
          lu.spaceLeft := if read.getLast? = some false then (read.length + 1) * unitTime s - s.lu.frameTime else 0 })
        receive entry' waits first
      simp only [settle_joinState, settle_receive, settle_slot, settle_quiet, settle_listenWindow, settle_restartClear,
        settle_condition, settle_spaceRun, settle_spaceLeft, lu]
      exact ⟨rfl, rfl, rfl, rfl, rfl, rfl, clear, rfl, rfl⟩
    · have breaks : breaksLine read s = true := decide_eq_true (Nat.le_of_not_lt broken)
      rw [readUnits, if_pos breaks]
      rfl
  · rw [exec_arbitrationLoss receive slot]
    rfl
  · rw [exec_collision receive slot (endsFraming_of (.inr (by simp))),
      collide_first (x := ⟨.probe, tel⟩) receive first, endRestartClear_of (.inr (by simp))]
    rfl
  · obtain ⟨t, run, join, slot', control, _, probe, receive', _⟩ := collision_second receive slot second
    exact ⟨t, run, join, slot', control, probe, receive'⟩

end Sys2Proof.Machine
end

section
/-!
Joining and hunting (R32, R35, R36, R47, R50, R51), and the Turn of another station's telegram (R57, R58).
-/

namespace Sys2Proof.Machine

/-! ### What a notice leaves (R109, R134) -/

theorem kept_of_storeCore {α : Type} {a b : State} (h : storeCore a = storeCore b) (f : State → α)
    (hidden : ∀ u, f (storeCore u) = f u) : f a = f b := by rw [← hidden, h, hidden]

theorem notice_field {α : Type} (f : State → α) (hidden : ∀ u, f (storeCore u) = f u) (n : Notice) (s : State) :
    f (notice n s) = f s := kept_of_storeCore (storeCore_notice n s) f hidden

/-- The LU but for its list, which the store's operations may add to. -/
def LineUnit.line (l : LineUnit) : LineUnit := { l with control := [] }

theorem notice_line (n : Notice) (s : State) : (notice n s).lu.line = s.lu.line :=
  notice_field (fun u => u.lu.line) (fun _ => rfl) n s

/-! ### Nothing of an append reads the run of space -/

/-- The same machine with another run of space. -/
def withSpaceRun (r : Nat) (s : State) : State := { s with lu.spaceRun := r }

theorem enterRequest_spaceRun (q : Request) (r : Nat) (l : LineUnit) :
    enterRequest q { l with spaceRun := r } = { enterRequest q l with spaceRun := r } := by
  have cancel : cancels { l with spaceRun := r } q = cancels l q := rfl
  have busy : inSlot q.kind { l with spaceRun := r } = inSlot q.kind l := rfl
  unfold enterRequest
  rw [cancel, busy]
  split_ifs <;> rfl

theorem requestOrDrop_withSpaceRun (q : Request) (r : Nat) (s : State) :
    requestOrDrop q (withSpaceRun r s) = withSpaceRun r (requestOrDrop q s) := by
  cases enters : entersRequests s.lu with
  | true =>
    rw [requestOrDrop_entered enters, requestOrDrop_entered (s := withSpaceRun r s) enters]
    exact congrArg (fun l : LineUnit => ({ s with lu := l } : State)) (enterRequest_spaceRun q r s.lu)
  | false => rw [requestOrDrop_refused enters, requestOrDrop_refused (s := withSpaceRun r s) enters]

theorem flowTest_withSpaceRun (r : Nat) (s : State) : flowTest (withSpaceRun r s) = withSpaceRun r (flowTest s) := by
  have held : setHeld (withSpaceRun r s) = withSpaceRun r (setHeld s) :=
    congrArg (fun x : State => { x with cm.call.heldByMe := true, cm.call.heldSince := some (sec 120) })
      (requestOrDrop_withSpaceRun (request s .hold (talkingParty s.cm.call) [] .cm) r s)
  have cleared : clearHeld (withSpaceRun r s) = withSpaceRun r (clearHeld s) :=
    congrArg (fun x : State => { x with cm.call.heldByMe := false, cm.call.heldSince := none })
      (requestOrDrop_withSpaceRun (request s .go (talkingParty s.cm.call) [] .cm) r s)
  have applies : flowApplies (withSpaceRun r s) = flowApplies s := rfl
  have hold : holdLevel (withSpaceRun r s) = holdLevel s := rfl
  have go : goLevel (withSpaceRun r s) = goLevel s := rfl
  have mine : (withSpaceRun r s).cm.call.heldByMe = s.cm.call.heldByMe := rfl
  unfold flowTest
  rw [held, cleared, applies, hold, go, mine]
  split_ifs <;> rfl

theorem notice_withSpaceRun (n : Notice) (r : Nat) (s : State) :
    notice n (withSpaceRun r s) = withSpaceRun r (notice n s) := by
  cases present : s.pu.present with
  | false => rw [notice_absent present, notice_absent (s := withSpaceRun r s) present]
  | true =>
    rw [notice_present present, notice_present (s := withSpaceRun r s) present]
    cases passes : s.cs.spaceCheck .print .mayUse n.run with
    | false => rw [appendRun_refused passes, appendRun_refused (s := withSpaceRun r s) passes]; rfl
    | true =>
      rw [appendRun_passed passes, appendRun_passed (s := withSpaceRun r s) passes, Option.getD_some, Option.getD_some,
        placeRun_of_not_send (by decide), placeRun_of_not_send (by decide)]
      have flow := flowTest_withSpaceRun r { s with cs := s.cs.pushRun .print n.run }
      have needed : ((withSpaceRun r s).cs.queue .print).blocksNeeded n.run = (s.cs.queue .print).blocksNeeded n.run := rfl
      rw [needed]
      split_ifs
      · rfl
      · exact flow

/-! ### Joining (R50, R51) -/

theorem listenQuietExpiry_enters {s : State} (load : loaded s = true) (listen : s.lu.joinState = .listen)
    (clear : s.lu.condition = .clear) (hunting : s.lu.receive = .hunting) :
    exec .listenQuietExpiry s =
      .next (settle (enterProbe (elapse (if sec 2 ≤ s.lu.quiet then 0 else s.lu.spaceLeft + (sec 2 - s.lu.quiet)) s))) := by
  have hunts : hunts s = true := hunts_of load (by rw [listen]; decide) clear hunting
  have wait : s.lu.untilMark (sec 2 - s.lu.quiet) = if sec 2 ≤ s.lu.quiet then 0 else s.lu.spaceLeft + (sec 2 - s.lu.quiet) := by
    simp only [LineUnit.untilMark, Nat.sub_eq_zero_iff_le]
  rw [exec, execListenQuietExpiry, actIf_of _ s (by simp [hunts, listen]), wait]

theorem listenWindowExpiry_prints {s : State} {left : Tick} (load : loaded s = true) (listen : s.lu.joinState = .listen)
    (clear : s.lu.condition = .clear) (window : s.lu.listenWindow = some left) :
    exec .listenWindowExpiry s =
      .next (settle (notice .lineFault { elapse left s with lu.listenWindow := some (sec 30) })) := by
  have online : online s = true := online_of load (by rw [listen]; decide)
  rw [exec, execListenWindowExpiry, expire_of _ s window (by simp [online, listen, clear])]

theorem probeWaitExpiry_ends {s : State} {left : Tick} (load : loaded s = true) (probe : s.lu.joinState = .probe)
    (wait : s.lu.probeWait = some left) :
    exec .probeWaitExpiry s = .next (settle { elapse left s with lu.probeWait := none }) := by
  have online : online s = true := online_of load (by rw [probe]; decide)
  rw [exec, execProbeWaitExpiry, expire_of _ s wait (by simp [online, probe])]

/-! ### A space read in HUNTING (R32, R36, R47) -/

theorem unitTime_pos (s : State) : 0 < unitTime s := by
  unfold unitTime
  cases s.cl.config.rate <;> decide

theorem elapse_of_loaded {s : State} (load : loaded s = true) (d : Tick) : (elapse d s).lu = s.lu.elapse d := by
  have low : s.cl.resetLow = false := by
    cases reset : s.cl.resetLow with
    | false => rfl
    | true => simp [loaded, reset] at load
  simp [elapse, low]


/-- Where the space unit before has ended and `n` units of mark have passed, the quiet timer and the run of space (R32, R47). -/
theorem elapse_before_space {s : State} (load : loaded s = true) (on : s.lu.joinState ≠ .offline)
    (hunting : s.lu.receive = .hunting) (n : Nat) :
    let l := (elapse (s.lu.spaceLeft + n * unitTime s) s).lu
    l.quiet = s.lu.quiet + n * unitTime s
      ∧ spaceRunOn l = (if s.lu.quiet = 0 ∧ n = 0 then s.lu.spaceRun + 1 else 1)
      ∧ l.joinState = s.lu.joinState ∧ l.condition = s.lu.condition := by
  have counting : s.lu.counting = true := by simp [LineUnit.counting, on, hunting]
  have unit := unitTime_pos s
  dsimp only
  rw [elapse_of_loaded load]
  cases n with
  | zero =>
    obtain ⟨run, quiet⟩ := LineUnit.elapse_in_space (l := s.lu) (Nat.le_refl s.lu.spaceLeft)
    rw [Nat.zero_mul, Nat.add_zero]
    exact ⟨by simp [quiet], by simp [spaceRunOn, run, quiet], rfl, rfl⟩
  | succ n =>
    have more : 0 < (n + 1) * unitTime s := Nat.mul_pos (Nat.succ_pos n) unit
    obtain ⟨run, quiet⟩ := LineUnit.elapse_to_mark (l := s.lu) (Nat.lt_add_of_pos_right more) counting
    rw [Nat.add_sub_cancel_left] at quiet
    refine ⟨quiet, ?_, rfl, rfl⟩
    rw [spaceRunOn_of_quiet (by rw [quiet]; exact (Nat.add_pos_right _ more).ne'), if_neg (by simp)]

/-- A break found in HUNTING (R47, R94). -/
theorem lineBroken_hunts (s : State) :
    (lineBroken s).lu.receive = .hunting ∧ (lineBroken s).lu.quiet = 0 ∧ (lineBroken s).ku.fifo = s.ku.fifo := by
  unfold lineBroken
  dsimp only
  generalize before : breakRestartClear s.lu _ = x
  have from_x : x.lu.receive = .hunting ∧ x.lu.quiet = 0 ∧ x.ku = s.ku := by
    subst before
    unfold breakRestartClear
    split <;> exact ⟨rfl, rfl, rfl⟩
  obtain ⟨receive, quiet, ku⟩ := from_x
  exact ⟨(notice_field (fun u => u.lu.receive) (fun _ => rfl) _ x).trans receive,
    (notice_field (fun u => u.lu.quiet) (fun _ => rfl) _ x).trans quiet,
    (notice_field (fun u => u.ku.fifo) (fun _ => rfl) _ x).trans (by rw [ku])⟩

/-- Settles O26. -/
theorem joiningAndHunting : Obligations.JoiningAndHunting := by
  unfold Obligations.JoiningAndHunting
  refine ⟨fun s load => ⟨fun listen clear hunting => listenQuietExpiry_enters load listen clear hunting,
      fun left listen clear window => listenWindowExpiry_prints load listen clear window,
      fun left probe wait => probeWaitExpiry_ends load probe wait⟩,
    fun n s load on clear hunting => ?_, fun t s receive malformed whole => ?_⟩
  · obtain ⟨quiet, run, join, condition⟩ := elapse_before_space load on hunting n
    have reads : exec (.huntingSpaceRead n) s = .next (settle (readSpace n s)) := by
      rw [exec, execHuntingSpaceRead, actIf_of _ s (hunts_of load on clear hunting)]
    have ku := elapse_ku (s.lu.spaceLeft + n * unitTime s) s
    have file := elapse_file (s.lu.spaceLeft + n * unitTime s) s
    have state := elapse_callState (s.lu.spaceLeft + n * unitTime s) s
    rw [reads]
    unfold readSpace
    dsimp only
    rw [run, quiet]
    generalize elapse (s.lu.spaceLeft + n * unitTime s) s = x at *
    refine ⟨fun below => ⟨_, rfl, ?_⟩, fun follows long => ⟨_, rfl, ?_⟩⟩
    · have short : ¬ breakRun ≤ if s.lu.quiet = 0 ∧ n = 0 then s.lu.spaceRun + 1 else 1 := by
        unfold breakRun
        split_ifs with follows
        · exact fun long => below ⟨follows, by omega⟩
        · decide
      simp only [if_neg short, settle_quiet, settle_joinState, settle_condition, settle_spaceRun, settle_receive,
        settle_spaceLeft, settle_frameTime, settle_ku, settle_au, settle_call]
      refine ⟨trivial, join, condition.trans clear, trivial, fun starts => ?_, fun early => ?_, ku, file, state⟩
      · simp [starts]
      · simp [Nat.not_le.mpr early]
    · have breaks : breakRun ≤ if s.lu.quiet = 0 ∧ n = 0 then s.lu.spaceRun + 1 else 1 := by
        rw [if_pos follows]; exact Nat.succ_le_succ long
      rw [if_pos breaks]
      simp only [settle_condition, settle_receive, settle_quiet, settle_breakTimer, settle_call, settle_ku]
      generalize entry : ({ x with lu := _ } : State) = y
      obtain ⟨counted, broken, timer⟩ := lineBroken_spec y
      obtain ⟨receive, quiet', fifo⟩ := lineBroken_hunts y
      have state' : y.cm.call.state = s.cm.call.state := by rw [← entry]; exact state
      have ku' : y.ku = s.ku := by rw [← entry]; exact ku
      exact ⟨broken, receive, quiet', timer, counted.state.trans state', by rw [fifo, ku']⟩
  · rw [exec, execMalformedDiscard, if_pos ⟨by simp [framingUndecided, receive], malformed⟩, readUnits_of_unbroken whole]
    rfl

/-! ### The Turn by kind (R57, R58) -/

theorem isParty_iff (s : State) (n : Station) : isParty s n = true ↔ fromParty s n := by
  unfold isParty fromParty
  split_ifs <;> simp

theorem pollRefusal_iff (t : Telegram) :
    pollRefusal t = true ↔ telegramReason t = some .noTape ∨ telegramReason t = some .readerBusy := by
  unfold pollRefusal
  cases telegramReason t with
  | none => simp
  | some r => cases r <;> simp

/-- The table of R58, row by row. -/
theorem takenByTable_iff (s : State) (k : Kind) (t : Telegram) : takenByTable s k t = true ↔ takesKind s k t := by
  cases k with
  | who => simp [takenByTable, takesKind]
  | hereis => simp [takenByTable, takesKind]
  | clear => simp [takenByTable, takesKind]
  | refuse =>
    simp only [takenByTable, takesKind, Bool.and_eq_true, Bool.or_eq_true, decide_eq_true_eq, isParty_iff, pollRefusal_iff,
      and_assoc] <;> exact Iff.rfl
  | call => simp [takenByTable, takesKind]
  | text => simp [takenByTable, takesKind]
  | accept | hold | go | brk | poll =>
    simp only [takenByTable, takesKind, Bool.and_eq_true, decide_eq_true_eq, isParty_iff, and_assoc] <;> exact Iff.rfl

/-- The Turn of another station's telegram that changes nothing but the LU's framing (R37, R47). -/
theorem telegramTurn_plain {s : State} {t : Telegram} {k : Kind} {taken : Bool} {r : TurnResult} (waits : awaitsTurn s)
    (whole : unbroken (framedUnits t) s) (kind : validKind t = some k)
    (decided : turnDecision k t (countUnits (framedUnits t) s) = (taken, r, countUnits (framedUnits t) s)) :
    exec (.telegramTurn t) s = .next (settle (framedAs t (telegramRun s k t) taken r s)) := by
  obtain ⟨w, receive⟩ := waits
  have undecided : framingUndecided s = some (false, w) := by simp [framingUndecided, receive]
  rw [exec, execTelegramTurn, undecided, kind]
  dsimp only
  rw [readUnits_of_unbroken whole, turnHeard, decided]
  rfl

/-- What is decided of a kind other than CALL and TEXT (R57, R58). -/
theorem turnDecision_table {k : Kind} {t : Telegram} {s : State} (notCall : k ≠ .call) (notText : k ≠ .text)
    (notProbe : isProbe k t = false) :
    turnDecision k t s =
      (takesTelegrams s && (windowFor s t.destination).isSome && takenByTable s k t, .plain, s) := by
  unfold turnDecision
  cases takes : takesTelegrams s with
  | false => simp
  | true =>
    cases window : windowFor s t.destination with
    | none => simp [notProbe]
    | some w =>
      cases k with
      | call => exact absurd rfl notCall
      | text => exact absurd rfl notText
      | accept | refuse | clear | hold | go | brk | who | hereis | poll => simp [notProbe]

/-- A probe read at its Turn (R52). -/
theorem turnDecision_probe {t : Telegram} {s : State} (probe : t.destination = addrOf t.source)
    (takes : takesTelegrams s = true) :
    turnDecision .who t s =
      if t.source = s.cl.station then (true, .plain, notice (.duplicateProbed s.cl.station.toNat) s)
      else (false, .plain, s) := by
  have same : t.destination = ownAddr s ↔ t.source = s.cl.station := by
    rw [probe, ownAddr]
    exact ⟨fun eq => by unfold addrOf at eq; bv_omega, fun eq => by rw [eq]⟩
  unfold turnDecision
  simp only [takes, isProbe, probe, Bool.not_true, Bool.false_eq_true, if_false, decide_true, Bool.and_true, if_true, probesUs,
    decide_eq_true_eq]
  rw [← probe]
  simp only [same]

/-- Settles O27, from the turn that runs into no other rule. -/
theorem turnTakesByKind : Obligations.TurnTakesByKind := by
  unfold Obligations.TurnTakesByKind
  refine ⟨fun s t k waits whole kind notCall notText notProbe => ⟨_, ?_, telegramTurn_plain waits whole kind
      (turnDecision_table notCall notText notProbe)⟩, fun s t waits whole kind probe joined clear => ⟨fun own => ?_, fun other => ?_⟩⟩
  · simp only [Bool.and_eq_true, takenByTable_iff, Option.isSome_iff_ne_none, takesTelegrams, decide_eq_true_eq, and_assoc]
    exact Iff.rfl
  · obtain ⟨w, receive⟩ := waits
    have undecided : framingUndecided s = some (false, w) := by simp [framingUndecided, receive]
    have decided := turnDecision_probe (t := t) (s := countUnits (framedUnits t) s) probe
      (by simp [takesTelegrams, countUnits, joined, clear])
    have own' : t.source = (countUnits (framedUnits t) s).cl.station := own
    have run : (notice (.duplicateProbed s.cl.station.toNat) s).lu.spaceRun = s.lu.spaceRun :=
      notice_field (fun u => u.lu.spaceRun) (fun _ => rfl) _ s
    rw [exec, execTelegramTurn, undecided, kind]
    dsimp only
    rw [readUnits_of_unbroken whole, turnHeard, decided, if_pos own']
    have printed := notice_withSpaceRun (.duplicateProbed s.cl.station.toNat) (spaceRunThrough (framedUnits t) s.lu.spaceRun) s
    have counted : countUnits (framedUnits t) s = withSpaceRun (spaceRunThrough (framedUnits t) s.lu.spaceRun) s := rfl
    rw [counted]
    dsimp only
    show acted { notice (.duplicateProbed s.cl.station.toNat) (withSpaceRun _ s) with lu.receive := _ } = _
    rw [printed, framedAs, run]
    generalize notice (.duplicateProbed s.cl.station.toNat) s = y
    have none : telegramRun (withSpaceRun (spaceRunThrough (framedUnits t) s.lu.spaceRun) s) .who t = [] := rfl
    rw [none]
    rfl
  · have other' : ¬ t.source = (countUnits (framedUnits t) s).cl.station := other
    have decided := turnDecision_probe (t := t) (s := countUnits (framedUnits t) s) probe
      (by simp [takesTelegrams, countUnits, joined, clear])
    rw [if_neg other'] at decided
    have turn := telegramTurn_plain waits whole kind decided
    have none : telegramRun s .who t = [] := rfl
    rwa [none] at turn

end Sys2Proof.Machine
end

section
/-!
The hand-on: what it leaves of the machine (R32, R36 to R38), the join state (R50 to R53), and the line view (R68, R69).
-/

namespace Sys2Proof.Machine

/-! ### What a hand-on leaves: `callCore`, but for the dial buffer (R111) -/

/-- The state with all that the call's part of a hand-on may change hidden. -/
def handCore (s : State) : State := { callCore s with ku.dial := [] }

theorem handCore_of_callCore {a b : State} (h : callCore a = callCore b) : handCore a = handCore b := by
  rw [handCore, h, handCore]

/-- A field that `handCore` does not hide. -/
theorem kept_of_handCore {α : Type} {a b : State} (h : handCore a = handCore b) (f : State → α)
    (hidden : ∀ u, f (handCore u) = f u) : f a = f b := by rw [← hidden, h, hidden]

theorem callCore_sendLooseClear (d : Addr) (s : State) : callCore (sendLooseClear d s) = callCore s :=
  callCore_requestOrDrop _ s

theorem callCore_ownCall (h : Handed) (s : State) : callCore (ownCall h s) = callCore s := by
  unfold ownCall
  split_ifs
  · rfl
  · exact callCore_sendLooseClear _ s
  · exact callCore_enterOpen s
  · simp
  · rfl

theorem callCore_ownAccept (h : Handed) (s : State) : callCore (ownAccept h s) = callCore s := by
  unfold ownAccept
  split_ifs
  · exact callCore_enterOpen s
  · rfl

theorem callCore_takenAccept (h : Handed) (s : State) : callCore (takenAccept h s) = callCore s := by
  unfold takenAccept
  split_ifs
  · cases s.cm.call.state with
    | awaiting => exact callCore_enterOpen s
    | clearing => rfl
    | idle | dialing | calling | ringing | opened => exact callCore_sendLooseClear _ s
  · rfl

theorem callCore_heardRefuse (freed : Bool) (h : Handed) (s : State) : callCore (heardRefuse freed h s) = callCore s := by
  unfold heardRefuse
  cases telegramReason h.telegram with
  | none => rfl
  | some r =>
    dsimp only
    split_ifs
    · exact callCore_toIdle _ _ s
    · exact callCore_notice _ s
    · rfl
    · rfl

theorem callCore_memberLeft (n : Station) (s : State) : callCore (memberLeft n s) = callCore s :=
  (callCore_notice _ _).trans rfl

theorem callCore_withdraw (k : Kind) (s : State) : callCore { s with lu := withdraw k s.lu } = callCore s := rfl

theorem callCore_heardClear (freed : Bool) (h : Handed) (s : State) : callCore (heardClear freed h s) = callCore s := by
  unfold heardClear
  cases telegramCause h.telegram with
  | none => rfl
  | some c =>
    dsimp only
    split
    · split_ifs
      · exact callCore_memberLeft _ s
      · rfl
    · split
      · cases s.cm.call.state with
        | idle | dialing | calling => rfl
        | opened | awaiting => exact callCore_toIdle _ _ s
        | ringing => exact (callCore_toIdle _ _ _).trans (callCore_withdraw .accept s)
        | clearing =>
          cases h.taken with
          | true => exact (callCore_toIdle _ _ _).trans (callCore_withdraw .clear s)
          | false => rfl
      · rfl

theorem callCore_heardText (h : Handed) (s : State) : callCore (heardText h s) = callCore s := by
  unfold heardText
  split
  · exact callCore_flowTest s
  · split_ifs
    · rfl
    · exact callCore_queueHold s
    · exact callCore_setHeld s
  · split_ifs
    · rfl
    · exact callCore_queueHold s
    · exact callCore_setHeld s
  · rfl

theorem callCore_takenHold (h : Handed) (s : State) : callCore (takenHold h s) = callCore s := by
  unfold takenHold; split_ifs <;> rfl

theorem callCore_takenGo (h : Handed) (s : State) : callCore (takenGo h s) = callCore s := by
  unfold takenGo; split_ifs <;> rfl

theorem callCore_takenBreak (h : Handed) (s : State) : callCore (takenBreak h s) = callCore s := by
  unfold takenBreak
  split_ifs
  · exact (callCore_notice _ _).trans (callCore_stopSending s)
  · rfl

theorem callCore_takenPoll (h : Handed) (s : State) : callCore (takenPoll h s) = callCore s := by
  unfold takenPoll
  split_ifs
  · cases pollReason s with
    | none => rfl
    | some r => exact callCore_requestOrDrop _ s
  · rfl

theorem callCore_takenWho (h : Handed) (s : State) : callCore (takenWho h s) = callCore s := by
  unfold takenWho
  split_ifs
  · exact callCore_requestOrDrop _ s
  · rfl

theorem callCore_capture (run : List Resolved) (s : State) : callCore (capture run s) = callCore s := by
  unfold capture
  dsimp only
  split
  · exact callCore_updateRecord _ _ _
  · rfl

theorem callCore_takenHereis (h : Handed) (s : State) : callCore (takenHereis h s) = callCore s := by
  unfold takenHereis
  dsimp only
  split_ifs
  · exact (callCore_capture _ _).trans (callCore_notice _ s)
  · exact callCore_notice _ s
  · rfl

/-! A CALL heard: all but the undoing of dialing leave `callCore`. -/

theorem callCore_overtaken (s : State) : callCore (overtaken s) = callCore s :=
  (callCore_toIdle _ _ _).trans (callCore_withdraw .call s)

theorem handCore_undoDialing (s : State) : handCore (undoDialing s) = handCore s :=
  (handCore_of_callCore (callCore_notice _ _)).trans rfl

theorem callCore_enterRinging (t : Telegram) (w : Fin 8) (s : State) : callCore (enterRinging t w s) = callCore s := rfl

theorem callCore_setAutoAnswered (b : Bool) (s : State) : callCore (setAutoAnswered b s) = callCore s := rfl

theorem callCore_refuseCall (t : Telegram) (r : Reason) (undone : Bool) (s : State) :
    callCore (refuseCall t r undone s) = callCore s := by
  unfold refuseCall
  dsimp only
  split_ifs
  · exact (callCore_toIdle _ _ _).trans (callCore_requestOrDrop _ s)
  · exact callCore_requestOrDrop _ s

theorem callCore_applyOutcome (o : AnswerOutcome) (w : Fin 8) (t : Telegram) (undone : Bool) (s : State) :
    callCore (applyOutcome o w t undone s) = callCore s := by
  cases o with
  | ring => rfl
  | accept => exact callCore_answerAccept _
  | glare => exact (callCore_answerAccept _).trans (callCore_withdraw .call s)
  | refuse r => exact callCore_refuseCall _ _ _ _
  | memberJoin => exact callCore_enterOpen _
  | notTaken => rfl

theorem handCore_takenCall (o : AnswerOutcome) (w : Fin 8) (was : CallState) (t : Telegram) (s : State) :
    handCore (takenCall o w was t s) = handCore s := by
  unfold takenCall
  split_ifs
  · exact (handCore_of_callCore (callCore_applyOutcome _ _ _ _ _)).trans (handCore_undoDialing s)
  · exact handCore_of_callCore (callCore_applyOutcome _ _ _ _ _)
  · rfl

theorem handCore_heardCall (tookView : Bool) (h : Handed) (s : State) : handCore (heardCall tookView h s) = handCore s := by
  have overtakes : handCore (if tookView && s.cm.call.state = .calling && !sparesAttempt h s then overtaken s else s)
      = handCore s := by
    split_ifs
    · exact handCore_of_callCore (callCore_overtaken s)
    · rfl
  unfold heardCall
  dsimp only
  split
  · exact (handCore_takenCall _ _ _ _ _).trans overtakes
  · exact overtakes

theorem handCore_cmHandOn (tookView freed : Bool) (h : Handed) (s : State) :
    handCore (cmHandOn tookView freed h s) = handCore s := by
  unfold cmHandOn
  cases h.own with
  | true =>
    rw [if_pos rfl]
    cases h.kind with
    | call => exact handCore_of_callCore (callCore_ownCall h s)
    | accept => exact handCore_of_callCore (callCore_ownAccept h s)
    | text | refuse | clear | hold | go | brk | who | hereis | poll => rfl
  | false =>
    rw [if_neg Bool.false_ne_true]
    cases h.kind with
    | call => exact handCore_heardCall tookView h s
    | accept => exact handCore_of_callCore (callCore_takenAccept h s)
    | refuse => exact handCore_of_callCore (callCore_heardRefuse freed h s)
    | clear => exact handCore_of_callCore (callCore_heardClear freed h s)
    | text => exact handCore_of_callCore (callCore_heardText h s)
    | hold => exact handCore_of_callCore (callCore_takenHold h s)
    | go => exact handCore_of_callCore (callCore_takenGo h s)
    | brk => exact handCore_of_callCore (callCore_takenBreak h s)
    | who => exact handCore_of_callCore (callCore_takenWho h s)
    | hereis => exact handCore_of_callCore (callCore_takenHereis h s)
    | poll => exact handCore_of_callCore (callCore_takenPoll h s)

theorem handCore_endFreed (freed : Bool) (h : Handed) (s : State) : handCore (endFreed freed h s) = handCore s := by
  unfold endFreed
  split_ifs
  · exact handCore_of_callCore ((callCore_toIdle _ _ _).trans (callCore_withdraw .accept s))
  · rfl

/-- The call's part of a hand-on and the line view's, after the LU's. -/
theorem handCore_handOn (h : Handed) (s : State) : handCore (handOn h s) = handCore (luHandOn h s) :=
  (handCore_endFreed _ h _).trans ((handCore_cmHandOn _ _ h _).trans rfl)

/-! ### The LU's part (R50 to R53) -/

theorem callCore_reportExhausted (rs : List Request) (s : State) : callCore (reportExhausted rs s) = callCore s := by
  unfold reportExhausted
  induction rs generalizing s with
  | nil => rfl
  | cons r rs ih => exact (ih (exhausted r s)).trans (callCore_exhausted r s)

theorem callCore_reportText (p : Option TextPlace) (s : State) : callCore (reportText p s) = callCore s := by
  unfold reportText
  split
  · split_ifs
    · rfl
    · exact callCore_textExhausted s
  · rfl

theorem callCore_enterListenOnly (s : State) :
    callCore (enterListenOnly s) = callCore { s with lu := luListenOnly s.lu } :=
  (callCore_notice _ _).trans ((callCore_reportText _ _).trans (callCore_reportExhausted _ _))

/-- The LU after its own part of a hand-on: the join state, and with LISTEN-ONLY nothing left to send (R50 to R53). -/
def luHanded (h : Handed) (s : State) : LineUnit :=
  let probing : LineUnit :=
    { s.lu with joinState := .probe, probeCount := 0, probeCollisions := 0, probeWait := none, listenWindow := none }
  if h.own then s.lu
  else if s.lu.joinState = .listen then
    if h.telegram.source = s.cl.station then luListenOnly s.lu else probing
  else if duplicateHeard h s then luListenOnly s.lu
  else s.lu

theorem lu_luHandOn (h : Handed) (s : State) : (luHandOn h s).lu = luHanded h s := by
  unfold luHandOn luHanded
  split_ifs
  · rfl
  · exact lu_enterListenOnly s
  · rfl
  · exact lu_enterListenOnly s
  · rfl

theorem callCore_luHandOn (h : Handed) (s : State) : callCore (luHandOn h s) = callCore { s with lu := luHanded h s } := by
  unfold luHandOn luHanded
  split_ifs
  · rfl
  · exact callCore_enterListenOnly s
  · rfl
  · exact callCore_enterListenOnly s
  · rfl

/-- What every hand-on keeps of the machine, over what the LU makes of its own part. -/
theorem handOn_keeps {α : Type} (f : State → α) (hidden : ∀ u, f (handCore u) = f u) (h : Handed) (s : State) :
    f (handOn h s) = f { s with lu := luHanded h s } :=
  kept_of_handCore ((handCore_handOn h s).trans (handCore_of_callCore (callCore_luHandOn h s))) f hidden

/-! ### The hand-on of a valid telegram (R37) -/

/-- TELEGRAM_HAND_ON of a valid telegram, the line not broken in its Turn. -/
theorem exec_telegramHandOn {s : State} {own w : Bool} {f : Framed} {k : Kind} {u : SlotUnits}
    (receive : s.lu.receive = .framing own w (some f)) (kind : validKind f.telegram = some k)
    (whole : unbroken (turnUnits u) s) :
    let read := if own then s.lu.ackRead.getD (heldSpace u) else heldSpace u || f.taken
    let h : Handed := ⟨k, f.telegram, f.run, read, own, w || (own && slotWithdrawn s), f.taken, f.result⟩
    exec (.telegramHandOn u) s = .next (settle (handOn h { s with lu := luAfterSlot own u h s.lu })) := by
  dsimp only
  rw [exec, execTelegramHandOn]
  simp only [framedNow, receive, handedOf, kind, Option.map_some, breaksLine_eq_false whole, Bool.false_eq_true, if_false]
  rfl

theorem luHanded_joinState (h : Handed) (s : State) (other : h.own = false) :
    (luHanded h s).joinState =
      match s.lu.joinState with
      | .listen => if h.telegram.source = s.cl.station then .listenOnly else .probe
      | .probe => if h.telegram.source = s.cl.station then .listenOnly else .probe
      | .joined => if h.telegram.source = s.cl.station ∧ isProbe h.kind h.telegram = false then .listenOnly else .joined
      | j => j := by
  unfold luHanded
  rw [other, if_neg Bool.false_ne_true]
  cases join : s.lu.joinState with
  | listen =>
    rw [if_pos rfl]
    dsimp only
    split_ifs <;> rfl
  | probe | joined =>
    simp only [duplicateHeard, join, Bool.and_true, Bool.and_eq_true, decide_eq_true_eq, Bool.not_eq_true', reduceCtorEq,
      if_false]
    split_ifs
    · rfl
    · exact join
  | offline | listenOnly => simp [duplicateHeard, join]

/-- The fields of the LU that its own part of a hand-on leaves, of a telegram past its Turn. -/
theorem luHanded_line (h : Handed) (s : State) (hunting : s.lu.receive = .hunting) :
    (luHanded h s).receive = .hunting ∧ (luHanded h s).quiet = s.lu.quiet ∧ (luHanded h s).lastOwn = s.lu.lastOwn
      ∧ (luHanded h s).spaceRun = s.lu.spaceRun := by
  have listens : (luListenOnly s.lu).receive = .hunting := by simp [luListenOnly, hunting]
  unfold luHanded
  dsimp only
  split_ifs
  · exact ⟨hunting, rfl, rfl, rfl⟩
  · exact ⟨listens, rfl, rfl, rfl⟩
  · exact ⟨hunting, rfl, rfl, rfl⟩
  · exact ⟨listens, rfl, rfl, rfl⟩
  · exact ⟨hunting, rfl, rfl, rfl⟩

/-- Settles O32. -/
theorem handOnEndsTheTelegram : Obligations.HandOnEndsTheTelegram := by
  unfold Obligations.HandOnEndsTheTelegram
  refine ⟨fun s own w u f receive whole valid => ?_, fun s w u f k receive whole kind => ?_⟩
  · obtain ⟨k, kind⟩ := Option.ne_none_iff_exists'.mp valid
    refine ⟨_, exec_telegramHandOn receive kind whole, ?_⟩
    generalize handed : Handed.mk k f.telegram f.run _ own _ f.taken f.result = h
    generalize base : ({ s with lu := luAfterSlot own u h s.lu } : State) = b
    have from_b : b.lu = luAfterSlot own u h s.lu ∧ b.ku = s.ku ∧ b.pu = s.pu ∧ b.cl = s.cl ∧ b.pending = s.pending := by
      subst base; exact ⟨rfl, rfl, rfl, rfl, rfl⟩
    obtain ⟨lu, ku, pu, cl, pending⟩ := from_b
    have keeps {α : Type} (f : State → α) (hidden : ∀ u, f (handCore u) = f u) :
        f (handOn h b) = f { b with lu := luHanded h b } := handOn_keeps f hidden h b
    obtain ⟨hunts, quiet, last, _⟩ := luHanded_line h b (by rw [lu]; rfl)
    simp only [settle_receive, settle_quiet, settle_lastOwn, settle_ku, settle_pu, settle_cl, settle_pending]
    refine ⟨(keeps (fun u => u.lu.receive) fun _ => rfl).trans hunts,
      (keeps (fun u => u.lu.quiet) fun _ => rfl).trans (quiet.trans (by rw [lu]; rfl)),
      (keeps (fun u => u.lu.lastOwn) fun _ => rfl).trans (last.trans (by rw [lu]; rfl)),
      (keeps (fun u => u.ku.fifo) fun _ => rfl).trans (by rw [ku]),
      (keeps (fun u => u.pu.op) fun _ => rfl).trans (by rw [pu]),
      (keeps State.cl fun _ => rfl).trans cl, (keeps State.pending fun _ => rfl).trans pending⟩
  · refine ⟨_, exec_telegramHandOn receive kind whole, ?_⟩
    rw [settle_joinState, handOn_keeps (fun u => u.lu.joinState) (fun _ => rfl)]
    exact luHanded_joinState _ _ rfl

/-! ### The line view (R68, R69) -/

theorem isGroup_iff (d : Addr) : isGroup d = true ↔ ¬ d.toNat < 32 := by simp [isGroup]

section
variable {v : LineView} {c : Station} {d : Addr} (caller : v.caller = some c) (destination : v.destination = some d)
include caller destination

theorem fromDestination_iff (t : Telegram) :
    fromDestination v t = true ↔ d.toNat < 32 ∧ addrOf t.source = d ∧ t.destination = addrOf c := by
  simp only [fromDestination, caller, destination, Bool.and_eq_true, Bool.not_eq_true', decide_eq_true_eq, and_assoc]
  rw [← Bool.not_eq_true, isGroup_iff, not_not]

theorem fromCaller_iff (t : Telegram) : fromCaller v t = true ↔ t.source = c ∧ t.destination = d := by
  simp only [fromCaller, caller, destination, Bool.and_eq_true, decide_eq_true_eq, Option.some.injEq]
  rw [@eq_comm _ c, @eq_comm _ d]

theorem isActivity_iff (t : Telegram) :
    isActivity v t = true ↔
      t.source = c ∨ (if d.toNat < 32 then addrOf t.source = d else t.destination = addrOf c) := by
  simp only [isActivity, caller, destination]
  by_cases individual : d.toNat < 32
  · have one : isGroup d = false := by rw [← Bool.not_eq_true, isGroup_iff, not_not]; exact individual
    simp [one, individual]
  · simp [(isGroup_iff d).mpr individual, individual]

end

theorem viewAfter_free {v : LineView} (free : v.state = .free) (h : Handed) :
    viewAfter v h =
      if h.kind = .call ∧ h.ack = true then
        if h.telegram.destination.toNat < 32 then
          ⟨.ringing, some h.telegram.source, some h.telegram.destination, some (sec 40), none⟩
        else ⟨.engaged, some h.telegram.source, some h.telegram.destination, none, some (sec 120)⟩
      else v := by
  unfold viewAfter
  rw [free]
  dsimp only
  simp only [isGroup_iff, ite_not]

section
variable {v : LineView} {c : Station} {d : Addr} (caller : v.caller = some c) (destination : v.destination = some d)
include caller destination

theorem viewAfter_ringing (ringing : v.state = .ringing) (h : Handed) :
    let back := d.toNat < 32 ∧ addrOf h.telegram.source = d ∧ h.telegram.destination = addrOf c
    let forth := h.telegram.source = c ∧ h.telegram.destination = d
    viewAfter v h =
      if h.kind = .accept ∧ back then { v with state := .engaged, ringWait := none, silence := some (sec 120) }
      else if h.kind = .refuse ∧ back ∨ h.kind = .clear ∧ (forth ∨ back) then LineView.reset
      else v := by
  unfold viewAfter
  rw [ringing]
  dsimp only
  simp only [fromDestination_iff caller destination, fromCaller_iff caller destination, LineView.engage]
  congr 1
  rw [← ite_or]

theorem viewAfter_engaged (engaged : v.state = .engaged) (h : Handed) :
    let back := d.toNat < 32 ∧ addrOf h.telegram.source = d ∧ h.telegram.destination = addrOf c
    let forth := h.telegram.source = c ∧ h.telegram.destination = d
    viewAfter v h =
      if h.kind = .clear ∧ (forth ∨ back) then LineView.reset
      else if h.telegram.source = c
          ∨ (if d.toNat < 32 then addrOf h.telegram.source = d else h.telegram.destination = addrOf c) then
        { v with silence := some (sec 120) }
      else v := by
  unfold viewAfter
  rw [engaged]
  dsimp only
  simp only [fromDestination_iff caller destination, fromCaller_iff caller destination, isActivity_iff caller destination]

end

/-! ### The hand-on where the record is IDLE -/

/-- The record's state and the line view are as they were. -/
def KeepsView (s t : State) : Prop := t.cm.call.state = s.cm.call.state ∧ t.cm.view = s.cm.view

theorem KeepsView.trans {a b c : State} (one : KeepsView a b) (two : KeepsView b c) : KeepsView a c :=
  ⟨two.1.trans one.1, two.2.trans one.2⟩

theorem keepsView_of_storeCore {a b : State} (h : storeCore b = storeCore a) : KeepsView a b :=
  ⟨kept_of_storeCore h (fun u => u.cm.call.state) fun _ => rfl, kept_of_storeCore h (fun u => u.cm.view) fun _ => rfl⟩

theorem keepsView_refl (s : State) : KeepsView s s := ⟨rfl, rfl⟩

theorem keepsView_exhausted (r : Request) {s : State} (idle : s.cm.call.state = .idle) : KeepsView s (exhausted r s) := by
  have no {c : CallState} (other : c ≠ .idle) : s.cm.call.state ≠ c := by rw [idle]; exact other.symm
  unfold exhausted
  split
  · cases r.kind with
    | call => dsimp only; rw [if_neg (no (by decide))]; exact keepsView_refl s
    | accept => dsimp only; rw [if_neg (no (by decide))]; exact keepsView_refl s
    | clear => dsimp only; rw [if_neg (no (by decide))]; exact keepsView_refl s
    | who => exact keepsView_of_storeCore (storeCore_notice _ s)
    | text | refuse | hold | go | brk | hereis | poll => exact keepsView_refl s
  · exact keepsView_refl s

theorem keepsView_reportExhausted (rs : List Request) {s : State} (idle : s.cm.call.state = .idle) :
    KeepsView s (reportExhausted rs s) := by
  unfold reportExhausted
  induction rs generalizing s with
  | nil => exact keepsView_refl s
  | cons r rs ih =>
    have one := keepsView_exhausted r idle
    exact one.trans (ih (one.1.trans idle))

theorem keepsView_enterListenOnly {s : State} (idle : s.cm.call.state = .idle) : KeepsView s (enterListenOnly s) := by
  have reported := keepsView_reportExhausted (s.lu.control.filterMap reportedContent) (s := { s with lu := luListenOnly s.lu })
    idle
  unfold enterListenOnly
  dsimp only
  generalize reportExhausted _ _ = x at reported ⊢
  have text : reportText s.lu.text x = x := by
    have notOpen : x.cm.call.state ≠ .opened := by rw [reported.1]; exact fun open_ => nomatch idle.symm.trans open_
    unfold reportText
    split
    · split_ifs
      · rfl
      · exact if_neg notOpen
    · rfl
  rw [text]
  exact KeepsView.trans (b := x) reported (keepsView_of_storeCore (storeCore_notice _ x))

theorem keepsView_luHandOn (h : Handed) {s : State} (idle : s.cm.call.state = .idle) : KeepsView s (luHandOn h s) := by
  unfold luHandOn
  split_ifs
  · exact keepsView_refl s
  · exact keepsView_enterListenOnly idle
  · exact keepsView_refl s
  · exact keepsView_enterListenOnly idle
  · exact keepsView_refl s

theorem keepsView_requestOrDrop (r : Request) (s : State) : KeepsView s (requestOrDrop r s) :=
  keepsView_of_storeCore (storeCore_requestOrDrop r s)

/-- The call's part, by kind, for a record in IDLE, no CALL taken (R74 to R92). -/
theorem keepsView_cmHandOn (tookView freed : Bool) {h : Handed} {s : State} (idle : s.cm.call.state = .idle)
    (notTaken : h.kind = .call → h.taken = false) : KeepsView s (cmHandOn tookView freed h s) := by
  have no {c : CallState} (other : c ≠ .idle) : s.cm.call.state ≠ c := by rw [idle]; exact other.symm
  unfold cmHandOn
  cases h.own with
  | true =>
    rw [if_pos rfl]
    cases h.kind with
    | call =>
      simp only [ownCall, if_neg (no (c := .calling) (by decide))]
      split_ifs
      · exact keepsView_refl s
      · exact keepsView_requestOrDrop _ s
      · exact keepsView_refl s
    | accept =>
      simp only [ownAccept, no (c := .ringing) (by decide), false_and, and_false, if_false]
      exact keepsView_refl s
    | text | refuse | clear | hold | go | brk | who | hereis | poll => exact keepsView_refl s
  | false =>
    rw [if_neg Bool.false_ne_true]
    cases kind : h.kind with
    | call =>
      simp only [heardCall, notTaken kind, no (c := .calling) (by decide), decide_false, Bool.and_false, Bool.false_and,
        Bool.false_eq_true, if_false]
      exact keepsView_refl s
    | accept =>
      simp only [takenAccept, idle]
      split_ifs
      · exact keepsView_requestOrDrop _ s
      · exact keepsView_refl s
    | refuse =>
      simp only [heardRefuse, no (c := .awaiting) (by decide), no (c := .opened) (by decide), false_and, if_false, ite_self]
      split <;> exact keepsView_refl s
    | clear =>
      simp only [heardClear, idle, reduceCtorEq, false_and, if_false, ite_self]
      split <;> exact keepsView_refl s
    | text =>
      simp only [heardText, ne_eq, no (c := .opened) (by decide), not_false_eq_true, if_true]
      split
      · exact keepsView_of_storeCore (storeCore_flowTest s)
      · exact keepsView_refl s
      · exact keepsView_refl s
      · exact keepsView_refl s
    | who =>
      dsimp only [takenWho]
      split_ifs
      · exact keepsView_requestOrDrop _ s
      · exact keepsView_refl s
    | hereis =>
      simp only [takenHereis, no (c := .opened) (by decide), false_and, if_false]
      split_ifs
      · exact keepsView_of_storeCore (storeCore_notice _ s)
      · exact keepsView_refl s
    | hold | go | brk | poll =>
      simp only [takenHold, takenGo, takenBreak, takenPoll, no (c := .opened) (by decide), and_false, if_false]
      exact keepsView_refl s

/-- A hand-on to a record in IDLE, no CALL taken: the view is as the telegram leaves it, and the record IDLE. -/
theorem handOn_idle {h : Handed} {s : State} (idle : s.cm.call.state = .idle) (notTaken : h.kind = .call → h.taken = false) :
    (handOn h s).cm.call.state = .idle ∧ (handOn h s).cm.view = viewAfter s.cm.view h := by
  obtain ⟨state, view⟩ := keepsView_luHandOn h idle
  unfold handOn
  dsimp only
  generalize luHandOn h s = x at state view
  obtain ⟨state', view'⟩ := keepsView_cmHandOn (takesView x.cm.view (viewAfter x.cm.view h))
    (freesView x.cm.view (viewAfter x.cm.view h)) (s := { x with cm.view := viewAfter x.cm.view h })
    (state.trans idle) notTaken
  rw [view] at state' view' ⊢
  have idle' := state'.trans (state.trans idle)
  rw [endFreed_of_state (by rw [idle']; rfl)]
  exact ⟨idle', view'⟩

/-- Settles O31, by the table of the hand-on and what each branch keeps. -/
theorem lineViewTable : Obligations.LineViewTable := by
  unfold Obligations.LineViewTable
  refine ⟨fun v h => ⟨fun free => viewAfter_free free h, fun c d caller destination =>
      ⟨fun ringing => viewAfter_ringing caller destination ringing h, fun engaged => viewAfter_engaged caller destination engaged h⟩⟩,
    fun s own w u f k receive whole kind idle notTaken => ⟨_, exec_telegramHandOn receive kind whole, ?_⟩⟩
  rw [settle_call, settle_view]
  obtain ⟨state, view⟩ := handOn_idle (h := ⟨k, f.telegram, f.run, _, own, w || (own && slotWithdrawn s), f.taken, f.result⟩)
    (s := { s with lu := luAfterSlot own u _ s.lu }) idle notTaken
  exact ⟨state, view.trans (viewAfter_fields _ _)⟩

end Sys2Proof.Machine
end

section
/-!
The line break (R47, R94), its end (R48), and the units that make it (R33, R35, R37).
-/

namespace Sys2Proof.Machine

/-! ### Collision counts (R40, R47) -/

/-- No entry of the list counts a collision. -/
def NoCollisions (es : List ControlEntry) : Prop := ∀ e ∈ es, e.collisions = 0

theorem noCollisions_enterRequest (r : Request) {l : LineUnit} (zero : NoCollisions l.control) :
    NoCollisions (enterRequest r l).control := by
  intro e mem
  unfold enterRequest at mem
  split_ifs at mem with pair same
  · exact zero e (List.mem_of_mem_filter mem)
  · obtain ⟨x, inside, rfl⟩ := List.mem_map.mp mem
    split_ifs <;> exact zero x inside
  · obtain ⟨x, inside, rfl⟩ := List.mem_map.mp mem
    split_ifs
    · rfl
    · exact zero x inside
  · rcases List.mem_append.mp (show e ∈ l.control ++ [ControlEntry.fresh r] from mem) with inside | new
    · exact zero e inside
    · obtain rfl := List.mem_singleton.mp new
      rfl

theorem noCollisions_requestOrDrop (r : Request) {s : State} (zero : NoCollisions s.lu.control) :
    NoCollisions (requestOrDrop r s).lu.control := by
  cases enters : entersRequests s.lu with
  | true => rw [requestOrDrop_entered enters]; exact noCollisions_enterRequest r zero
  | false => rw [requestOrDrop_refused enters]; exact zero

theorem noCollisions_flowTest {s : State} (zero : NoCollisions s.lu.control) : NoCollisions (flowTest s).lu.control := by
  unfold flowTest
  split_ifs
  · exact zero
  · exact noCollisions_requestOrDrop (request s .hold (talkingParty s.cm.call) [] .cm) zero
  · exact noCollisions_requestOrDrop (request s .go (talkingParty s.cm.call) [] .cm) zero
  · exact zero
  · exact zero

/-- A notice is a run of PRINT, and where it takes a block the flow levels are tested (R83, R84, R109). -/
theorem notice_cases (n : Notice) (s : State) :
    notice n s = s ∨ notice n s = { s with cs := s.cs.pushRun .print n.run }
      ∨ notice n s = flowTest { s with cs := s.cs.pushRun .print n.run } := by
  cases present : s.pu.present with
  | false => exact .inl (notice_absent present)
  | true =>
    rw [notice_present present]
    cases passes : s.cs.spaceCheck .print .mayUse n.run with
    | false => rw [appendRun_refused passes]; exact .inl rfl
    | true =>
      rw [appendRun_passed passes, Option.getD_some, placeRun_of_not_send (by decide)]
      split_ifs
      · exact .inr (.inl rfl)
      · exact .inr (.inr rfl)

theorem noCollisions_notice (n : Notice) {s : State} (zero : NoCollisions s.lu.control) :
    NoCollisions (notice n s).lu.control := by
  rcases notice_cases n s with same | pushed | tested
  · rw [same]; exact zero
  · rw [pushed]; exact zero
  · rw [tested]; exact noCollisions_flowTest (s := { s with cs := s.cs.pushRun .print n.run }) zero

/-! ### The attempt stopped (R47) -/

theorem stopAttempt_of_empty {l : LineUnit} (empty : l.slot = none) : stopAttempt l = { l with slot := none } := by
  rw [stopAttempt, empty]
  cases l
  cases empty
  rfl

theorem stopAttempt_fields (l : LineUnit) :
    ∃ control text, stopAttempt l = { l with slot := none, control := control, text := text } := by
  cases slot : l.slot with
  | none => exact ⟨_, _, stopAttempt_of_empty slot⟩
  | some x =>
    obtain ⟨source, tel⟩ := x
    simp only [stopAttempt, slot]
    cases source with
    | probe => exact ⟨_, _, rfl⟩
    | text => exact ⟨_, _, rfl⟩
    | control k =>
      simp only [readyAgain]
      cases entry : entryOf k { l with slot := none } with
      | none => exact ⟨_, _, by rw [entryReadyAgain, entry]⟩
      | some e =>
        obtain ⟨gone, renewed, again⟩ := entryReadyAgain_eq entry
        cases withdrawn : e.withdrawn with
        | true => exact ⟨_, _, by rw [gone withdrawn, appendFresh_control]; rfl⟩
        | false =>
          cases beside : e.beside with
          | some r => exact ⟨_, _, by rw [renewed r withdrawn beside]; rfl⟩
          | none => exact ⟨_, _, by rw [again withdrawn beside]; rfl⟩

/-- The line's break at a station whose restart CLEAR is not waited for (R47, R94). -/
theorem exec_lineBreak {s : State} {control : List ControlEntry} {text : Option TextPlace} (load : loaded s = true)
    (on : s.lu.joinState ≠ .offline) (clear : s.lu.condition = .clear) (served : s.lu.restartClear = false)
    (stopped : stopAttempt s.lu = { s.lu with slot := none, control := control, text := text }) :
    exec .lineBreak s =
      .next (settle (notice .lineBroken
        { s with
          lu := { s.lu with
            condition := .broken
            receive := .hunting
            slot := none
            ackRead := none
            quiet := 0
            spaceRun := 48
            markRun := 0
            control := control.map fun e => { e with collisions := 0 }
            text := text.map fun p => { p with collisions := 0 }
            probeCollisions := 0 }
          cm.breakTimer := some (sec 5) })) := by
  rw [exec, execLineBreak, breakLine, actIf_of _ s (by simp [online_of load on, clear]), lineBroken]
  dsimp only
  rw [breakRestartClear, if_neg (by rw [served]; simp), stopped]
  rfl

/-- What the break leaves of the LU (R40, R47). -/
theorem lineBroken_lu (s : State) :
    (lineBroken s).lu.slot = none ∧ NoCollisions (lineBroken s).lu.control ∧ (lineBroken s).lu.probeCollisions = 0
      ∧ (lineBroken s).lu.text = (stopAttempt s.lu).text.map fun p => { p with collisions := 0 } := by
  obtain ⟨control, text, stopped⟩ := stopAttempt_fields s.lu
  unfold lineBroken
  dsimp only
  generalize before : breakRestartClear s.lu _ = x
  have from_x : x.lu.slot = none ∧ NoCollisions x.lu.control ∧ x.lu.probeCollisions = 0
      ∧ x.lu.text = (stopAttempt s.lu).text.map fun p => { p with collisions := 0 } := by
    have zero : NoCollisions (control.map fun e => { e with collisions := 0 }) := by
      intro e mem
      obtain ⟨y, _, rfl⟩ := List.mem_map.mp mem
      rfl
    rw [stopped] at before ⊢
    subst before
    unfold breakRestartClear
    split
    · exact ⟨rfl, fun e mem => zero e (List.mem_of_mem_filter mem), rfl, rfl⟩
    · exact ⟨rfl, zero, rfl, rfl⟩
  obtain ⟨slot, zero, probe, place⟩ := from_x
  exact ⟨(notice_field (fun u => u.lu.slot) (fun _ => rfl) _ x).trans slot, noCollisions_notice _ zero,
    (notice_field (fun u => u.lu.probeCollisions) (fun _ => rfl) _ x).trans probe,
    (notice_field (fun u => u.lu.text) (fun _ => rfl) _ x).trans place⟩

/-- On a BROKEN line no TEXT is formed (R45, R47). -/
theorem settle_of_broken {s : State} (broken : s.lu.condition = .broken) : ∃ m, settle s = { s with mt := m } := by
  refine settle_eq_of_formText (formText_of_not_forms fun forms => ?_)
  obtain ⟨_, chosen, _⟩ := forms
  simp [textMayBeChosen, broken] at chosen

/-! ### The end of a break (R48) -/

theorem lineRestored_spec (s : State) :
    let t := lineRestored s
    t.lu.condition = .clear ∧ t.lu.receive = .hunting ∧ t.lu.quiet = sec 2 ∧ t.cm.breakTimer = none
      ∧ t.lu.joinState = (if (elapse (s.lu.untilMark (sec 2 - s.lu.markRun)) s).lu.joinState = .listen then .probe
          else (elapse (s.lu.untilMark (sec 2 - s.lu.markRun)) s).lu.joinState)
      ∧ t.cm.call.state = s.cm.call.state ∧ t.ku.fifo = s.ku.fifo := by
  have state := elapse_callState (s.lu.untilMark (sec 2 - s.lu.markRun)) s
  have ku := elapse_ku (s.lu.untilMark (sec 2 - s.lu.markRun)) s
  unfold lineRestored
  dsimp only
  generalize elapse (s.lu.untilMark (sec 2 - s.lu.markRun)) s = y at state ku ⊢
  generalize before : (if y.lu.joinState = .listen then _ else _ : State) = x
  have from_x : x.lu.condition = .clear ∧ x.lu.receive = .hunting ∧ x.lu.quiet = sec 2 ∧ x.cm.breakTimer = none
      ∧ x.lu.joinState = (if y.lu.joinState = .listen then .probe else y.lu.joinState) ∧ x.cm.call = y.cm.call
      ∧ x.ku = y.ku := by
    subst before
    split_ifs <;> exact ⟨rfl, rfl, rfl, rfl, rfl, rfl, rfl⟩
  obtain ⟨condition, receive, quiet, timer, join, call, ku'⟩ := from_x
  have keeps {α : Type} (f : State → α) (hidden : ∀ u, f (storeCore u) = f u) :
      f (notice .lineRestored x) = f x := notice_field f hidden _ x
  exact ⟨(keeps (fun u => u.lu.condition) fun _ => rfl).trans condition,
    (keeps (fun u => u.lu.receive) fun _ => rfl).trans receive, (keeps (fun u => u.lu.quiet) fun _ => rfl).trans quiet,
    (keeps (fun u => u.cm.breakTimer) fun _ => rfl).trans timer,
    (keeps (fun u => u.lu.joinState) fun _ => rfl).trans join,
    (keeps (fun u => u.cm.call.state) fun _ => rfl).trans (by rw [call, state]),
    (keeps (fun u => u.ku.fifo) fun _ => rfl).trans (by rw [ku', ku])⟩

/-! ### Units that break the line, and units that do not (R36, R37, R47) -/

theorem readUnits_of_broken {units : List Bool} {f : State → State} {s : State} (h : ¬ unbroken units s) :
    readUnits units f s = exec .lineBreak s := by
  have breaks : breaksLine units s = true := decide_eq_true (Nat.le_of_not_lt h)
  rw [readUnits, if_pos breaks]
  rfl

theorem telegramTurn_breaks {s : State} {t : Telegram} (receive : s.lu.receive = .framing false false none)
    (broken : ¬ unbroken (framedUnits t) s) : exec (.telegramTurn t) s = exec .lineBreak s := by
  have undecided : framingUndecided s = some (false, false) := by simp [framingUndecided, receive]
  rw [exec, execTelegramTurn, undecided]
  cases validKind t with
  | some k => exact readUnits_of_broken broken
  | none => exact readUnits_of_broken broken

theorem malformedDiscard_breaks {s : State} {t : Telegram} (receive : s.lu.receive = .framing false false none)
    (broken : ¬ unbroken (framedUnits t) s) (malformed : validKind t = none) :
    exec (.malformedDiscard t) s = exec .lineBreak s := by
  rw [exec, execMalformedDiscard, if_pos ⟨by simp [framingUndecided, receive], malformed⟩]
  exact readUnits_of_broken broken

theorem telegramHandOn_breaks {s : State} {own w : Bool} {f : Framed} {u : SlotUnits}
    (receive : s.lu.receive = .framing own w (some f)) (valid : validKind f.telegram ≠ none)
    (broken : ¬ unbroken (turnUnits u) s) : exec (.telegramHandOn u) s = exec .lineBreak s := by
  obtain ⟨k, kind⟩ := Option.ne_none_iff_exists'.mp valid
  have breaks : breaksLine (turnUnits u) s = true := decide_eq_true (Nat.le_of_not_lt broken)
  rw [exec, execTelegramHandOn]
  simp only [framedNow, receive, handedOf, kind, Option.map_some, breaks, if_true]
  rfl

/-- The decision at a Turn changes nothing of the LU but its list (R37, R57 to R67). -/
theorem callCore_turnDecision (k : Kind) (t : Telegram) (s : State) : callCore (turnDecision k t s).2.2 = callCore s := by
  unfold turnDecision
  split_ifs
  · rfl
  · exact callCore_notice _ s
  · rfl
  · cases windowFor s t.destination with
    | none => rfl
    | some w =>
      cases k with
      | text => exact callCore_acceptText _ _ s
      | call | accept | refuse | clear | hold | go | brk | who | hereis | poll => rfl

theorem telegramTurn_counts {s : State} {t : Telegram} {k : Kind} (receive : s.lu.receive = .framing false false none)
    (whole : unbroken (framedUnits t) s) (kind : validKind t = some k) :
    ∃ u, exec (.telegramTurn t) s = .next u ∧ u.lu.condition = s.lu.condition
      ∧ u.lu.spaceRun = spaceRunThrough (framedUnits t) s.lu.spaceRun := by
  have undecided : framingUndecided s = some (false, false) := by simp [framingUndecided, receive]
  have core := callCore_turnDecision k t (countUnits (framedUnits t) s)
  have keeps {α : Type} (f : State → α) (hidden : ∀ u, f (callCore u) = f u) :
      f (turnDecision k t (countUnits (framedUnits t) s)).2.2 = f (countUnits (framedUnits t) s) := by
    rw [← hidden, core, hidden]
  rw [exec, execTelegramTurn, undecided, kind]
  dsimp only
  rw [readUnits_of_unbroken whole]
  refine ⟨_, rfl, ?_, ?_⟩
  · rw [settle_condition]
    exact keeps (fun u => u.lu.condition) fun _ => rfl
  · rw [settle_spaceRun]
    exact keeps (fun u => u.lu.spaceRun) fun _ => rfl

theorem telegramHandOn_counts {s : State} {own w : Bool} {f : Framed} {u : SlotUnits}
    (receive : s.lu.receive = .framing own w (some f)) (valid : validKind f.telegram ≠ none)
    (whole : unbroken (turnUnits u) s) :
    ∃ t, exec (.telegramHandOn u) s = .next t ∧ t.lu.spaceRun = runAfterSlot u f.taken s.lu.spaceRun := by
  obtain ⟨k, kind⟩ := Option.ne_none_iff_exists'.mp valid
  refine ⟨_, exec_telegramHandOn receive kind whole, ?_⟩
  rw [settle_spaceRun, handOn_keeps (fun u => u.lu.spaceRun) (fun _ => rfl)]
  generalize handed : Handed.mk k f.telegram f.run _ own _ f.taken f.result = h
  obtain ⟨_, _, _, run⟩ := luHanded_line h { s with lu := luAfterSlot own u h s.lu } rfl
  refine run.trans ?_
  subst handed
  rfl

/-! ### The units framed (R33, R35) -/

theorem judgedUnits_prefix (fields : List (List Bool × Bool)) : judgedUnits fields <+: (fields.map Prod.fst).flatten := by
  induction fields with
  | nil => exact List.prefix_refl _
  | cons x rest ih =>
    obtain ⟨units, wrong⟩ := x
    simp only [judgedUnits, List.map_cons, List.flatten_cons]
    cases wrong with
    | true => exact (List.prefix_append_right_inj units).mpr (List.nil_prefix)
    | false => exact (List.prefix_append_right_inj units).mpr ih

theorem judgedUnits_of_right {fields : List (List Bool × Bool)} (right : ∀ x ∈ fields, x.2 = false) :
    judgedUnits fields = (fields.map Prod.fst).flatten := by
  induction fields with
  | nil => rfl
  | cons x rest ih =>
    obtain ⟨units, wrong⟩ := x
    obtain rfl : wrong = false := right (units, wrong) (by simp)
    simp only [judgedUnits, List.map_cons, List.flatten_cons, Bool.false_eq_true, if_false]
    rw [ih fun y mem => right y (by simp [mem])]

/-- The units of all the fields after the Start, in the order of the layout (R33). -/
theorem flatten_judgedFields (t : Telegram) :
    ((judgedFields t).tail.map Prod.fst).flatten =
      fieldUnits 2 t.precedence.toNat ++ fieldUnits 5 t.source.toNat ++ fieldUnits 4 t.kind.toNat
        ++ fieldUnits 3 t.sequence.toNat ++ fieldUnits 6 t.destination.toNat ++ fieldUnits 6 t.length.toNat
        ++ (t.text.map fun c => fieldUnits 5 c.toNat).flatten ++ fieldUnits 8 t.check.toNat := by
  have codes (g : Code × Nat → Bool) : (t.text.zipIdx.map fun x => (fieldUnits 5 x.1.toNat, g x)).map Prod.fst =
      t.text.map fun c => fieldUnits 5 c.toNat := by
    rw [List.map_map]
    conv_rhs => rw [← List.zipIdx_map_fst 0 t.text, List.map_map]
    rfl
  simp [judgedFields, codes]

theorem pollDigit_of_digits {cs : List Code} (digits : (pollDigits cs).isSome = true) {c : Code} (mem : c ∈ cs) :
    (pollDigit c).isSome = true := by
  induction cs with
  | nil => cases mem
  | cons x rest ih =>
    unfold pollDigits at digits
    cases first : pollDigit x with
    | none => simp [first] at digits
    | some d =>
      cases others : pollDigits rest with
      | none => simp [first, others] at digits
      | some ds =>
        rcases List.mem_cons.mp mem with rfl | inside
        · rw [first]; rfl
        · exact ih (by rw [others]; rfl) inside

theorem textAllowed_single {k : Kind} {cs : List Code} {c : Code} (notPoll : k ≠ .poll) (allowed : textAllowed k cs = true)
    (mem : c ∈ cs) : textAllowed k [c] = true := by
  cases k with
  | refuse | clear => simpa [textAllowed] using List.all_eq_true.mp allowed c mem
  | poll => exact absurd rfl notPoll
  | call | accept | text | hold | go | brk | who | hereis => rfl

/-- No field of a valid telegram is found wrong (R35). -/
theorem judgedFields_of_valid {t : Telegram} {k : Kind} (valid : validKind t = some k) :
    ∀ x ∈ (judgedFields t).tail, x.2 = false := by
  obtain ⟨_, text⟩ := valid_text valid
  obtain ⟨kind, precedence, sequence, destination, length⟩ : kindOfField t.kind = some k ∧ t.precedence = kindPrecedence k
      ∧ (k = .text ∨ t.sequence = 0) ∧ (k = .who ∨ t.destination ≠ addrOf t.source)
      ∧ lengthAllowed k t.length.toNat = true := by
    unfold validKind at valid
    split at valid
    · cases valid
    · rename_i found
      split_ifs at valid with fields
      cases valid
      obtain ⟨precedence, sequence, destination, length, _⟩ := fields
      exact ⟨found, precedence, sequence, destination, length⟩
  have urgent : ¬ kindPrecedence k = 3 := by cases k <;> decide
  intro x mem
  simp only [judgedFields, List.tail_cons, List.cons_append, List.nil_append, List.mem_cons, List.mem_append, List.mem_map,
    List.not_mem_nil, or_false, kind] at mem
  rcases mem with rfl | rfl | rfl | rfl | rfl | rfl | ⟨⟨c, i⟩, place, rfl⟩ | rfl
  · simpa [precedence] using urgent
  · rfl
  · simp [precedence]
  · simpa [or_iff_not_imp_left] using sequence
  · simpa [or_iff_not_imp_left] using destination
  · simp [length]
  · have inside : c ∈ t.text := List.fst_mem_of_mem_zipIdx place
    cases k with
    | poll =>
      simp only [textAllowed, Bool.or_eq_true, Bool.and_eq_true, List.isEmpty_iff, bne_iff_ne] at text
      obtain ⟨digits, count⟩ := text.resolve_left (List.ne_nil_of_mem inside)
      simp [pollDigit_of_digits digits inside, count]
    | call | accept | refuse | clear | text | hold | go | brk | who | hereis =>
      exact congrArg (!·) (textAllowed_single (by decide) text inside)
  · rfl

/-- Settles O39. -/
theorem lineBreakAndRestore : Obligations.LineBreakAndRestore := by
  unfold Obligations.LineBreakAndRestore
  refine ⟨fun s load on => ⟨fun clear => ?_, fun clear served => ?_, fun broken => ⟨?_, ?_⟩⟩,
    fun s t u => ⟨fun receive broken => ⟨telegramTurn_breaks receive broken, malformedDiscard_breaks receive broken⟩,
      fun own w f receive valid broken => telegramHandOn_breaks receive valid broken,
      fun receive whole joined load valid clear => ?_, fun own w f receive valid whole => ?_⟩,
    fun n mark rest => ⟨rfl, fun below => ?_, fun long => ?_⟩, fun t u => ?_⟩
  · have run : exec .lineBreak s = .next (settle (lineBroken s)) := by
      rw [exec, execLineBreak, breakLine, actIf_of _ s (by simp [online_of load on, clear])]
    obtain ⟨counted, broken, timer⟩ := lineBroken_spec s
    obtain ⟨receive, quiet, fifo⟩ := lineBroken_hunts s
    obtain ⟨slot, zero, probe, text⟩ := lineBroken_lu s
    obtain ⟨m, settled⟩ := settle_of_broken broken
    refine ⟨_, run, ?_⟩
    rw [settled]
    refine ⟨broken, receive, slot, quiet, zero, ?_, probe, timer, counted.state, by simp [faultLamp, broken], ?_, fifo⟩
    · intro p mem
      rw [show ({ lineBroken s with mt := m } : State).lu.text = _ from text] at mem
      obtain ⟨q, _, rfl⟩ := Option.mem_map.mp mem
      rfl
    · intro p tel inSlot place live
      refine text.trans ?_
      simp [stopAttempt, inSlot, readyAgain, textReadyAgain, place, live]
  · have ends {control : List ControlEntry} {text : Option TextPlace} := exec_lineBreak (control := control) (text := text)
      load on clear served
    dsimp only
    refine ⟨fun idle => ends ?_, fun tel p slot place => ends ?_, fun k tel e slot entry => ?_⟩
    · rcases idle with empty | ⟨tel, probe⟩
      · exact stopAttempt_of_empty empty
      · simp [stopAttempt, probe, readyAgain]
    · simp [stopAttempt, slot, readyAgain, textReadyAgain, place]
    · have stopped : stopAttempt s.lu = entryReadyAgain k { s.lu with slot := none } := by simp [stopAttempt, slot, readyAgain]
      obtain ⟨gone, renewed, again⟩ := entryReadyAgain_eq (l := { s.lu with slot := none }) entry
      refine ⟨fun withdrawn => ends ?_, fun live beside => ends ?_, fun r live beside => ends ?_⟩
      · rw [stopped, gone withdrawn, appendFresh_control]; rfl
      · rw [stopped, again live beside]; rfl
      · rw [stopped, renewed r live beside]; rfl
  · have run : exec .lineRestored s = .next (settle (lineRestored s)) := by
      rw [exec, execLineRestored, actIf_of _ s (by simp [isBroken, online_of load on, broken])]
    obtain ⟨condition, receive, quiet, timer, join, state, fifo⟩ := lineRestored_spec s
    rw [elapse_of_loaded load] at join
    refine ⟨_, run, ?_⟩
    simp only [settle_condition, settle_receive, settle_quiet, settle_breakTimer, settle_joinState, settle_call, settle_ku]
    exact ⟨condition, receive, quiet, timer, join, state, fifo⟩
  · have run : exec .brokenSpaceRead s = .next (settle (readBrokenSpace s)) := by
      rw [exec, execBrokenSpaceRead, actIf_of _ s (by simp [isBroken, online_of load on, broken])]
    refine ⟨_, run, ?_⟩
    simp only [settle_markRun, settle_quiet, settle_condition, settle_spaceLeft, settle_control, settle_breakTimer,
      settle_cells]
    refine ⟨rfl, rfl, ?_, rfl, rfl, rfl, ?_⟩
    · show (elapse s.lu.spaceLeft s).lu.condition = _
      rw [elapse_of_loaded load]; exact broken
    · show (elapse s.lu.spaceLeft s).cs.cells = _
      unfold elapse; split <;> rfl
  · obtain ⟨k, kind⟩ := Option.ne_none_iff_exists'.mp valid
    obtain ⟨x, turn, condition, run⟩ := telegramTurn_counts receive whole kind
    exact ⟨x, turn, condition.trans clear, run, by rw [run]; exact whole⟩
  · obtain ⟨x, hand, run⟩ := telegramHandOn_counts receive valid whole
    exact ⟨x, hand, by rw [run]; exact runAfterSlot_lt whole, run⟩
  · rw [spaceRunThrough_cons, if_neg (by omega)]
  · rw [spaceRunThrough_cons, if_pos long]
  · refine ⟨?_, fun valid => ?_, rfl, ?_⟩
    · exact (judgedUnits_prefix _).trans (flatten_judgedFields t ▸ List.prefix_refl _)
    · obtain ⟨k, kind⟩ := Option.ne_none_iff_exists'.mp valid
      exact (judgedUnits_of_right (judgedFields_of_valid kind)).trans (flatten_judgedFields t)
    · simp [heldSpace]

end Sys2Proof.Machine
end

section
/-!
The CLEAR key (R74, R75, R92, R101, R112, R165).
-/

namespace Sys2Proof.Machine

/-! ### What a request leaves in the list (R43) -/

/-- A request of a kind with no opposite stands in the list: as an entry of its own, or beside the one in the slot. -/
theorem mem_enterRequest {r : Request} (alone : holdOpposite r.kind = none) (l : LineUnit) :
    ∃ e ∈ (enterRequest r l).control, e.content.kind = r.kind ∧ (e.content = r ∨ e.beside = some r) := by
  have apart : l.control.any (cancels l r) = false := by simp [cancels, alone]
  unfold enterRequest
  rw [if_neg (by rw [apart]; decide)]
  split
  · rename_i there
    obtain ⟨e, mem, kind⟩ := List.any_eq_true.mp there
    have kind : e.content.kind = r.kind := of_decide_eq_true kind
    refine ⟨_, List.mem_map.mpr ⟨e, mem, if_pos kind⟩, ?_⟩
    split
    · exact ⟨kind, .inr rfl⟩
    · exact ⟨rfl, .inl rfl⟩
  · exact ⟨ControlEntry.fresh r, List.mem_append_right _ (List.mem_singleton_self _), rfl, .inl rfl⟩

theorem enters_of {l : LineUnit} (joined : l.joinState = .joined) (served : l.restartClear = false) :
    entersRequests l = true := by simp [entersRequests, joined, served]

/-! ### The ways to CLEARING and to IDLE (R75, R81, R92, R95, R165) -/

/-- From OPEN to CLEARING: the CLEAR stands asked for, and the file record is closed (R92, R95, R170). -/
theorem openToClearing_spec {filed : Bool} {n : Option Notice} {c : Cause} {s : State} (joined : s.lu.joinState = .joined)
    (served : s.lu.restartClear = false) :
    ∃ x, openToClearing filed n c s =
        { x with lu := enterRequest ⟨.clear, s.cm.call.partyAddr, [causeCode c], .cm, s.cl.config.retryLimit⟩ x.lu }
      ∧ x = finishCursor (noticeIf n (leaveOpen .clearing filed s)) ∧ x.cm.call.state = .clearing := by
  obtain ⟨state, _, _, _, _, _, _, _, lu, _, _, _, _, party, _⟩ := leaveOpen_spec (c := .clearing) filed s (by decide)
  obtain ⟨cm, line⟩ := SameLine.afterEnd (s := leaveOpen .clearing filed s) (by rw [state]; decide) n
  have cl : (finishCursor (noticeIf n (leaveOpen .clearing filed s))).cl = s.cl :=
    (cl_of_callCore ((callCore_finishCursor _).trans ((callCore_noticeIf n _).trans (callCore_leaveOpen _ _ s)))).1
  refine ⟨_, ?_, rfl, by rw [cm]; exact state⟩
  unfold openToClearing
  dsimp only
  generalize finishCursor _ = x at cm line cl ⊢
  have enters : entersRequests x.lu = true := by
    rw [line, lu]
    exact enters_of joined served
  rw [sendRequest_state enters, clearRequest, request, cm, party, cl]

theorem awaitingToClearing_eq {s : State} (joined : s.lu.joinState = .joined) (served : s.lu.restartClear = false) :
    awaitingToClearing s =
      { setCallState .clearing s with
        lu := enterRequest ⟨.clear, s.cm.call.partyAddr, [0], .cm, s.cl.config.retryLimit⟩ s.lu } :=
  sendRequest_state (s := setCallState .clearing s) (enters_of joined served)

theorem testsKeep_finishCursor (s : State) : TestsKeep s (finishCursor s) := by
  unfold finishCursor
  split
  · exact (TestsKeep.endCursor s).trans (TestsKeep.auTests _)
  · exact TestsKeep.refl s

/-- The record's return to IDLE from a state other than OPEN ends its ringing (R165). -/
theorem toIdle_ring (filed : Bool) (n : Option Notice) {s : State} (notOpen : s.cm.call.state ≠ .opened) :
    (toIdle filed n s).au.ring = .none := by
  unfold toIdle
  dsimp only
  rw [if_neg notOpen]
  have told := (TestsKeep.tellIdle (finishCursor (noticeIf n (setCallState .idle s)))).ring
  have finished := (testsKeep_finishCursor (noticeIf n (setCallState .idle s))).ring
  have printed := (TestsKeep.of_storeCore (storeCore_noticeIf n (setCallState .idle s))).ring
  exact told.trans (finished.trans printed)

/-! ### The key dealt with (R101) -/

theorem exec_clearKey {s : State} {rest : List Key} (load : loaded s = true) (head : s.ku.fifo = .clear :: rest) :
    exec .clearKey s = .next (settle (dropHead (clearKeyAct s.ku.headRead s))) := by
  rw [exec, execClearKey, keyAct_of_head load head]
  rfl

/-- An act that leaves the FIFO, and the key leaves it. -/
theorem fifo_dropHead {s u : State} {k : Key} {rest : List Key} (core : callCore u = callCore s)
    (head : s.ku.fifo = k :: rest) : (settle (dropHead u)).ku.fifo = rest := by
  have fifo := (ku_of_callCore core).2.1
  rw [settle_ku]
  show u.ku.fifo.tail = rest
  rw [fifo, head]
  rfl

theorem settle_dropHead_lu (u : State) : (settle (dropHead u)).lu.control = u.lu.control := settle_control _
theorem settle_dropHead_call (u : State) : (settle (dropHead u)).cm.call = u.cm.call := settle_call _
theorem settle_dropHead_view (u : State) : (settle (dropHead u)).cm.view = u.cm.view := settle_view _
theorem settle_dropHead_slot (u : State) : (settle (dropHead u)).lu.slot = u.lu.slot := settle_slot _
theorem settle_dropHead_au (u : State) : (settle (dropHead u)).au = u.au := settle_au _
theorem settle_dropHead_dial (u : State) : (settle (dropHead u)).ku.dial = u.ku.dial := by rw [settle_ku]; rfl

/-- The CM's requests by the state that it finds (R92). -/
theorem callCore_requestClear {s : State} (notDialing : s.cm.call.state ≠ .dialing) :
    callCore (requestClear s) = callCore s := by
  unfold requestClear
  cases state : s.cm.call.state with
  | dialing => exact absurd state notDialing
  | calling => exact (callCore_toIdle _ _ _).trans (callCore_withdraw .call s)
  | awaiting => exact callCore_sendRequest _ _
  | opened => exact callCore_openToClearing _ _ _ s
  | ringing =>
    dsimp only [refuseByKey]
    split_ifs
    · exact callCore_answerRefuse _ _
    · rfl
  | idle | clearing => rfl

/-- OPEN and AWAITING go to CLEARING (R92, R95). -/
theorem requestClear_clears {s : State} (state : s.cm.call.state = .opened ∨ s.cm.call.state = .awaiting)
    (joined : s.lu.joinState = .joined) (served : s.lu.restartClear = false) :
    let u := requestClear s
    u.cm.call.state = .clearing
      ∧ (∃ l, u.lu = enterRequest ⟨.clear, s.cm.call.partyAddr, [0], .cm, s.cl.config.retryLimit⟩ l)
      ∧ (s.cm.call.state = .opened → fileInOrder s → ∀ x ∈ s.au.file, s.cm.call.fileLink = some x.slot →
          ∀ y ∈ u.au.file, y.slot = x.slot → y.state = .filed ∧ y.completedAt = some s.au.clock) := by
  dsimp only
  rcases state with opened | awaiting
  · obtain ⟨x, cleared, ended, clearing⟩ := openToClearing_spec (filed := true) (n := none) (c := .normal) joined served
    have acts : requestClear s = openToClearing true none .normal s := by rw [requestClear, opened]
    rw [acts, cleared]
    refine ⟨clearing, ⟨x.lu, rfl⟩, fun _ order r mem link y inside same => ?_⟩
    obtain ⟨slots, _⟩ := order
    have moves : PrintMoves (MayGo s.cl.config.keepPrinted) (storeFile (leaveOpen .clearing true s)) (storeFile x) := by
      rw [ended]
      exact printMoves_finishCursor (s := leaveOpen .clearing true s)
        (by rw [(cl_of_callCore (callCore_leaveOpen .clearing true s)).1])
    obtain ⟨filed, completed, _⟩ := (record_after_leaveOpen (s := s) (by decide) moves slots mem link).1 y inside same
    exact ⟨filed, completed⟩
  · have acts : requestClear s = awaitingToClearing s := by rw [requestClear, awaiting]
    rw [acts, awaitingToClearing_eq joined served]
    exact ⟨rfl, ⟨s.lu, rfl⟩, fun opened => nomatch awaiting.symm.trans opened⟩

/-- A call that rings is refused by the key (R165). -/
theorem refuseByKey_refuses {s : State} (ringing : s.cm.call.state = .ringing) (rings : s.au.ring = .ringing) :
    let u := refuseByKey s
    u.cm.call.state = .idle ∧ u.au.ring = .none ∧ callCore u = callCore s
      ∧ (s.lu.joinState = .joined → s.lu.restartClear = false →
          u.lu = enterRequest ⟨.refuse, s.cm.call.partyAddr, [2], .cmNoOutcome, s.cl.config.retryLimit⟩ s.lu) := by
  dsimp only
  rw [refuseByKey, if_pos rings]
  have notOpen : (requestOrDrop (request (ringAnswered s) .refuse (ringAnswered s).cm.call.partyAddr
      [reasonCode .notAccepting] .cmNoOutcome) (ringAnswered s)).cm.call.state ≠ .opened := by
    rw [(call_of_storeCore (storeCore_requestOrDrop _ _)).1]
    exact fun opened => nomatch ringing.symm.trans opened
  refine ⟨toIdle_state _ _ _, toIdle_ring false none notOpen, callCore_answerRefuse _ _, fun joined served => ?_⟩
  refine (toIdle_of_not_open false none notOpen).2.1.trans ?_
  rw [requestOrDrop_entered (s := ringAnswered s) (enters_of joined served)]
  rfl

/-- Settles O45, by the state of the call. -/
theorem clearKeyActs : Obligations.ClearKeyActs := by
  unfold Obligations.ClearKeyActs
  intro s rest load head
  have run := exec_clearKey load head
  dsimp only
  have asks (read : s.ku.headRead = .calling ∨ s.ku.headRead = .awaiting ∨ s.ku.headRead = .opened) :
      clearKeyAct s.ku.headRead s = requestClear s := by
    rcases read with read | read | read <;> rw [read] <;> rfl
  have nothing (same : clearKeyAct s.ku.headRead s = s) :
      exec .clearKey s = .next (settle { s with ku := keyDealt s.ku rest s.cm.call.state }) := by
    rw [run, same, dropHead_of_storeCore rfl head]
  refine ⟨fun read => ⟨fun state joined served => ?_, fun calling => ?_, fun idle => nothing ?_⟩, fun read dialing => ?_,
    fun read moved => ?_, fun read ringing => ⟨fun rings => ?_, fun answered => nothing ?_⟩, fun read moved => ?_,
    fun read => nothing ?_⟩
  · obtain ⟨clearing, ⟨l, lu⟩, file⟩ := requestClear_clears state joined served
    have core := callCore_requestClear (s := s) (by rcases state with state | state <;> rw [state] <;> decide)
    obtain ⟨e, mem, kind, content⟩ := mem_enterRequest
      (r := ⟨.clear, s.cm.call.partyAddr, [0], .cm, s.cl.config.retryLimit⟩) rfl l
    refine ⟨_, run, ?_⟩
    rw [asks read, settle_dropHead_call, settle_dropHead_lu, settle_dropHead_au, lu]
    exact ⟨clearing, fifo_dropHead core head, e, mem, kind, content, file⟩
  · have acts : requestClear s = toIdle false none { s with lu := withdraw .call s.lu } := by rw [requestClear, calling]
    obtain ⟨cm, lu, _⟩ := toIdle_of_not_open (s := { s with lu := withdraw .call s.lu }) false none
      (fun opened => nomatch calling.symm.trans opened)
    have core := callCore_requestClear (s := s) (by rw [calling]; decide)
    refine ⟨_, run, ?_⟩
    rw [asks read, settle_dropHead_call, settle_dropHead_view, settle_dropHead_lu, settle_dropHead_slot,
      fifo_dropHead core head, acts, cm, lu]
    exact ⟨rfl, rfl, rfl, withdraw_list .call s, rfl⟩
  · rw [asks read, requestClear]
    rcases idle with idle | clearing
    · rw [idle]
    · rw [clearing]
  · have acts : clearKeyAct s.ku.headRead s = cancelDialing s := by
      rcases read with cm | ku
      · rw [asks cm, requestClear, dialing]
      · rw [ku]; exact takenDialing_dialing cancelDialing dialing
    obtain ⟨cm, lu, _⟩ := toIdle_of_not_open (s := { s with ku.dial := [] }) false none
      (fun opened => nomatch dialing.symm.trans opened)
    have core : callCore (cancelDialing s) = callCore { s with ku.dial := [] } := callCore_toIdle _ _ _
    have dial : (cancelDialing s).ku.dial = [] := (ku_of_callCore core).2.2.2.2.2.2
    refine ⟨_, run, ?_⟩
    rw [acts, settle_dropHead_call, settle_dropHead_view, settle_dropHead_lu, settle_dropHead_dial, dial,
      fifo_dropHead core head]
    have cm' : (cancelDialing s).cm = { s.cm with call.state := .idle } := cm
    have lu' : (cancelDialing s).lu = s.lu := lu
    rw [cm', lu']
    exact ⟨rfl, rfl, rfl, rfl, rfl⟩
  · rw [run, read]
    show Host.Outcome.next (settle (dropHead (takenDialing cancelDialing s))) = _
    rw [takenDialing_moved _ moved]
    simp only [dropHead, readHead, head, List.tail_cons]
  · have acts : clearKeyAct s.ku.headRead s = refuseByKey s := by
      rcases read with cm | au
      · rw [asks cm, requestClear, ringing]
      · rw [au]; exact takenRinging_ringing refuseByKey ringing
    obtain ⟨idle, ring, core, lu⟩ := refuseByKey_refuses ringing rings
    refine ⟨_, run, ?_⟩
    rw [acts, settle_dropHead_call, settle_dropHead_au, settle_dropHead_lu]
    refine ⟨idle, ring, fifo_dropHead core head, fun joined served => ?_⟩
    rw [lu joined served]
    exact mem_enterRequest (r := ⟨.refuse, s.cm.call.partyAddr, [2], .cmNoOutcome, s.cl.config.retryLimit⟩) rfl s.lu
  · have acts : clearKeyAct s.ku.headRead s = refuseByKey s := by
      rcases read with cm | au
      · rw [asks cm, requestClear, ringing]
      · rw [au]; exact takenRinging_ringing refuseByKey ringing
    exact acts.trans (if_neg answered)
  · rw [run, read]
    show Host.Outcome.next (settle (dropHead (takenRinging refuseByKey s))) = _
    rw [takenRinging_refused _ moved, dropHead_refuseKey rfl head]
    rfl
  · rcases read with idle | clearing
    · rw [idle]; rfl
    · rw [clearing]; rfl

end Sys2Proof.Machine
end

section
/-!
HOLD, GO, BREAK, WHO, HEREIS and POLL at their hand-on (R82, R86, R88 to R90, R145).
-/

namespace Sys2Proof.Machine

/-! ### What a block event leaves (R27, R28), and what a notice does (R109, R134) -/

/-- The state with all that a block event may change hidden. -/
def eventCore (s : State) : State :=
  { s with
    lu.control := []
    cm.call.heldByMe := false
    cm.call.heldSince := none
    ku.retryDue := false
    tu.resumeDue := false
    au.headerRetryDue := false }

/-- A field that `eventCore` does not hide. -/
theorem kept_of_eventCore {α : Type} {a b : State} (h : eventCore a = eventCore b) (f : State → α)
    (hidden : ∀ u, f (eventCore u) = f u) : f a = f b := by rw [← hidden, h, hidden]

theorem enterRequest_list (r : Request) (l : LineUnit) : ∃ control, enterRequest r l = { l with control := control } := by
  unfold enterRequest
  split_ifs <;> exact ⟨_, rfl⟩

theorem eventCore_requestOrDrop (r : Request) (s : State) : eventCore (requestOrDrop r s) = eventCore s := by
  cases enters : entersRequests s.lu with
  | true =>
    obtain ⟨control, line⟩ := enterRequest_list r s.lu
    rw [requestOrDrop_entered enters, line]
    rfl
  | false => rw [requestOrDrop_refused enters]

theorem eventCore_flowTest (s : State) : eventCore (flowTest s) = eventCore s := by
  have held (b : Bool) (since : Option Tick) (x : State) :
      eventCore { x with cm.call.heldByMe := b, cm.call.heldSince := since } = eventCore x := rfl
  unfold flowTest
  split_ifs
  · rfl
  · exact (held _ _ _).trans (eventCore_requestOrDrop _ s)
  · exact (held _ _ _).trans (eventCore_requestOrDrop _ s)
  · rfl
  · rfl

theorem eventCore_signal (released taken : Bool) (s : State) : eventCore (signal released taken s) = eventCore s := by
  have blocks (x : State) : eventCore (blockReleased x) = eventCore x := (eventCore_flowTest _).trans rfl
  cases released <;> cases taken
  · rfl
  · exact eventCore_flowTest s
  · exact blocks s
  · exact (eventCore_flowTest _).trans (blocks s)

/-- PRINT after a notice: with its run where the printer is present and the run passes the space check (R109, R134). -/
def told (n : Notice) (s : State) : Store :=
  if s.pu.present = true ∧ s.cs.spaceCheck .print .mayUse n.run = true then s.cs.pushRun .print n.run else s.cs

/-- A notice changes the store, and a block taken tests the flow levels (R27, R134). -/
theorem notice_eq_told (n : Notice) (s : State) :
    notice n s = { s with cs := told n s } ∨ notice n s = flowTest { s with cs := told n s } := by
  cases present : s.pu.present with
  | false => exact .inl (by rw [notice_absent present, told, if_neg fun both => Bool.false_ne_true (present.symm.trans both.1)])
  | true =>
    rw [notice_present present]
    cases passes : s.cs.spaceCheck .print .mayUse n.run with
    | false =>
      rw [appendRun_refused passes, told, if_neg fun both => Bool.false_ne_true (passes.symm.trans both.2)]
      exact .inl rfl
    | true =>
      have printed : told n s = s.cs.pushRun .print n.run := if_pos ⟨present, passes⟩
      rw [appendRun_passed passes, Option.getD_some, placeRun_of_not_send (by decide), printed]
      split_ifs
      · exact .inl rfl
      · exact .inr rfl

theorem eventCore_notice (n : Notice) (s : State) : eventCore (notice n s) = eventCore { s with cs := told n s } := by
  rcases notice_eq_told n s with same | tested
  · rw [same]
  · rw [tested, eventCore_flowTest]

/-- A field of the state after a notice that is no block event's. -/
theorem notice_told {α : Type} (f : State → α) (hidden : ∀ u, f (eventCore u) = f u) (n : Notice) (s : State) :
    f (notice n s) = f { s with cs := told n s } := kept_of_eventCore (eventCore_notice n s) f hidden

/-! ### The hand-on of a kind that frees no view (R68, R69) -/

theorem not_freesView {v : LineView} {h : Handed} (notRefuse : h.kind ≠ .refuse) (notClear : h.kind ≠ .clear) :
    freesView v (viewAfter v h) = false := by
  unfold freesView viewAfter
  cases state : v.state with
  | free => simp
  | ringing =>
    simp only [notRefuse, notClear, false_and, if_false]
    split_ifs <;> simp [LineView.engage, state]
  | engaged =>
    simp only [notClear, false_and, if_false]
    split_ifs <;> simp [state]

/-- The hand-on of a telegram taken: the call's part of it alone, over `handedBase`. -/
theorem exec_takenHandOn {s : State} {f : Framed} {k : Kind} {u : SlotUnits} (taken : holdsTaken s k f)
    (whole : unbroken (turnUnits u) s) (notRefuse : k ≠ .refuse) (notClear : k ≠ .clear) :
    let h : Handed := ⟨k, f.telegram, f.run, true, false, false, true, f.result⟩
    let b := handedBase false u k f s
    exec (.telegramHandOn u) s = .next (settle (cmHandOn (takesView s.cm.view b.cm.view) false h b)) := by
  obtain ⟨receive, kind, took, joined, other⟩ := taken
  have heard := execTelegramHandOn_heard receive kind joined other whole
  have free : freesView s.cm.view (handedBase false u k f s).cm.view = false := not_freesView notRefuse notClear
  dsimp only at heard ⊢
  rw [free, took, Bool.or_true] at heard
  exact heard.trans rfl

/-! ### HOLD and GO (R82) -/

theorem mem_holdWith_self (n : Station) (hs : List Hold) : ∃ x ∈ holdWith n hs, x.station = n ∧ x.left = sec 30 := by
  unfold holdWith
  split
  · rename_i there
    obtain ⟨x, mem, station⟩ := List.any_eq_true.mp there
    exact ⟨⟨n, sec 30⟩, List.mem_map.mpr ⟨x, mem, if_pos (of_decide_eq_true station)⟩, rfl, rfl⟩
  · exact ⟨⟨n, sec 30⟩, by simp, rfl, rfl⟩

theorem mem_holdWith_other {n : Station} {x : Hold} (other : x.station ≠ n) (hs : List Hold) :
    x ∈ holdWith n hs ↔ x ∈ hs := by
  have new : x ≠ ⟨n, sec 30⟩ := fun same => other (by rw [same])
  unfold holdWith
  split
  · constructor
    · intro mem
      obtain ⟨y, inside, same⟩ := List.mem_map.mp mem
      split_ifs at same
      · exact absurd same.symm new
      · exact same ▸ inside
    · exact fun mem => List.mem_map.mpr ⟨x, mem, if_neg other⟩
  · simp [new]

/-- Held by a station, the CM permits no TEXT (R79, R82). -/
theorem settle_of_held {s : State} (held : s.cm.call.holdSet ≠ []) : ∃ m, settle s = { s with mt := m } := by
  refine settle_eq_of_formText (formText_of_not_forms fun forms => ?_)
  obtain ⟨_, _, permits, _⟩ := forms
  simp [permitsText, List.isEmpty_iff, held] at permits

/-- With SEND empty no TEXT is formed (R79). -/
theorem settle_of_sendEmpty {s : State} (empty : s.cs.send.cellCount = 0) : ∃ m, settle s = { s with mt := m } := by
  refine settle_eq_of_formText (formText_of_not_forms fun forms => ?_)
  obtain ⟨_, _, _, _, ready⟩ := forms
  have none : s.cs.queueCells .send = [] := by
    show s.cs.cellsFrom s.cs.send.cellCount _ _ = []
    rw [empty]
    rfl
  simp [readyToGo, unsentChars, none, charsOf] at ready

/-! ### BREAK (R86) -/

/-- A larger stack passes the space check of a queue that is the same (R19). -/
theorem spaceCheck_of_more {a b : Store} {n : QueueName} {run : List Cell} (same : b.queue n = a.queue n)
    (more : a.free.length ≤ b.free.length) (passes : a.spaceCheck n .mayUse run = true) :
    b.spaceCheck n .mayUse run = true := by
  obtain ⟨limit, reserve⟩ := (spaceCheck_iff a n .mayUse run).mp passes
  refine (spaceCheck_iff b n .mayUse run).mpr ⟨by rw [same]; exact limit, ?_⟩
  rw [same]
  simp only [reservePasses, Bool.or_eq_true, beq_iff_eq, decide_eq_true_eq] at reserve ⊢
  exact reserve.imp_right fun fits => fits.trans more

theorem stopSendRun_spec (s : State) :
    (∀ r, s.cm.call.readerLink = true → s.tu.run = some r → r.destination = .send →
        (stopSendRun s).tu.run = none ∧ (stopSendRun s).cm.call.readerLink = false
          ∧ (stopSendRun s).tu.cycle = s.tu.cycle.map fun c => { c with dropped := true })
      ∧ (s.cm.call.readerLink = false → (stopSendRun s).tu.run = s.tu.run)
      ∧ (stopSendRun s).pu = s.pu := by
  refine ⟨fun r linked run send => ?_, fun free => ?_, ?_⟩
  · simp [stopSendRun, linked, run, send, endRun]
  · simp [stopSendRun, free]
  · unfold stopSendRun endRun
    split
    · split
      · split
        · split <;> rfl
        · rfl
      · rfl
    · rfl

theorem eventCore_flushSend (s : State) :
    eventCore (flushSend s) = eventCore { s with cs := s.cs.flushQueue .send, cm.sendTimer := .stopped } :=
  eventCore_signal _ _ _

/-- The send sequence after a BREAK (R86). -/
theorem stepSequence_sendSeq (s : State) :
    (stepSequence s).cm.call.sendSeq = if s.cs.send.inFlight = 0 then s.cm.call.sendSeq else s.cm.call.sendSeq + 1 := by
  unfold stepSequence
  by_cases none : s.cs.send.inFlight = 0
  · rw [if_neg (not_not.mpr none), if_pos none]
  · rw [if_pos none, if_neg none]

/-- The LU's place after a BREAK (R44, R86). -/
theorem withdrawText_text (l : LineUnit) :
    (withdrawText l).text =
      if l.slot.map Slot.source = some .text then l.text.map fun p => { p with withdrawn := true } else none := by
  unfold withdrawText textInSlot
  cases l.slot with
  | none => rfl
  | some x => simp

/-- What a BREAK stops of this station's sending (R86). -/
theorem stopSending_spec (s : State) :
    let u := stopSending s
    u.cs = s.cs.flushQueue .send ∧ u.cm.sendTimer = .stopped ∧ u.lu.text = (withdrawText s.lu).text
      ∧ u.cm.call.sendSeq = (if s.cs.send.inFlight = 0 then s.cm.call.sendSeq else s.cm.call.sendSeq + 1)
      ∧ u.cm.call.state = s.cm.call.state ∧ u.cm.call.holdSet = s.cm.call.holdSet ∧ u.ku.fifo = s.ku.fifo
      ∧ u.ku.editStack = s.ku.editStack ∧ u.tu.run = (stopSendRun s).tu.run ∧ u.tu.cycle = (stopSendRun s).tu.cycle
      ∧ u.cm.call.readerLink = (stopSendRun s).cm.call.readerLink ∧ u.pu = s.pu ∧ u.au.file = s.au.file := by
  obtain ⟨cs, lu, ku, au, _, call, _⟩ := stopSendRun_keeps s
  obtain ⟨_, _, pu⟩ := stopSendRun_spec s
  have stepped := stepSequence_sendSeq (stopSendRun s)
  have step : ∃ n, stepSequence (stopSendRun s) = { stopSendRun s with cm.call.sendSeq := n } := by
    unfold stepSequence; split_ifs <;> exact ⟨_, rfl⟩
  dsimp only
  unfold stopSending
  generalize stopSendRun s = x at cs lu ku au call pu stepped step ⊢
  obtain ⟨n, step⟩ := step
  have number : n = if s.cs.send.inFlight = 0 then s.cm.call.sendSeq else s.cm.call.sendSeq + 1 := by
    rw [step, cs, call] at stepped
    exact stepped
  have keeps {α : Type} (g : State → α) (hidden : ∀ u, g (eventCore u) = g u) :=
    kept_of_eventCore (eventCore_flushSend (withdrawPlace (stepSequence x))) g hidden
  rw [step] at keeps ⊢
  refine ⟨(keeps (fun u => u.cs) fun _ => rfl).trans ?_, keeps (fun u => u.cm.sendTimer) fun _ => rfl,
    (keeps (fun u => u.lu.text) fun _ => rfl).trans ?_, (keeps (fun u => u.cm.call.sendSeq) fun _ => rfl).trans number,
    (keeps (fun u => u.cm.call.state) fun _ => rfl).trans ?_, (keeps (fun u => u.cm.call.holdSet) fun _ => rfl).trans ?_,
    (keeps (fun u => u.ku.fifo) fun _ => rfl).trans ?_, (keeps (fun u => u.ku.editStack) fun _ => rfl).trans ?_,
    keeps (fun u => u.tu.run) fun _ => rfl, keeps (fun u => u.tu.cycle) fun _ => rfl,
    keeps (fun u => u.cm.call.readerLink) fun _ => rfl, (keeps (fun u => u.pu) fun _ => rfl).trans pu,
    (keeps (fun u => u.au.file) fun _ => rfl).trans ?_⟩
  · exact congrArg (Store.flushQueue · .send) cs
  · exact congrArg (fun l => (withdrawText l).text) lu
  · exact (congrArg CallRecord.state call :)
  · exact (congrArg CallRecord.holdSet call :)
  · exact congrArg KeyboardUnit.fifo ku
  · exact congrArg KeyboardUnit.editStack ku
  · exact congrArg AnsweringUnit.file au

/-- PRINT and SEND after a BREAK's notice (R86, R109). -/
theorem breakNotice_store {n : Notice} {s u : State} (flushed : u.cs = s.cs.flushQueue .send) (pu : u.pu = s.pu)
    (one : blocksHaveOneHolder s) :
    (s.pu.present = false → (told n u).queueCells .print = s.cs.queueCells .print)
      ∧ (s.pu.present = true → s.cs.spaceCheck .print .mayUse n.run = true →
          (told n u).queueCells .print = s.cs.queueCells .print ++ n.run) := by
  obtain ⟨one', ⟨cells, _⟩, _, free⟩ := (blocksHaveOneHolder_iff.mp one).flushQueue .send
  have before : u.cs.queueCells .print = s.cs.queueCells .print := by rw [flushed]; exact cells .print (by decide)
  have more : s.cs.free.length ≤ u.cs.free.length := by rw [flushed, free]; simp
  have same : u.cs.queue .print = s.cs.queue .print := by
    rw [flushed]; exact Store.queue_flushQueue_ne (n := .send) (m := .print) (by decide)
  refine ⟨fun absent => ?_, fun present passes => ?_⟩
  · rw [told, if_neg (by rw [pu, absent]; simp), before]
  · have passes' := spaceCheck_of_more same more passes
    rw [told, if_pos ⟨by rw [pu]; exact present, passes'⟩, ← before]
    rw [← flushed] at one'
    exact one'.queueCells_pushRun (enough_of_spaceCheck passes')

theorem told_send (n : Notice) (s : State) : (told n s).send = s.cs.send := by
  unfold told
  split_ifs
  · exact Store.queue_pushRun_ne (n := .print) (m := .send) n.run (by decide)
  · rfl

/-! ### The parts of the statement -/

section
variable {s : State} {f : Framed} {k : Kind} {u : SlotUnits} (taken : holdsTaken s k f) (whole : unbroken (turnUnits u) s)
include taken whole

theorem exec_hold (hold : k = .hold) (opened : s.cm.call.state = .opened) :
    ∃ m, exec (.telegramHandOn u) s = .next
      { handedBase false u k f s with
        cm.call.holdSet := holdWith f.telegram.source s.cm.call.holdSet
        lu.text := s.lu.text.map giveRetries
        mt := m } := by
  subst hold
  have held := mem_holdWith_self f.telegram.source s.cm.call.holdSet
  obtain ⟨m, settled⟩ := settle_of_held (s := { handedBase false u .hold f s with
      cm.call.holdSet := holdWith f.telegram.source s.cm.call.holdSet
      lu.text := s.lu.text.map giveRetries }) (by
    obtain ⟨x, mem, _⟩ := held
    exact List.ne_nil_of_mem mem)
  refine ⟨m, (exec_takenHandOn taken whole (by decide) (by decide)).trans ?_⟩
  rw [← settled]
  refine congrArg (fun x => Host.Outcome.next (settle x)) ?_
  exact if_pos (And.intro rfl opened)

theorem exec_go (go : k = .go) (opened : s.cm.call.state = .opened) :
    exec (.telegramHandOn u) s = .next (settle
      { handedBase false u k f s with
        cm.call.holdSet := s.cm.call.holdSet.filter fun x => x.station ≠ f.telegram.source }) := by
  subst go
  refine (exec_takenHandOn taken whole (by decide) (by decide)).trans (congrArg (fun x => Host.Outcome.next (settle x)) ?_)
  exact if_pos (And.intro rfl opened)

theorem exec_break (brk : k = .brk) (opened : s.cm.call.state = .opened) :
    exec (.telegramHandOn u) s =
      .next (settle (notice (.breakFrom f.telegram.source.toNat) (stopSending (handedBase false u k f s)))) := by
  subst brk
  refine (exec_takenHandOn taken whole (by decide) (by decide)).trans (congrArg (fun x => Host.Outcome.next (settle x)) ?_)
  exact if_pos (And.intro rfl opened)

theorem exec_who (who : k = .who) (served : s.lu.restartClear = false) :
    let b := handedBase false u k f s
    exec (.telegramHandOn u) s =
      .next (settle (if f.telegram.destination = addrOf f.telegram.source then b
        else { b with lu := enterRequest ⟨.hereis, addrOf f.telegram.source, lineSend (unshift s) s.cl.config.answerback,
                        .cm, s.cl.config.retryLimit⟩ b.lu })) := by
  subst who
  have joined : s.lu.joinState = .joined := taken.2.2.2.1
  refine (exec_takenHandOn taken whole (by decide) (by decide)).trans (congrArg (fun x => Host.Outcome.next (settle x)) ?_)
  show takenWho _ _ = _
  by_cases probe : f.telegram.destination = addrOf f.telegram.source
  · rw [if_pos probe, takenWho, if_neg (by simp [isProbe, probe])]
  · rw [if_neg probe, takenWho, if_pos ⟨rfl, by simp [isProbe, probe]⟩]
    exact requestOrDrop_entered (s := handedBase false u .who f s) (enters_of joined served)

theorem exec_hereis (hereis : k = .hereis) :
    let printed := notice (.answerback f.telegram.source.toNat f.run) (handedBase false u k f s)
    exec (.telegramHandOn u) s =
      .next (settle (
        if s.cm.call.state = .opened ∧ s.cm.call.partyStation = some f.telegram.source then capture f.run printed
        else printed)) := by
  subst hereis
  exact (exec_takenHandOn taken whole (by decide) (by decide)).trans rfl

theorem exec_poll (poll : k = .poll) :
    let b := handedBase false u k f s
    exec (.telegramHandOn u) s =
      .next (settle (
        if s.cm.call.state = .opened then
          match pollReason s with
          | none => startRun .send (pollCount f.telegram.text) b
          | some r => requestOrDrop (request b .refuse (addrOf f.telegram.source) [reasonCode r] .cm) b
        else b)) := by
  subst poll
  refine (exec_takenHandOn taken whole (by decide) (by decide)).trans (congrArg (fun x => Host.Outcome.next (settle x)) ?_)
  show takenPoll _ _ = _
  by_cases opened : s.cm.call.state = .opened
  · rw [if_pos opened]
    exact (if_pos (And.intro rfl opened)).trans rfl
  · rw [if_neg opened, takenPoll, if_neg fun both => opened both.2]

end

/-! What a HEREIS of the party leaves, by the call's file record (R90, R170). -/

theorem capture_unlinked (run : List Resolved) {s : State} (link : s.cm.call.fileLink = none) :
    capture run s = { s with cm.call.answerback := some (run.take 20) } := by simp [capture, link]

theorem capture_linked (run : List Resolved) {s : State} {slot : Fin 24} (link : s.cm.call.fileLink = some slot) :
    capture run s =
      { s with
        cm.call.answerback := some (run.take 20)
        au.file := s.au.file.map fun r => if r.slot = slot then { r with answerback := some (run.take 20) } else r } := by
  simp [capture, link, updateRecord]

/-- Settles O35. -/
theorem holdGoAndBreak : Obligations.HoldGoAndBreak := by
  unfold Obligations.HoldGoAndBreak
  refine ⟨fun s f k u taken whole opened engaged => ⟨fun hold => ?_, fun go => ?_, fun brk => ?_⟩,
    fun s f k u taken whole served => ⟨fun who => exec_who taken whole who served, fun hereis => ?_,
      fun poll => ⟨fun notOpen => ?_, fun opened => ⟨fun noRun present tape => ?_, fun run => ?_, fun noRun lacks => ?_⟩⟩⟩⟩
  · obtain ⟨m, run⟩ := exec_hold taken whole hold opened
    refine ⟨_, run, opened, mem_holdWith_self _ _, fun x other => mem_holdWith_other other _, rfl, rfl, rfl, rfl, rfl⟩
  · refine ⟨_, exec_go taken whole go opened, ?_⟩
    rw [settle_call, settle_control, settle_ku, settle_tu]
    exact ⟨opened, rfl, rfl, rfl, rfl⟩
  · obtain ⟨linked, free, _⟩ := stopSendRun_spec (handedBase false u k f s)
    obtain ⟨cs, timer, text, sendSeq, state, holdSet, fifo, editStack, run, cycle, link, pu, file⟩ :=
      stopSending_spec (handedBase false u k f s)
    have acts := exec_break taken whole brk opened
    generalize stopSending (handedBase false u k f s) = y at *
    have keeps {α : Type} (g : State → α) (hidden : ∀ u, g (eventCore u) = g u) :=
      notice_told g hidden (.breakFrom f.telegram.source.toNat) y
    have send : (notice (.breakFrom f.telegram.source.toNat) y).cs.send = { s.cs.send.emptied with inFlight := 0 } := by
      refine (keeps (fun u => u.cs.send) fun _ => rfl).trans ((told_send _ y).trans ?_)
      rw [cs]
      exact Store.queue_flushQueue s.cs .send
    obtain ⟨m, settled⟩ := settle_of_sendEmpty (s := notice (.breakFrom f.telegram.source.toNat) y) (by rw [send]; rfl)
    refine ⟨_, acts, ?_⟩
    rw [settled]
    refine ⟨(keeps (fun u => u.cm.call.state) fun _ => rfl).trans (state.trans opened), by rw [send]; rfl, by rw [send],
      (keeps (fun u => u.cm.sendTimer) fun _ => rfl).trans timer,
      (keeps (fun u => u.cm.call.sendSeq) fun _ => rfl).trans sendSeq,
      (keeps (fun u => u.cm.call.holdSet) fun _ => rfl).trans holdSet,
      (keeps (fun u => u.ku.fifo) fun _ => rfl).trans fifo,
      (keeps (fun u => u.ku.editStack) fun _ => rfl).trans editStack, fun r reads runs sends => ?_, fun unlinked => ?_,
      (keeps (fun u => u.lu.text) fun _ => rfl).trans (text.trans (withdrawText_text _)), fun one => ?_⟩
    · obtain ⟨noRun, noLink, dropped⟩ := linked r reads runs sends
      exact ⟨(keeps (fun u => u.tu.run) fun _ => rfl).trans (run.trans noRun),
        (keeps (fun u => u.cm.call.readerLink) fun _ => rfl).trans (link.trans noLink),
        (keeps (fun u => u.tu.cycle) fun _ => rfl).trans (cycle.trans dropped)⟩
    · exact (keeps (fun u => u.tu.run) fun _ => rfl).trans (run.trans (free unlinked))
    · have print : (notice (.breakFrom f.telegram.source.toNat) y).cs.queueCells .print =
          (told (.breakFrom f.telegram.source.toNat) y).queueCells .print := keeps (fun u => u.cs.queueCells .print) fun _ => rfl
      obtain ⟨absent, printed⟩ := breakNotice_store (n := .breakFrom f.telegram.source.toNat) (s := handedBase false u k f s)
        cs pu one
      exact ⟨fun gone => print.trans (absent gone), fun present passes => print.trans (printed present passes)⟩
  · have acts := exec_hereis taken whole hereis
    have link : (notice (.answerback f.telegram.source.toNat f.run) (handedBase false u k f s)).cm.call.fileLink =
        s.cm.call.fileLink := notice_field (fun u => u.cm.call.fileLink) (fun _ => rfl) _ _
    refine acts.trans (congrArg (fun x => Host.Outcome.next (settle x)) ?_)
    generalize notice (.answerback f.telegram.source.toNat f.run) (handedBase false u k f s) = y at link ⊢
    by_cases party : s.cm.call.state = .opened ∧ s.cm.call.partyStation = some f.telegram.source
    · rw [if_pos party, if_pos party]
      cases file : s.cm.call.fileLink with
      | none => exact capture_unlinked f.run (link.trans file)
      | some slot => exact capture_linked f.run (link.trans file)
    · rw [if_neg party, if_neg party]
  · have acts := exec_poll taken whole poll
    dsimp only at acts
    rw [if_neg notOpen] at acts
    exact acts
  · have acts := exec_poll taken whole poll
    have none : pollReason s = none := by simp [pollReason, noRun, present, tape]
    dsimp only at acts
    rw [if_pos opened, none] at acts
    exact acts.trans rfl
  · have acts := exec_poll taken whole poll
    have busy : pollReason s = some .readerBusy := by simp [pollReason, Option.isSome_iff_ne_none.mpr run]
    have joined : s.lu.joinState = .joined := taken.2.2.2.1
    dsimp only at acts
    rw [if_pos opened, busy] at acts
    dsimp only at acts
    rw [requestOrDrop_entered (s := handedBase false u k f s) (enters_of joined served)] at acts
    exact acts
  · have acts := exec_poll taken whole poll
    have noTape : pollReason s = some .noTape := by
      rcases lacks with lacks | lacks <;> simp [pollReason, noRun, lacks]
    have joined : s.lu.joinState = .joined := taken.2.2.2.1
    dsimp only at acts
    rw [if_pos opened, noTape] at acts
    dsimp only at acts
    rw [requestOrDrop_entered (s := handedBase false u k f s) (enters_of joined served)] at acts
    exact acts

end Sys2Proof.Machine
end

section
/-!
What leaving OPEN puts in PRINT (R26, R95, R109, R134), and what leaves SEND (R24).
-/

namespace Sys2Proof.Machine

/-! ### A run in two parts (R19) -/

theorem blockCount_pushRun (st : Store) (n : QueueName) (run : List Cell) (k : Nat) :
    ((st.pushRun n run).queue n).blockCount + blocksFor ((st.pushRun n run).queue n).room k
      ≤ (st.queue n).blockCount + blocksFor (st.queue n).room (run.length + k) := by
  induction run generalizing st with
  | nil => rw [pushRun_nil, List.length_nil, Nat.zero_add]
  | cons c run ih =>
    rw [pushRun_cons, List.length_cons, Nat.add_right_comm]
    exact (ih (st.pushCell n c)).trans (Store.blockCount_pushCell st n c (run.length + k))

/-- What passes whole passes in its parts, the one after the other (R19). -/
theorem spaceCheck_append {st : Store} {n : QueueName} {a b : List Cell} (passes : st.spaceCheck n .mayUse (a ++ b) = true) :
    st.spaceCheck n .mayUse a = true ∧ (st.pushRun n a).spaceCheck n .mayUse b = true := by
  have reserve (free needed : Nat) : reservePasses .mayUse free needed = true ↔ needed ≤ free := by
    rw [reservePasses_iff]; exact ⟨fun h => by omega, fun h => .inr h⟩
  obtain ⟨limit, enough⟩ := (spaceCheck_iff st n .mayUse (a ++ b)).mp passes
  rw [reserve] at enough
  have less : (st.queue n).blocksNeeded a ≤ (st.queue n).blocksNeeded (a ++ b) :=
    blocksFor_mono _ (by rw [List.length_append]; omega)
  have grows := blockCount_pushRun st n a b.length
  obtain ⟨_, blocks, free⟩ := pushRun_counts (less.trans enough)
  obtain ⟨limit', _⟩ := Store.pushRun_fixed st n a
  have whole : blocksFor (st.queue n).room (a.length + b.length) = (st.queue n).blocksNeeded (a ++ b) := by
    rw [Queue.blocksNeeded, List.length_append]
  have rest : blocksFor ((st.pushRun n a).queue n).room b.length = ((st.pushRun n a).queue n).blocksNeeded b := rfl
  rw [whole, rest, blocks] at grows
  refine ⟨(spaceCheck_iff _ _ _ _).mpr ⟨by omega, (reserve _ _).mpr (less.trans enough)⟩,
    (spaceCheck_iff _ _ _ _).mpr ⟨by rw [limit', blocks]; omega, (reserve _ _).mpr ?_⟩⟩
  rw [free, List.length_drop]
  omega

/-! ### PRINT, and what it is still to take -/

/-- PRINT holds these cells, and the run still to come passes its space check. -/
structure PrintsNext (st : Store) (file : List FileRecord) (cells todo : List Cell) : Prop where
  one : OneHolder st file
  cells : st.queueCells .print = cells
  passes : st.spaceCheck .print .mayUse todo = true

namespace PrintsNext

variable {st : Store} {file : List FileRecord} {cells a b todo : List Cell}

theorem push (h : PrintsNext st file cells (a ++ b)) : PrintsNext (st.pushRun .print a) file (cells ++ a) b := by
  obtain ⟨first, second⟩ := spaceCheck_append h.passes
  exact ⟨(h.one.pushRun .print a).1, by rw [h.one.queueCells_pushRun (enough_of_spaceCheck first), h.cells], second⟩

theorem unmark (h : PrintsNext st file cells todo) :
    PrintsNext (st.setQueue .print { st.queue .print with openMark := none }) file cells todo := by
  obtain ⟨one, same⟩ := unmarked h.one .print
  exact ⟨one, (same .print).trans h.cells, h.passes⟩

/-- Another queue's act, by which the stack does not get smaller. -/
theorem other {st' : Store} (h : PrintsNext st file cells todo) (one : OneHolder st' file)
    (queue : st'.queue .print = st.queue .print) (same : st'.queueCells .print = st.queueCells .print)
    (more : st.free.length ≤ st'.free.length) : PrintsNext st' file cells todo :=
  ⟨one, same.trans h.cells, spaceCheck_of_more queue more h.passes⟩

theorem flushSend (h : PrintsNext st file cells todo) : PrintsNext (st.flushQueue .send) file cells todo := by
  obtain ⟨one, ⟨same, _⟩, _, free⟩ := h.one.flushQueue .send
  exact h.other one (Store.queue_flushQueue_ne (by decide)) (same .print (by decide)) (by rw [free]; simp)

end PrintsNext

/-! ### Leaving OPEN (R26, R95, R109) -/

theorem cs_notice_passed {n : Notice} {s : State} (present : s.pu.present = true)
    (passes : s.cs.spaceCheck .print .mayUse n.run = true) : (notice n s).cs = s.cs.pushRun .print n.run :=
  (notice_told (fun u => u.cs) (fun _ => rfl) n s).trans (if_pos ⟨present, passes⟩)

/-- The edit stack discarded: its notice, where it holds a character (R109). -/
theorem printsNext_discardEdit {s : State} {cells todo : List Cell} (present : s.pu.present = true)
    (h : PrintsNext s.cs s.au.file cells ((if s.ku.editStack = [] then [] else Notice.lineDiscarded.run) ++ todo)) :
    PrintsNext (discardEdit s).cs s.au.file
      (cells ++ if s.ku.editStack = [] then [] else Notice.lineDiscarded.run) todo := by
  unfold discardEdit
  by_cases empty : s.ku.editStack = []
  · rw [if_pos empty, List.nil_append] at h
    rw [if_pos empty, if_pos empty, List.append_nil]
    exact h
  · rw [if_neg empty] at h
    rw [if_neg empty, if_neg empty, cs_notice_passed (s := { s with ku.editStack := [] }) present (spaceCheck_append h.passes).1]
    exact h.push

theorem appendEnd_unmarked {n : QueueName} {s : State} (none : (s.cs.queue n).openMark = none) : appendEnd n s = s := by
  simp [appendEnd, none]

theorem appendEnd_marked {n : QueueName} {s : State} {p : Station} (mark : (s.cs.queue n).openMark = some p) :
    (appendEnd n s).cs =
      let st := if s.cs.spaceCheck n .mayUse [.boundary .finish p] = true then s.cs.pushRun n [.boundary .finish p] else s.cs
      st.setQueue n { st.queue n with openMark := none } := by
  cases passes : s.cs.spaceCheck n .mayUse [.boundary .finish p] with
  | false => simp [appendEnd, mark, appendRun_refused passes]
  | true =>
    have appended := appendRun_passed passes
    simp only [appendEnd, mark, appended, Option.getD_some, cs_appendRun appended, if_true]

/-- The END that a queue's mark brings (R26). -/
def finishRun (q : Queue) : List Cell :=
  match q.openMark with
  | some n => [.boundary .finish n]
  | none => []

theorem printsNext_printEnd {s : State} {cells todo : List Cell}
    (h : PrintsNext s.cs s.au.file cells (finishRun s.cs.print ++ todo)) :
    PrintsNext (appendEnd .print s).cs s.au.file (cells ++ finishRun s.cs.print) todo := by
  unfold finishRun at *
  cases mark : s.cs.print.openMark with
  | none =>
    rw [mark] at h
    rw [appendEnd_unmarked (n := .print) mark, List.append_nil]
    exact h
  | some n =>
    rw [mark] at h
    rw [appendEnd_marked (n := .print) mark, if_pos (spaceCheck_append h.passes).1]
    exact h.push.unmark

theorem printsNext_punchEnd {s : State} {cells todo : List Cell} (h : PrintsNext s.cs s.au.file cells todo)
    (none : ∀ n, s.cs.punch.openMark = some n → s.cs.punch.blocksNeeded [.boundary .finish n] = 0) :
    PrintsNext (appendEnd .punch s).cs s.au.file cells todo := by
  obtain ⟨one, same, _⟩ := cells_appendEnd .punch h.one
  refine h.other one ((appendEnd_queues .punch s).2 .print (by decide)) (same .print (by decide)) ?_
  cases mark : s.cs.punch.openMark with
  | none => rw [appendEnd_unmarked (n := .punch) mark]
  | some n =>
    rw [appendEnd_marked (n := .punch) mark]
    have zero : (s.cs.queue .punch).blocksNeeded [.boundary .finish n] = 0 := none n mark
    obtain ⟨_, _, free⟩ := pushRun_counts (st := s.cs) (n := .punch) (run := [.boundary .finish n]) (by rw [zero]; omega)
    dsimp only
    split_ifs
    · show _ ≤ (s.cs.pushRun .punch [.boundary .finish n]).free.length
      rw [free, zero, List.drop_zero]
    · exact Nat.le_refl _

theorem mark_discardEdit (s : State) : (discardEdit s).cs.print.openMark = s.cs.print.openMark := by
  unfold discardEdit
  split
  · rfl
  · refine (notice_told (fun u => u.cs.print.openMark) (fun _ => rfl) _ _).trans ?_
    unfold told
    split
    · exact (Store.pushRun_fixed s.cs .print _).2.1
    · rfl

theorem leavingRun_eq (s : State) :
    leavingRun s = (if s.ku.editStack = [] then [] else Notice.lineDiscarded.run) ++ finishRun s.cs.print := rfl

theorem printsNext_leaveOpen {c : CallState} (filed : Bool) {s : State} {cells todo : List Cell} (leaves : c ≠ .opened)
    (present : s.pu.present = true) (h : PrintsNext s.cs s.au.file cells (leavingRun s ++ todo))
    (none : ∀ n, s.cs.punch.openMark = some n → s.cs.punch.blocksNeeded [.boundary .finish n] = 0) :
    PrintsNext (leaveOpen c filed s).cs (leaveOpen c filed s).au.file (cells ++ leavingRun s) todo := by
  have one := oneHolder_leaveOpen (c := c) (filed := filed) leaves h.one
  rw [leavingRun_eq, List.append_assoc] at h
  rw [leavingRun_eq, ← List.append_assoc]
  obtain ⟨cs, edit, file, _⟩ := stopSendRun_first c s
  have pu : (stopSendRun (clearHolds (withdrawOpen (setCallState c s)))).pu = s.pu := (stopSendRun_spec _).2.2
  obtain ⟨file', _, _, _, punch, _⟩ := beforeEnds_keeps s leaves
  suffices whole : PrintsNext (leaveOpen c filed s).cs s.au.file _ todo from ⟨one, whole.cells, whole.passes⟩
  rw [leaveOpen_eq, cs_closeFile]
  have before : PrintsNext (beforeEnds c s).cs s.au.file
      (cells ++ if s.ku.editStack = [] then [] else Notice.lineDiscarded.run) (finishRun s.cs.print ++ todo) := by
    unfold beforeEnds
    generalize stopSendRun (clearHolds (withdrawOpen (setCallState c s))) = x at cs edit file pu
    rw [← cs, ← file, ← edit] at h
    have discarded := (printsNext_discardEdit (pu.symm ▸ present) h).flushSend
    have flushed : (flushSend (discardEdit x)).cs = (discardEdit x).cs.flushQueue .send :=
      congrArg Prod.fst (storeFile_flushSend (discardEdit x))
    rw [← flushed, file, edit, cs] at discarded
    exact discarded
  have mark : (beforeEnds c s).cs.print.openMark = s.cs.print.openMark := by
    unfold beforeEnds
    rw [(flushSend_send _).2.1, mark_discardEdit, cs]
  have run : finishRun (beforeEnds c s).cs.print = finishRun s.cs.print := by rw [finishRun, mark, finishRun]
  generalize beforeEnds c s = u at file' punch before run ⊢
  rw [← file', ← run] at before
  have printed := printsNext_printEnd before
  rw [← (file_appendEnd .print u).1] at printed
  have queue : (appendEnd .print u).cs.punch = s.cs.punch :=
    ((appendEnd_queues .print u).2 .punch (by decide)).trans punch
  have punched := printsNext_punchEnd printed (by rw [queue]; exact none)
  rw [(file_appendEnd .print u).1, file', run] at punched
  exact punched

/-- A run next in PRINT goes in as a notice (R109, R134). -/
theorem PrintsNext.notice {s : State} {file : List FileRecord} {cells : List Cell} {n : Notice} (present : s.pu.present = true)
    (h : PrintsNext s.cs file cells n.run) :
    OneHolder (Machine.notice n s).cs file ∧ (Machine.notice n s).cs.queueCells .print = cells ++ n.run := by
  rw [cs_notice_passed present h.passes]
  exact ⟨(h.one.pushRun .print n.run).1, by rw [h.one.queueCells_pushRun (enough_of_spaceCheck h.passes), h.cells]⟩

/-! ### The cells in flight leave SEND (R24) -/

theorem length_cellsFrom (st : Store) (k : Nat) (b : Option Nat) (i : Nat) : (st.cellsFrom k b i).length ≤ k := by
  induction k generalizing b i with
  | zero => exact Nat.le_refl 0
  | succ k ih =>
    cases b with
    | none => exact Nat.zero_le _
    | some b =>
      have rest : (if i = 31 then st.cellsFrom k (st.link b) 0 else st.cellsFrom k (some b) (i + 1)).length ≤ k := by
        split_ifs
        · exact ih _ _
        · exact ih _ _
      unfold Store.cellsFrom
      cases st.cellAt b i with
      | some c => exact Nat.succ_le_succ rest
      | none => exact rest.trans (Nat.le_succ k)

theorem length_queueCells (st : Store) (n : QueueName) : (st.queueCells n).length ≤ (st.queue n).cellCount :=
  length_cellsFrom st _ _ _

/-- A removal takes one from the count, and where every cell counted is there, the oldest (R23). -/
theorem OneHolder.popCell_counts {st : Store} {file : List FileRecord} (h : OneHolder st file) (n : QueueName) :
    ((st.popCell n).queue n).cellCount = (st.queue n).cellCount - 1
      ∧ ((st.queueCells n).length = (st.queue n).cellCount →
          (st.popCell n).queueCells n = (st.queueCells n).drop 1
            ∧ ((st.popCell n).queueCells n).length = ((st.popCell n).queue n).cellCount) := by
  have nodup : (blocksOf st n).Nodup := h.nodup_place (queue_mem _ n)
  have queue := h.queues n
  cases blocks : blocksOf st n with
  | nil =>
    have head : (st.queue n).head = none := by rw [queue.head, blocks]; rfl
    have zero : (st.queue n).cellCount = 0 := queue.empty.mp (by rw [queue.count, blocks]; rfl)
    rw [popCell_of_none head]
    refine ⟨by rw [zero], fun whole => ⟨?_, whole⟩⟩
    rw [List.eq_nil_of_length_eq_zero (whole.trans zero)]
    rfl
  | cons b bs =>
    rw [blocks] at nodup queue
    obtain ⟨_, cells, _, _, count⟩ := queue.pop nodup
    have nonempty : (st.queue n).cellCount ≠ 0 := fun zero => by
      have := queue.empty.mpr zero
      rw [queue.count] at this
      cases this
    refine ⟨count, fun whole => ?_⟩
    have bound := length_queueCells (st.popCell n) n
    have length := congrArg List.length cells
    rw [whole, List.length_append] at length
    cases head : st.headCell n with
    | none =>
      rw [head] at length
      simp only [Option.toList_none, List.length_nil] at length
      omega
    | some c =>
      rw [head] at length cells
      simp only [Option.toList_some, List.length_singleton] at length
      exact ⟨by rw [cells]; rfl, by omega⟩

theorem OneHolder.popCells_counts {st : Store} {file : List FileRecord} (h : OneHolder st file) (n : QueueName) (k : Nat) :
    ((Store.popCells n k st).queue n).cellCount = (st.queue n).cellCount - k
      ∧ ((st.queueCells n).length = (st.queue n).cellCount →
          (Store.popCells n k st).queueCells n = (st.queueCells n).drop k) := by
  induction k generalizing st with
  | zero => exact ⟨rfl, fun _ => rfl⟩
  | succ k ih =>
    obtain ⟨count, cells⟩ := h.popCell_counts n
    obtain ⟨counts, rest⟩ := ih (h.popCell n).1
    refine ⟨counts.trans (by rw [count]; omega), fun whole => ?_⟩
    obtain ⟨first, length⟩ := cells whole
    exact (rest length).trans (by rw [first, List.drop_drop, Nat.add_comm])

/-- The cells in flight removed from SEND (R24). -/
theorem ackSend_spec {s : State} (one : blocksHaveOneHolder s) :
    (ackSend s).cs.send.cellCount = s.cs.send.cellCount - s.cs.send.inFlight ∧ (ackSend s).cs.send.inFlight = 0
      ∧ ((s.cs.queueCells .send).length = s.cs.send.cellCount →
          (ackSend s).cs.queueCells .send = (s.cs.queueCells .send).drop s.cs.send.inFlight) := by
  obtain ⟨count, cells⟩ := (blocksHaveOneHolder_iff.mp one).popCells_counts .send s.cs.send.inFlight
  have store : (ackSend s).cs = { Store.popCells .send s.cs.send.inFlight s.cs with send.inFlight := 0 } := by
    unfold ackSend
    rw [cs_signal]
  rw [store]
  refine ⟨count, rfl, fun whole => ?_⟩
  rw [← cells whole]
  exact queueCells_congr rfl rfl rfl rfl rfl

end Sys2Proof.Machine
end

section
/-!
The end of an attempt (R41 to R44, R51, R52, R54, R74, R77, R81, R92, log 12).
-/

namespace Sys2Proof.Machine

/-! ### The LU at the end of an attempt -/

/-- The slot is empty; the ACK slot's reading and the receive side are those of the two events' order (log 12). -/
theorem ends_fields {s : State} {sent ack withdrawn : Bool} {l : LineUnit} (ends : attemptEnds s sent ack withdrawn l) :
    ∃ read receive, l = { s.lu with slot := none, ackRead := read, receive := receive } := by
  rcases ends with ⟨w, f, _, _, _, rfl⟩ | ⟨_, _, rfl⟩ <;> exact ⟨_, _, rfl⟩

theorem acted_eq (s : State) : acted s = .next (settle s) := rfl

/-! ### The outcomes of a TEXT (R41, R42, R44, R81) -/

section
variable {s : State} {p : TextPlace} (text : s.lu.text = some p)
include text

theorem textTaken_live (live : p.withdrawn = false) :
    textTaken s = ackSend { s with lu.text := none, cm.call.sendSeq := s.cm.call.sendSeq + 1 } := by
  simp [textTaken, text, live]

theorem textUnanswered_retry (live : p.withdrawn = false) (left : p.retriesUsed < s.cl.config.retryLimit) :
    textUnanswered s =
      { s with lu.text := some { p with retriesUsed := p.retriesUsed + 1, readiness := .waiting (40 * unitTime s) } } := by
  simp [textUnanswered, text, live, left, retryWait]

theorem textUnanswered_exhausted (live : p.withdrawn = false) (none_ : s.cl.config.retryLimit ≤ p.retriesUsed) :
    textUnanswered s = textExhausted { s with lu.text := none } := by
  simp [textUnanswered, text, live, Nat.not_lt.mpr none_]

theorem textOutcome_withdrawn (ack : Bool) (gone : p.withdrawn = true) :
    attemptOutcome .text ack s = { s with lu.text := none } := by
  cases ack <;> simp [attemptOutcome, textTaken, textUnanswered, text, gone]

end

theorem exec_textEnds {s : State} {tel : Telegram} {p : TextPlace} {sent ack : Bool} {l : LineUnit}
    (ends : attemptEnds s sent ack p.withdrawn l) (slot : s.lu.slot = some ⟨.text, tel⟩) (text : s.lu.text = some p) :
    exec (.attemptEnd sent) s =
      .next (settle (attemptOutcome .text ack { s with lu := { l with text := some { p with collisions := 0 } } })) := by
  rw [← slotWithdrawn_text slot text] at ends
  rw [execAttemptEnd_of_ends slot ends, endRestartClear_of (.inr (by simp)), acted_eq]
  obtain ⟨read, receive, rfl⟩ := ends_fields ends
  simp only [setCollisions, text, Option.map_some]

/-! ### An exhausted TEXT (R81, R92, R95) -/

theorem leaveOpen_sendSeq (c : CallState) (filed : Bool) (s : State) :
    (leaveOpen c filed s).cm.call.sendSeq = s.cm.call.sendSeq := by
  have closed (x : State) : (closeFile filed x).cm.call.sendSeq = x.cm.call.sendSeq := by
    unfold closeFile
    split <;> rfl
  have before := kept_of_storeCore (storeCore_ends c s) (fun u => u.cm.call.sendSeq) fun _ => rfl
  obtain ⟨_, _, _, _, _, call, _⟩ := stopSendRun_keeps (clearHolds (withdrawOpen (setCallState c s)))
  rw [leaveOpen_eq, closed]
  exact before.trans (congrArg CallRecord.sendSeq call :)

/-- A request of a kind with no opposite, the slot empty, stands in the list as an entry of its own (R43). -/
theorem mem_enterRequest_free {r : Request} (alone : holdOpposite r.kind = none) {l : LineUnit} (free : l.slot = none) :
    ∃ e ∈ (enterRequest r l).control, e.content = r := by
  have apart : l.control.any (cancels l r) = false := by simp [cancels, alone]
  have idle : inSlot r.kind l = false := by simp [inSlot, free]
  unfold enterRequest
  rw [if_neg (by rw [apart]; decide)]
  split
  · rename_i there
    obtain ⟨e, mem, kind⟩ := List.any_eq_true.mp there
    refine ⟨ControlEntry.fresh r, List.mem_map.mpr ⟨e, mem, ?_⟩, rfl⟩
    rw [if_pos (of_decide_eq_true kind), if_neg (by rw [idle]; decide)]
  · exact ⟨ControlEntry.fresh r, List.mem_append_right _ (List.mem_singleton_self _), rfl⟩

/-- What follows the notice of the call's end leaves SEND, and what PRINT held stays its oldest (R23, R95). -/
theorem printMoves_afterEnd (n : Option Notice) (s : State) :
    PrintMoves (MayGo s.cl.config.keepPrinted) (storeFile (noticeIf n s)) (storeFile (finishCursor (noticeIf n s))) :=
  printMoves_finishCursor (by rw [(cl_of_callCore (callCore_noticeIf n s)).1])

theorem exhaustedText_spec {s : State} (opened : s.cm.call.state = .opened) (joined : s.lu.joinState = .joined)
    (served : s.lu.restartClear = false) (slot : s.lu.slot = none) :
    let t := settle (textExhausted s)
    t.lu.slot = none ∧ t.lu.text = none ∧ t.cm.call.state = .clearing ∧ t.cs.send.cellCount = 0
      ∧ t.cm.call.sendSeq = s.cm.call.sendSeq
      ∧ printsAtEnd s t (Notice.cleared s.cm.call.partyAddr.toNat .retryFailed).run
      ∧ ∃ e ∈ t.lu.control, e.content = ⟨.clear, s.cm.call.partyAddr, [1], .cm, s.cl.config.retryLimit⟩ := by
  have acts : textExhausted s =
      openToClearing false (some (.cleared s.cm.call.partyAddr.toNat .retryFailed)) .retryFailed s := if_pos opened
  obtain ⟨x, cleared, ended, clearing⟩ := openToClearing_spec (filed := false)
    (n := some (.cleared s.cm.call.partyAddr.toNat .retryFailed)) (c := .retryFailed) joined served
  obtain ⟨state, _, _, _, _, _, _, _, lu, send, _⟩ := leaveOpen_spec (c := .clearing) false s (by decide)
  obtain ⟨cm', lu'⟩ := SameLine.afterEnd (s := leaveOpen .clearing false s) (by rw [state]; decide)
    (some (.cleared s.cm.call.partyAddr.toNat .retryFailed))
  have moves := printMoves_afterEnd (some (.cleared s.cm.call.partyAddr.toNat .retryFailed)) (leaveOpen .clearing false s)
  have sendSeq := leaveOpen_sendSeq .clearing false s
  have sendQueue : x.cs.send = (leaveOpen .clearing false s).cs.send := by
    rw [ended]
    exact (moves.queue (n := .send) (by decide)).trans
      ((printMoves_noticeIf (may := fun _ => False) _ _).queue (n := .send) (by decide))
  have printed : printsAtEnd s x (Notice.cleared s.cm.call.partyAddr.toNat .retryFailed).run := by
    rw [printsAtEnd, if_pos opened]
    intro none present passes holder
    have left := printsNext_leaveOpen (c := .clearing) false (by decide) present
      ⟨blocksHaveOneHolder_iff.mp holder, rfl, passes⟩ none
    have pu : (leaveOpen .clearing false s).pu.present = true :=
      (pu_of_callCore (callCore_leaveOpen .clearing false s)).1.trans present
    obtain ⟨one, cells⟩ := left.notice pu
    have file : (noticeIf (some (.cleared s.cm.call.partyAddr.toNat .retryFailed)) (leaveOpen .clearing false s)).au.file
        = (leaveOpen .clearing false s).au.file := notice_field (fun u => u.au.file) (fun _ => rfl) _ _
    rw [← file] at one
    obtain ⟨_, last⟩ := moves.cells one
    rw [ended, ← List.append_assoc, ← cells]
    exact last
  rw [← ended] at cm' lu'
  rw [acts, cleared]
  obtain ⟨control, line⟩ := enterRequest_list ⟨.clear, s.cm.call.partyAddr, [causeCode .retryFailed], .cm, s.cl.config.retryLimit⟩
    x.lu
  obtain ⟨m, settled⟩ := settle_of_not_open (s := { x with
    lu := enterRequest ⟨.clear, s.cm.call.partyAddr, [causeCode .retryFailed], .cm, s.cl.config.retryLimit⟩ x.lu })
    (ne_of_eq_of_ne clearing (by decide))
  have slot' : x.lu.slot = none := by rw [lu', lu]; exact slot
  have text' : x.lu.text = none := by
    rw [lu', lu]
    refine (withdrawText_text s.lu).trans ?_
    rw [slot]
    rfl
  dsimp only
  rw [settled]
  refine ⟨by rw [line]; exact slot', by rw [line]; exact text', clearing, ?_, ?_, printed, ?_⟩
  · show x.cs.send.cellCount = 0
    rw [sendQueue, send]
    rfl
  · show x.cm.call.sendSeq = _
    rw [cm', sendSeq]
  · exact mem_enterRequest_free rfl slot'

/-! ### The outcomes of a control entry (R41 to R43) -/

/-- A control entry whose attempt was taken (R41, R43, R92). -/
theorem entryTaken_eq {k : Kind} {s : State} {e : ControlEntry} (entry : entryOf k s.lu = some e) :
    (e.withdrawn = true ∨ k ≠ .clear ∨ e.content.requester ≠ .cm ∨ s.cm.call.state ≠ .clearing →
        entryTaken k s = { s with lu := appendFresh e.beside (dropEntry k s.lu) })
      ∧ (e.withdrawn = false → k = .clear → e.content.requester = .cm → s.cm.call.state = .clearing →
          entryTaken k s = toIdle false none { s with lu := appendFresh e.beside (dropEntry k s.lu) }) := by
  refine ⟨fun other => ?_, fun live clear cm clearing => ?_⟩
  · unfold entryTaken
    rw [entry]
    refine if_neg fun all => ?_
    simp only [Bool.and_eq_true, Bool.not_eq_true', decide_eq_true_eq] at all
    obtain ⟨⟨⟨live, cm⟩, clear⟩, clearing⟩ := all
    rcases other with gone | other | other | other
    · exact Bool.false_ne_true (live.symm.trans gone)
    · exact other clear
    · exact other cm
    · exact other clearing
  · subst clear
    simp [entryTaken, entry, live, cm, clearing]

theorem callCore_line (s : State) (k : Kind) (r : Option Request) :
    callCore { s with lu := appendFresh r (dropEntry k s.lu) } = callCore s := by
  rw [appendFresh_control]
  rfl

theorem callCore_entryTaken (k : Kind) (s : State) : callCore (entryTaken k s) = callCore s := by
  unfold entryTaken
  cases entryOf k s.lu with
  | none => rfl
  | some e =>
    dsimp only
    split
    · exact (callCore_toIdle _ _ _).trans (callCore_line s k e.beside)
    · exact callCore_line s k e.beside

theorem callCore_entryUnanswered (k : Kind) (s : State) : callCore (entryUnanswered k s) = callCore s := by
  unfold entryUnanswered
  cases entryOf k s.lu with
  | none => rfl
  | some e =>
    dsimp only
    split
    · exact callCore_line s k e.beside
    · cases e.beside with
      | some r => rfl
      | none =>
        dsimp only
        split
        · rfl
        · exact (callCore_exhausted _ _).trans rfl

/-- The entry's collision count is 0 at the end of its attempt (R40). -/
def uncollided (e : ControlEntry) : ControlEntry := { e with collisions := 0 }

theorem exec_controlEnds {s : State} {tel : Telegram} {k : Kind} {e : ControlEntry} {sent ack : Bool} {l : LineUnit}
    (ends : attemptEnds s sent ack e.withdrawn l) (slot : s.lu.slot = some ⟨.control k, tel⟩)
    (entry : s.lu.control.find? (fun x => x.content.kind = k) = some e) (other : s.lu.restartClear = true → k ≠ .clear) :
    exec (.attemptEnd sent) s =
        .next (settle (attemptOutcome (.control k) ack { s with lu := mapEntry k uncollided l }))
      ∧ entryOf k (mapEntry k uncollided l) = some (uncollided e) := by
  have found : entryOf k s.lu = some e := entry
  rw [← slotWithdrawn_control slot entry] at ends
  rw [execAttemptEnd_of_ends slot ends, acted_eq]
  obtain ⟨read, receive, rfl⟩ := ends_fields ends
  have core : callCore (attemptOutcome (.control k) ack
      { s with lu := setCollisions 0 (.control k) { s.lu with slot := none, ackRead := read, receive := receive } })
      = callCore { s with lu := { s.lu with slot := none, ackRead := read, receive := receive } } := by
    cases ack with
    | true => exact (callCore_entryTaken k _).trans rfl
    | false => exact (callCore_entryUnanswered k _).trans rfl
  have kept := (lu_of_callCore core).2.2.2.2.2.2.2.2
  refine ⟨?_, ?_⟩
  · rw [endRestartClear_of]
    · rfl
    · cases waits : s.lu.restartClear with
      | false => exact .inl (kept.trans waits)
      | true => exact .inr fun same => other waits (SlotSource.control.inj same)
  · exact (entryOf_mapEntry k (f := uncollided) (fun _ => rfl) _).trans (congrArg (Option.map uncollided) found)

theorem dropEntry_uncollided (k : Kind) (l : LineUnit) : dropEntry k (mapEntry k uncollided l) = dropEntry k l :=
  dropEntry_mapEntry k (f := uncollided) (fun _ => rfl) l

/-! ### The record's end by an exhausted request (R74, R77, R92) -/

/-- The run of an optional notice. -/
def runIf : Option Notice → List Cell
  | some n => n.run
  | none => []

theorem PrintsNext.noticeIf {s : State} {file : List FileRecord} {cells : List Cell} {n : Option Notice}
    (present : s.pu.present = true) (h : PrintsNext s.cs file cells (runIf n)) :
    OneHolder (Machine.noticeIf n s).cs file ∧ (Machine.noticeIf n s).cs.queueCells .print = cells ++ runIf n := by
  cases n with
  | none => exact ⟨h.one, h.cells.trans (List.append_nil _).symm⟩
  | some x => exact PrintsNext.notice present h

/-- In going to IDLE from a state other than OPEN, the notice goes to PRINT, and what PRINT held stays its oldest. -/
theorem prints_toIdle {s y : State} (n : Option Notice) (cs : y.cs = s.cs) (present : y.pu.present = s.pu.present)
    (file : y.au.file = s.au.file) (notOpen : y.cm.call.state ≠ .opened) :
    prints s (settle (toIdle false n y)) (runIf n) := by
  refine prints_of_cs cs present file fun here passes holder => ?_
  have idle : toIdle false n y = tellIdle (finishCursor (noticeIf n (setCallState .idle y))) := by
    unfold toIdle
    dsimp only
    rw [if_neg notOpen]
  have next : PrintsNext (setCallState .idle y).cs y.au.file (y.cs.queueCells .print) (runIf n) :=
    ⟨blocksHaveOneHolder_iff.mp holder, rfl, passes⟩
  obtain ⟨one, cells⟩ := PrintsNext.noticeIf (s := setCallState .idle y) here next
  have same : (noticeIf n (setCallState .idle y)).au.file = y.au.file :=
    (rest_of_storeCore (storeCore_noticeIf n (setCallState .idle y))).2.2.2.2.2.2.1
  rw [← same] at one
  have finished := printMoves_afterEnd n (setCallState .idle y)
  have told := (printMoves_tellIdle (s := finishCursor (noticeIf n (setCallState .idle y))) rfl).mayGo
  rw [queueCells_settle _ (by decide), idle, ← cells]
  exact (finished.cells one).2.trans (told.cells (finished.oneHolder one)).2

/-- The record's end with its request, exhausted: IDLE, the LU as the entry left it, and the notice in PRINT. -/
theorem toIdle_ends {s y : State} (n : Option Notice) (cs : y.cs = s.cs) (pu : y.pu = s.pu) (au : y.au = s.au)
    (cm : y.cm = s.cm) (notOpen : s.cm.call.state ≠ .opened) :
    let t := settle (toIdle false n y)
    t.cm.call.state = .idle ∧ t.cm.view = s.cm.view ∧ t.lu.control = y.lu.control ∧ t.lu.slot = y.lu.slot
      ∧ prints s t (runIf n) := by
  have notOpen' : y.cm.call.state ≠ .opened := by rw [cm]; exact notOpen
  obtain ⟨cm', lu, _⟩ := toIdle_of_not_open false n notOpen'
  dsimp only
  rw [settle_call, settle_view, settle_control, settle_slot, cm', lu, cm]
  exact ⟨rfl, rfl, rfl, rfl, prints_toIdle n cs (by rw [pu]) (by rw [au]) notOpen'⟩

/-! ### The restart CLEAR's end (R54) -/

/-- The restart CLEAR, its attempt over: it leaves the list, and the LU goes to LISTEN (R37, R54, log 12). -/
theorem listenAfterAttempt_of_ends {s : State} {sent ack withdrawn : Bool} {l : LineUnit} {control : List ControlEntry}
    (ends : attemptEnds s sent ack withdrawn l) :
    listenAfterAttempt { s with lu := { l with control := control } } =
      { s with
        lu := { l with
          control := control
          joinState := .listen
          probeCount := 0
          probeCollisions := 0
          probeWait := none
          quiet := 0
          listenWindow := some (sec 30)
          lastOwn := false
          restartClear := false } } := by
  rcases ends with ⟨w, f, _, _, _, rfl⟩ | ⟨_, hunts, rfl⟩
  · rfl
  · simp only [listenAfterAttempt, hunts, enterListen]

theorem restartClear_outcome {s : State} {e : ControlEntry} {ack : Bool} (entry : entryOf .clear s.lu = some e)
    (loose : e.content.requester ≠ .cm) (single : e.content.allowance ≤ e.retriesUsed) (beside : e.beside = none) :
    attemptOutcome (.control .clear) ack s = { s with lu := dropEntry .clear s.lu } := by
  have dropped : appendFresh e.beside (dropEntry .clear s.lu) = dropEntry .clear s.lu := by rw [beside]; rfl
  cases ack with
  | true => exact ((entryTaken_eq entry).1 (.inr (.inr (.inl loose)))).trans (by rw [dropped])
  | false =>
    obtain ⟨gone, _, _, ends⟩ := entryUnanswered_eq entry
    cases withdrawn : e.withdrawn with
    | true => exact (gone withdrawn).trans (by rw [dropped])
    | false => exact (ends withdrawn beside single).trans (if_neg loose)

/-! ### A probe's end (R51, R52) -/

theorem exec_probeEnds {s : State} {tel : Telegram} {sent ack : Bool} {l : LineUnit} (ends : attemptEnds s sent ack false l)
    (slot : s.lu.slot = some ⟨.probe, tel⟩) :
    exec (.attemptEnd sent) s =
      .next (settle (attemptOutcome .probe ack { s with lu := { l with probeCollisions := 0 } })) := by
  have live : slotWithdrawn s = false := by simp [slotWithdrawn, slot]
  rw [← live] at ends
  rw [execAttemptEnd_of_ends slot ends, endRestartClear_of (.inr (by simp)), acted_eq]
  rfl

/-! ### The parts of the statement -/

theorem textEnds {s : State} {tel : Telegram} {p : TextPlace} {sent ack : Bool} {l : LineUnit}
    (ends : attemptEnds s sent ack false l) (slot : s.lu.slot = some ⟨.text, tel⟩) (text : s.lu.text = some p)
    (live : p.withdrawn = false) :
    (ack = true →
        exec (.attemptEnd sent) s =
          .next (settle (ackSend { s with lu := { l with text := none }, cm.call.sendSeq := s.cm.call.sendSeq + 1 })))
      ∧ (ack = false → p.retriesUsed < s.cl.config.retryLimit →
          exec (.attemptEnd sent) s =
            .next (settle
              { s with
                lu := { l with
                  text := some
                    { p with
                      collisions := 0
                      retriesUsed := p.retriesUsed + 1
                      readiness := .waiting (40 * unitTime s) } } }))
      ∧ (ack = false → s.cl.config.retryLimit ≤ p.retriesUsed →
          exec (.attemptEnd sent) s = .next (settle (textExhausted { s with lu := { l with text := none } }))) := by
  rw [← live] at ends
  have run := exec_textEnds ends slot text
  have place : ({ s with lu := { l with text := some { p with collisions := 0 } } } : State).lu.text =
      some { p with collisions := 0 } := rfl
  refine ⟨fun taken => run.trans ?_, fun unanswered left => run.trans ?_, fun unanswered none_ => run.trans ?_⟩
  · rw [taken]
    exact congrArg (fun x => Host.Outcome.next (settle x)) (textTaken_live place live)
  · rw [unanswered]
    exact congrArg (fun x => Host.Outcome.next (settle x)) (textUnanswered_retry place live left)
  · rw [unanswered]
    exact congrArg (fun x => Host.Outcome.next (settle x)) (textUnanswered_exhausted place live none_)

theorem textTaken_counts {s : State} {l : LineUnit} (free : l.slot = none) (one : blocksHaveOneHolder s) :
    let t := settle (ackSend { s with lu := { l with text := none }, cm.call.sendSeq := s.cm.call.sendSeq + 1 })
    t.lu.slot = none ∧ t.cs.send.cellCount = s.cs.send.cellCount - s.cs.send.inFlight
      ∧ t.cm.call.sendSeq = s.cm.call.sendSeq + 1 ∧ t.cm.call.state = s.cm.call.state
      ∧ t.ku.editStack = s.ku.editStack := by
  dsimp only
  generalize before : ({ s with lu := { l with text := none }, cm.call.sendSeq := s.cm.call.sendSeq + 1 } : State) = z
  obtain ⟨count, _⟩ := ackSend_spec (s := z) (by subst before; exact one)
  have keeps {α : Type} (f : State → α) (hidden : ∀ u, f (storeCore u) = f u) : f (ackSend z) = f z :=
    kept_of_storeCore (storeCore_ackSend z) f hidden
  rw [settle_slot, settle_sendCells, settle_call, settle_ku, count]
  subst before
  exact ⟨(keeps (fun u => u.lu.slot) fun _ => rfl).trans free, rfl, keeps (fun u => u.cm.call.sendSeq) fun _ => rfl,
    keeps (fun u => u.cm.call.state) fun _ => rfl, keeps (fun u => u.ku.editStack) fun _ => rfl⟩

end Sys2Proof.Machine
end

section
/-!
The end of an attempt: the statement's parts on a control entry, and the whole (R41 to R44, R51, R52, R54).
-/

namespace Sys2Proof.Machine

/-! ### A control entry's attempt (R41 to R43) -/

/-- The list without the entries of a kind, content held beside one of them at its end (R43). -/
def listWithout (k : Kind) (r : Option Request) (s : State) : List ControlEntry :=
  (s.lu.control.filter fun x => x.content.kind ≠ k) ++ (r.map ControlEntry.fresh).toList

/-- The list with the entries of a kind changed. -/
def listChanged (k : Kind) (f : ControlEntry → ControlEntry) (s : State) : List ControlEntry :=
  s.lu.control.map fun x => if x.content.kind = k then f x else x

/-- The LU whose entry has left the list after its attempt. -/
theorem line_without (k : Kind) (r : Option Request) {s : State} {l : LineUnit} (list : l.control = s.lu.control) :
    appendFresh r (dropEntry k (mapEntry k uncollided l)) = { l with control := listWithout k r s } := by
  rw [dropEntry_uncollided, appendFresh_control]
  show ({ l with control := l.control.filter _ ++ _ } : LineUnit) = _
  rw [list]
  rfl

theorem line_changed (k : Kind) (f : ControlEntry → ControlEntry) {s : State} {l : LineUnit}
    (list : l.control = s.lu.control) :
    mapEntry k f (mapEntry k uncollided l) = { l with control := listChanged k (fun e => f (uncollided e)) s } := by
  rw [mapEntry_mapEntry k f (f := uncollided) fun _ => rfl]
  show ({ l with control := l.control.map _ } : LineUnit) = _
  rw [list]
  rfl

theorem control_of_ends {s : State} {sent ack withdrawn : Bool} {l : LineUnit} (ends : attemptEnds s sent ack withdrawn l) :
    l.control = s.lu.control := by
  obtain ⟨read, receive, rfl⟩ := ends_fields ends
  rfl

section
variable {s : State} {tel : Telegram} {k : Kind} {e : ControlEntry} {sent ack : Bool} {l : LineUnit}
  (ends : attemptEnds s sent ack e.withdrawn l) (slot : s.lu.slot = some ⟨.control k, tel⟩)
  (entry : s.lu.control.find? (fun x => x.content.kind = k) = some e) (other : s.lu.restartClear = true → k ≠ .clear)
include ends slot entry other

/-- Taken (R41, R43). -/
theorem controlTaken (taken : ack = true)
    (stays : e.withdrawn = true ∨ k ≠ .clear ∨ e.content.requester ≠ .cm ∨ s.cm.call.state ≠ .clearing) :
    exec (.attemptEnd sent) s = .next (settle { s with lu := { l with control := listWithout k e.beside s } }) := by
  obtain ⟨run, found⟩ := exec_controlEnds ends slot entry other
  obtain ⟨left, _⟩ := entryTaken_eq (s := { s with lu := mapEntry k uncollided l }) found
  rw [run, taken, ← line_without k e.beside (control_of_ends ends)]
  exact congrArg (fun x => Host.Outcome.next (settle x)) (left stays)

/-- The CM's CLEAR, taken (R92). -/
theorem clearTaken (taken : ack = true) (live : e.withdrawn = false) (clear : k = .clear) (cm : e.content.requester = .cm)
    (clearing : s.cm.call.state = .clearing) :
    exec (.attemptEnd sent) s =
      .next (settle (toIdle false none { s with lu := { l with control := listWithout k e.beside s } })) := by
  obtain ⟨run, found⟩ := exec_controlEnds ends slot entry other
  obtain ⟨_, idles⟩ := entryTaken_eq (s := { s with lu := mapEntry k uncollided l }) found
  rw [run, taken, ← line_without k e.beside (control_of_ends ends)]
  exact congrArg (fun x => Host.Outcome.next (settle x)) (idles live clear cm clearing)

/-- Unanswered, its requester having withdrawn it (R43). -/
theorem controlGone (unanswered : ack = false) (gone : e.withdrawn = true) :
    exec (.attemptEnd sent) s = .next (settle { s with lu := { l with control := listWithout k e.beside s } }) := by
  obtain ⟨run, found⟩ := exec_controlEnds ends slot entry other
  obtain ⟨left, _⟩ := entryUnanswered_eq (s := { s with lu := mapEntry k uncollided l }) found
  rw [run, unanswered, ← line_without k e.beside (control_of_ends ends)]
  exact congrArg (fun x => Host.Outcome.next (settle x)) (left gone)

/-- Unanswered, with content held beside it (R43). -/
theorem controlRenewed {r : Request} (unanswered : ack = false) (live : e.withdrawn = false) (beside : e.beside = some r) :
    exec (.attemptEnd sent) s =
      .next (settle { s with lu := { l with control := listChanged k (fun _ => ControlEntry.fresh r) s } }) := by
  obtain ⟨run, found⟩ := exec_controlEnds ends slot entry other
  obtain ⟨_, renewed, _⟩ := entryUnanswered_eq (s := { s with lu := mapEntry k uncollided l }) found
  rw [run, unanswered,
    ← line_changed k (fun _ => ControlEntry.fresh r) (control_of_ends ends)]
  exact congrArg (fun x => Host.Outcome.next (settle x)) (renewed r live beside)

/-- Unanswered, with a retry left (R42). -/
theorem controlRetries (unanswered : ack = false) (live : e.withdrawn = false) (beside : e.beside = none)
    (left : e.retriesUsed < e.content.allowance) :
    exec (.attemptEnd sent) s =
      .next (settle
        { s with lu := { l with control := listChanged k (fun x => useRetry (.waiting (40 * unitTime s)) (uncollided x)) s } }) := by
  obtain ⟨run, found⟩ := exec_controlEnds ends slot entry other
  obtain ⟨_, _, again, _⟩ := entryUnanswered_eq (s := { s with lu := mapEntry k uncollided l }) found
  rw [run, unanswered,
    ← line_changed k (useRetry (.waiting (40 * unitTime s))) (control_of_ends ends)]
  exact congrArg (fun x => Host.Outcome.next (settle x)) (again live beside left)

/-- Unanswered, with no retry left: exhausted (R42, R96). -/
theorem controlExhausted (unanswered : ack = false) (live : e.withdrawn = false) (beside : e.beside = none)
    (spent : e.content.allowance ≤ e.retriesUsed) :
    exec (.attemptEnd sent) s =
      .next (settle (exhausted e.content { s with lu := { l with control := listWithout k none s } })) := by
  obtain ⟨run, found⟩ := exec_controlEnds ends slot entry other
  obtain ⟨_, _, _, left⟩ := entryUnanswered_eq (s := { s with lu := mapEntry k uncollided l }) found
  rw [run, unanswered, ← line_without k none (control_of_ends ends)]
  exact congrArg (fun x => Host.Outcome.next (settle x)) (left live beside spent)

end

theorem listWithout_none (k : Kind) (s : State) :
    listWithout k none s = s.lu.control.filter fun x => x.content.kind ≠ k := List.append_nil _

/-! ### What the CM makes of an exhausted request (R74, R77, R89, R92, R96) -/

section
variable {r : Request} {s : State} (cm : r.requester = .cm)
include cm

theorem exhausted_call (kind : r.kind = .call) (calling : s.cm.call.state = .calling) :
    exhausted r s = toIdle false (some (.noAnswer r.destination.toNat)) s := by
  rw [exhausted, if_pos cm, kind]
  exact if_pos calling

theorem exhausted_accept (kind : r.kind = .accept) (ringing : s.cm.call.state = .ringing) :
    exhausted r s = toIdle false (some .callFailed) s := by
  rw [exhausted, if_pos cm, kind]
  exact if_pos ringing

theorem exhausted_clear (kind : r.kind = .clear) (clearing : s.cm.call.state = .clearing) :
    exhausted r s = toIdle false none s := by
  rw [exhausted, if_pos cm, kind]
  exact if_pos clearing

theorem exhausted_who (kind : r.kind = .who) : exhausted r s = notice (.noAnswer r.destination.toNat) s := by
  rw [exhausted, if_pos cm, kind]

end

/-- What the CM makes of an exhausted request that ends no record and prints nothing (R84, R96). -/
theorem exhausted_nothing {r : Request} {s : State}
    (nothing : r.requester ≠ .cm
      ∨ r.kind = .refuse ∨ r.kind = .hold ∨ r.kind = .go ∨ r.kind = .brk ∨ r.kind = .hereis ∨ r.kind = .poll
      ∨ r.kind = .call ∧ s.cm.call.state ≠ .calling
      ∨ r.kind = .accept ∧ s.cm.call.state ≠ .ringing ∨ r.kind = .clear ∧ s.cm.call.state ≠ .clearing) :
    exhausted r s = s := by
  unfold exhausted
  by_cases cm : r.requester = .cm
  · rw [if_pos cm]
    rcases nothing with loose | kind | kind | kind | kind | kind | kind | ⟨kind, state⟩ | ⟨kind, state⟩ | ⟨kind, state⟩
    · exact absurd cm loose
    · rw [kind]
    · rw [kind]
    · rw [kind]
    · rw [kind]
    · rw [kind]
    · rw [kind]
    · rw [kind]; exact if_neg state
    · rw [kind]; exact if_neg state
    · rw [kind]; exact if_neg state
  · exact if_neg cm

/-! ### A retry's wait (R42) -/

theorem retryWait_text {s : State} {p : TextPlace} {left : Tick} (text : s.lu.text = some p)
    (wait : p.readiness = .waiting left) :
    exec (.retryWaitExpiry .text) s =
      .next (settle { elapse left s with lu.text := some { p with readiness := .retryReady 0 } }) := by
  have place : (elapse left s).lu.text.map (fun q => { q with readiness := .retryReady 0 }) =
      some { p with readiness := .retryReady 0 } := by
    unfold elapse
    split
    · rw [text]; rfl
    · show (s.lu.text.map (TextPlace.elapse left)).map _ = _
      rw [text]; rfl
  have running : retryTimer .text s.lu = some left := by simp [retryTimer, text, wait, waitLeft]
  rw [exec, execRetryWaitExpiry, expire_of _ s running rfl]
  simp only [makeReady, place]

theorem retryWait_control {s : State} {e : ControlEntry} {k : Kind} {left : Tick}
    (entry : s.lu.control.find? (fun x => x.content.kind = k) = some e) (notText : k ≠ .text)
    (wait : e.readiness = .waiting left) :
    exec (.retryWaitExpiry k) s =
      .next (settle
        { elapse left s with
          lu.control := (elapse left s).lu.control.map fun x =>
            if x.content.kind = k then { x with readiness := .retryReady 0 } else x }) := by
  have timer : retryTimer k s.lu = (entryOf k s.lu).bind fun x => waitLeft x.readiness := by
    cases k with
    | text => exact absurd rfl notText
    | call | accept | refuse | clear | hold | go | brk | who | hereis | poll => rfl
  have readies (l : LineUnit) : makeReady k l = mapEntry k (fun x => { x with readiness := .retryReady 0 }) l := by
    cases k with
    | text => exact absurd rfl notText
    | call | accept | refuse | clear | hold | go | brk | who | hereis | poll => rfl
  have running : retryTimer k s.lu = some left := by
    rw [timer, show entryOf k s.lu = some e from entry]
    simp [wait, waitLeft]
  rw [exec, execRetryWaitExpiry, expire_of _ s running rfl]
  rw [readies]
  rfl

/-- Settles O38, attempt by attempt: what is acknowledged, what tries again, what is given up. -/
theorem attemptOfATextEnds : Obligations.AttemptOfATextEnds := by
  unfold Obligations.AttemptOfATextEnds
  refine ⟨fun s tel p sent ack l load ends slot text live => ?_, fun s one => ackSend_spec one,
    fun s tel e k sent ack l load ends slot entry live beside other => ?_,
    fun s tel p sent ack l ends slot text gone => ?_, fun s tel e k sent ack l ends slot entry other => ?_,
    fun s tel e sent ack l ends slot entry waits loose single beside => ?_, fun s tel sent ack l ends slot => ?_,
    fun s left => ⟨fun p text wait => ?_, fun e k entry notText wait => ?_⟩⟩
  · obtain ⟨taken, retry, spent⟩ := textEnds ends slot text live
    refine ⟨fun ack => ⟨taken ack, fun one => ⟨_, taken ack, ?_⟩⟩, retry, fun unanswered none_ opened joined served =>
      ⟨_, spent unanswered none_, ?_⟩⟩
    · obtain ⟨read, receive, rfl⟩ := ends_fields ends
      exact textTaken_counts rfl one
    · obtain ⟨read, receive, rfl⟩ := ends_fields ends
      obtain ⟨slot', text', state, count, number, printed, e, mem, content⟩ := exhaustedText_spec
        (s := { s with lu := { s.lu with slot := none, ackRead := read, receive := receive, text := none } })
        opened joined served rfl
      exact ⟨slot', text', state, count, number, printed, e, mem, by rw [content], by rw [content], by rw [content]⟩
  · rw [← live] at ends
    have left := listWithout_none k s
    dsimp only
    rw [← left]
    refine ⟨fun taken stays => ?_, fun taken clear cm clearing => ?_, fun unanswered again =>
      controlRetries ends slot entry other unanswered live beside again⟩
    · have run := controlTaken ends slot entry other taken (.inr stays)
      rwa [beside] at run
    · have run := clearTaken ends slot entry other taken live clear cm clearing
      rw [beside] at run
      refine ⟨_, run, ?_⟩
      obtain ⟨read, receive, rfl⟩ := ends_fields ends
      obtain ⟨idle, _, control, slot', _⟩ := toIdle_ends (s := s) (y := { s with
        lu := { s.lu with slot := none, ackRead := read, receive := receive, control := listWithout k none s } })
        none rfl rfl rfl rfl (by rw [clearing]; decide)
      exact ⟨idle, slot', control⟩
  · rw [← gone] at ends
    refine (exec_textEnds ends slot text).trans (congrArg (fun x => Host.Outcome.next (settle x)) ?_)
    exact textOutcome_withdrawn (s := { s with lu := { l with text := some { p with collisions := 0 } } }) rfl ack gone
  · refine ⟨fun gone => ?_, fun r live beside => ⟨fun taken stays => ?_, fun unanswered =>
      controlRenewed ends slot entry other unanswered live beside⟩, fun unanswered live beside spent => ?_⟩
    · cases taken : ack with
      | true => exact controlTaken (taken ▸ ends) slot entry other rfl (.inl gone)
      | false => exact controlGone (taken ▸ ends) slot entry other rfl gone
    · have run := controlTaken ends slot entry other taken (.inr stays)
      rwa [beside] at run
    · have run := controlExhausted ends slot entry other unanswered live beside spent
      have kind : e.content.kind = k := kind_of_entryOf (l := s.lu) entry
      obtain ⟨read, receive, rfl⟩ := ends_fields ends
      rw [listWithout_none] at run
      have idles (n : Option Notice) (notOpen : s.cm.call.state ≠ .opened) := toIdle_ends (s := s) (y := { s with
        lu := { s.lu with
          slot := none, ackRead := read, receive := receive
          control := s.lu.control.filter fun x => x.content.kind ≠ k } }) n rfl rfl rfl rfl notOpen
      generalize before : ({ s with lu := _ } : State) = y at run idles
      have state : y.cm.call.state = s.cm.call.state := by rw [← before]
      have line : y.lu.control = (s.lu.control.filter fun x => x.content.kind ≠ k) ∧ y.lu.slot = none := by
        rw [← before]; exact ⟨rfl, rfl⟩
      obtain ⟨list, empty⟩ := line
      dsimp only
      refine ⟨fun call cm calling => ⟨_, run, ?_⟩, fun accept cm ringing => ⟨_, run, ?_⟩, fun clear cm clearing => ⟨_, run, ?_⟩,
        fun who cm => run.trans ?_, fun nothing => run.trans ?_⟩
      · obtain ⟨idle, view, control, slot', printed⟩ := idles (some (.noAnswer e.content.destination.toNat))
          (by rw [calling]; decide)
        rw [exhausted_call cm (kind.trans call) (state.trans calling)]
        exact ⟨idle, view, control.trans list, slot'.trans empty, printed⟩
      · obtain ⟨idle, view, control, slot', printed⟩ := idles (some .callFailed) (by rw [ringing]; decide)
        rw [exhausted_accept cm (kind.trans accept) (state.trans ringing)]
        exact ⟨idle, view, control.trans list, slot'.trans empty, printed⟩
      · obtain ⟨idle, view, control, slot', printed⟩ := idles none (by rw [clearing]; decide)
        rw [exhausted_clear cm (kind.trans clear) (state.trans clearing)]
        exact ⟨idle, view, control.trans list, slot'.trans empty, printed⟩
      · rw [exhausted_who cm (kind.trans who), ← before]
      · rw [exhausted_nothing (by rw [kind, state]; exact nothing), ← before]
  · have found : entryOf .clear s.lu = some e := entry
    rw [← slotWithdrawn_control slot entry] at ends
    rw [execAttemptEnd_of_ends slot ends, acted_eq]
    refine congrArg (fun x => Host.Outcome.next (settle x)) ?_
    have list := control_of_ends ends
    have marked : entryOf .clear (mapEntry .clear uncollided l) = some (uncollided e) := by
      obtain ⟨read, receive, rfl⟩ := ends_fields ends
      exact (entryOf_mapEntry .clear (f := uncollided) (fun _ => rfl) _).trans (congrArg (Option.map uncollided) found)
    have outcome := restartClear_outcome (s := { s with lu := mapEntry .clear uncollided l }) (ack := ack) marked
      loose single beside
    have dropped : dropEntry .clear (mapEntry .clear uncollided l) =
        { l with control := s.lu.control.filter fun x => x.content.kind ≠ .clear } := by
      rw [dropEntry_uncollided, ← list]
      rfl
    have waits' : l.restartClear = true := by
      obtain ⟨read, receive, rfl⟩ := ends_fields ends
      exact waits
    rw [← listenAfterAttempt_of_ends ends, ← dropped]
    exact (congrArg (endRestartClear (.control .clear)) outcome).trans (if_pos ⟨waits', rfl⟩)
  · have run := exec_probeEnds ends slot
    obtain ⟨read, receive, line⟩ := ends_fields ends
    refine ⟨fun taken => ?_, fun unanswered few => ?_, fun unanswered third empty => ?_⟩
    · rw [taken] at run
      refine ⟨_, run, ?_⟩
      obtain ⟨lu, _⟩ := settle_enterListenOnly { s with lu := { l with probeCollisions := 0 } }
      have whole : (settle (attemptOutcome .probe true { s with lu := { l with probeCollisions := 0 } })).lu =
        luListenOnly { l with probeCollisions := 0 } := lu
      rw [whole]
      exact ⟨rfl, rfl, rfl, rfl, rfl, by simp [faultLamp, whole, luListenOnly]⟩
    · rw [run, unanswered, line]
      refine congrArg (fun x => Host.Outcome.next (settle x)) ?_
      exact if_pos (Nat.succ_lt_succ few)
    · rw [run, unanswered, line]
      refine congrArg (fun x => Host.Outcome.next (settle x)) ?_
      refine (if_neg (by rw [show ({ s with lu := _ } : State).lu.probeCount = s.lu.probeCount from rfl, third]; decide)).trans ?_
      unfold enterJoined enterRequest
      simp [empty, announcement, answerbackCodes, ControlEntry.fresh, allCall, unshift]
  · exact retryWait_text text wait
  · exact retryWait_control entry notText wait

end Sys2Proof.Machine
end

section
/-!
The Turn and the hand-on of a CALL (R59, R73, R74, R76, R111, R163 to R165).
-/

namespace Sys2Proof.Machine

/-! ### The Turn (R59, R163) -/

theorem outcomeTakes_iff (o : AnswerOutcome) : outcomeTakes o = true ↔ o ≠ .notTaken := by
  cases o <;> simp [outcomeTakes]

theorem turnDecision_call {t : Telegram} {s : State} {w : Fin 8} (takes : takesTelegrams s = true)
    (window : windowFor s t.destination = some w) :
    let o := answerDecision s t.source t.destination w
    turnDecision .call t s = (outcomeTakes o, .call o w s.cm.call.state, s) := by
  simp [turnDecision, takes, isProbe, window]

/-- A CALL to this station's own number is answered, if only by a REFUSE (R163). -/
theorem answerDecision_own (s : State) (n : Station) (w : Fin 8) :
    answerDecision s n (addrOf s.cl.station) w ≠ .notTaken := by
  have own : decide (addrOf s.cl.station = ownAddr s) = true := decide_eq_true rfl
  simp only [answerDecision, own, true_and, if_true]
  cases s.au.attendance with
  | attended => dsimp only; split_ifs <;> decide
  | unattended =>
    cases unattendedTest s with
    | none => dsimp only; split_ifs <;> decide
    | some r => dsimp only; split_ifs <;> exact fun no => nomatch no

/-- A CALL to a group is joined, or it is not taken (R163). -/
theorem answerDecision_group {s : State} {d : Addr} (group : 32 ≤ d.toNat) (n : Station) (w : Fin 8) :
    answerDecision s n d w = .memberJoin ∨ answerDecision s n d w = .notTaken := by
  have other : d ≠ ownAddr s := by
    unfold ownAddr addrOf
    intro own
    have := s.cl.station.isLt
    bv_omega
  unfold answerDecision
  simp only [other, decide_false, Bool.false_eq_true, false_and, if_false]
  split_ifs <;> simp

/-- The LU has no part in the decision (R163). -/
theorem answerDecision_lu (l : LineUnit) (s : State) (n : Station) (d : Addr) (w : Fin 8) :
    answerDecision { s with lu := l } n d w = answerDecision s n d w := rfl

theorem exec_callTurn {s : State} {t : Telegram} {w : Fin 8} (waits : awaitsTurn s) (whole : unbroken (framedUnits t) s)
    (kind : validKind t = some .call) (joined : s.lu.joinState = .joined) (clear : s.lu.condition = .clear)
    (window : windowFor s t.destination = some w) :
    let o := answerDecision s t.source t.destination w
    exec (.telegramTurn t) s = .next (settle (framedAs t [] (outcomeTakes o) (.call o w s.cm.call.state) s)) := by
  have takes : takesTelegrams (countUnits (framedUnits t) s) = true := by simp [takesTelegrams, countUnits, joined, clear]
  have window' : windowFor (countUnits (framedUnits t) s) t.destination = some w := window
  have same : answerDecision (countUnits (framedUnits t) s) t.source t.destination w =
      answerDecision s t.source t.destination w := answerDecision_lu _ s _ _ _
  have state : (countUnits (framedUnits t) s).cm.call.state = s.cm.call.state := rfl
  have decided := turnDecision_call takes window'
  dsimp only at decided ⊢
  rw [same, state] at decided
  have run : telegramRun s .call t = [] := rfl
  rw [telegramTurn_plain waits whole kind decided, run]

/-! ### This station's own CALL (R74) -/

section
variable {s : State} {f : Framed} {w : Bool} {slot : SlotUnits} (receive : s.lu.receive = .framing true w (some f))
  (kind : validKind f.telegram = some .call) (unread : s.lu.ackRead = none) (joined : s.lu.joinState = .joined)
  (whole : unbroken (turnUnits slot) s)
include receive kind unread joined whole

/-- The call's part of the hand-on alone, over `handedBase`: a CALL frees no view (R68). -/
theorem exec_ownCall :
    exec (.telegramHandOn slot) s =
      .next (settle (ownCall
        ⟨.call, f.telegram, f.run, heldSpace slot, true, w || slotWithdrawn s, f.taken, f.result⟩
        (handedBase true slot .call f s))) := by
  have own := execTelegramHandOn_own receive kind joined whole
  have free : freesView s.cm.view (handedBase true slot .call f s).cm.view = false := not_freesView_call rfl
  dsimp only at own
  rw [free, unread] at own
  exact own.trans rfl

theorem exec_ownCall_unanswered (unanswered : heldSpace slot = false) :
    exec (.telegramHandOn slot) s = .next (settle (handedBase true slot .call f s)) := by
  rw [exec_ownCall receive kind unread joined whole, unanswered]
  rfl

theorem exec_ownCall_withdrawn (taken : heldSpace slot = true) (gone : w = true ∨ slotWithdrawn s = true)
    (served : s.lu.restartClear = false) :
    let b := handedBase true slot .call f s
    exec (.telegramHandOn slot) s =
      .next (settle
        { b with
          lu := enterRequest ⟨.clear, f.telegram.destination, [0], .cmNoOutcome, s.cl.config.retryLimit⟩ b.lu }) := by
  have gone' : (w || slotWithdrawn s) = true := Bool.or_eq_true_iff.mpr gone
  rw [exec_ownCall receive kind unread joined whole, taken, gone']
  refine congrArg (fun x => Host.Outcome.next (settle x)) ?_
  exact requestOrDrop_entered (s := handedBase true slot .call f s) (enters_of joined served)

theorem exec_ownCall_answered (taken : heldSpace slot = true) (stays : ¬ (w = true ∨ slotWithdrawn s = true))
    (calling : s.cm.call.state = .calling) :
    let b := handedBase true slot .call f s
    exec (.telegramHandOn slot) s =
      .next (settle (if isGroup f.telegram.destination then enterOpen b else ringView (setCallState .awaiting b))) := by
  have stays' : (w || slotWithdrawn s) = false := Bool.eq_false_iff.mpr fun gone => stays (Bool.or_eq_true_iff.mp gone)
  rw [exec_ownCall receive kind unread joined whole, taken, stays']
  refine congrArg (fun x => Host.Outcome.next (settle x)) ?_
  exact if_pos (show (handedBase true slot .call f s).cm.call.state = .calling from calling)

end

/-- The caller of a call that opens: sequences and holds reset, the view its own, and CALL OPEN (R70, R78). -/
theorem enterOpen_caller {s : State} (caller : s.cm.call.role = some .caller) :
    let u := enterOpen s
    u.cm.call.state = .opened ∧ u.cm.view = ⟨.engaged, some s.cl.station, some s.cm.call.callAddr, none, some (sec 120)⟩
      ∧ u.cm.call.sendSeq = 1 ∧ u.cm.call.recvSeq = 0 ∧ u.cm.call.holdSet = [] ∧ u.ku.fifo = s.ku.fifo := by
  have opens : enterOpen s = notice (.callOpen (partyNumber s)) (engageView (openFields (setCallState .opened s))) := by
    have role : (engageView (openFields (setCallState .opened s))).cm.call.role = some .caller := caller
    have kept : (notice (.callOpen (partyNumber s)) (engageView (openFields (setCallState .opened s)))).cm.call.role =
        some .caller := (notice_told (fun u => u.cm.call.role) (fun _ => rfl) _ _).trans caller
    have number : partyNumber (engageView (openFields (setCallState .opened s))) = partyNumber s := rfl
    unfold enterOpen
    dsimp only
    have notMember : ¬ (engageView (openFields (setCallState .opened s))).cm.call.role = some .member := by
      rw [role]; decide
    rw [if_neg notMember, number, kept, if_neg fun asks => nomatch asks.1]
  have view : (engageView (openFields (setCallState .opened s))).cm.view =
      ⟨.engaged, some s.cl.station, some s.cm.call.callAddr, none, some (sec 120)⟩ := by
    simp [engageView, openFields, clearHolds, setCallState, viewCaller, caller]
  dsimp only
  rw [opens]
  have keeps {α : Type} (g : State → α) (hidden : ∀ u, g (eventCore u) = g u) :=
    notice_told g hidden (.callOpen (partyNumber s)) (engageView (openFields (setCallState .opened s)))
  exact ⟨keeps (fun u => u.cm.call.state) fun _ => rfl, (keeps (fun u => u.cm.view) fun _ => rfl).trans view,
    keeps (fun u => u.cm.call.sendSeq) fun _ => rfl, keeps (fun u => u.cm.call.recvSeq) fun _ => rfl,
    keeps (fun u => u.cm.call.holdSet) fun _ => rfl, keeps (fun u => u.ku.fifo) fun _ => rfl⟩

/-- A member of a call that opens: nothing is printed, and no WHO is asked for (R78, R167). -/
theorem enterOpen_member {s : State} (member : s.cm.call.role = some .member) :
    enterOpen s = engageView (openFields (setCallState .opened s)) := by
  have role : (engageView (openFields (setCallState .opened s))).cm.call.role = some .member := member
  unfold enterOpen
  dsimp only
  rw [if_pos role, role, if_neg fun asks => nomatch asks.1]

/-- The caller of a call that waits for its answer (R70, R74). -/
theorem ringView_awaiting {s : State} (caller : s.cm.call.role = some .caller) :
    ∃ t, settle (ringView (setCallState .awaiting s)) = t ∧ t.cm.call = { s.cm.call with state := .awaiting }
      ∧ t.cm.view = ⟨.ringing, some s.cl.station, some s.cm.call.callAddr, some (sec 40), none⟩
      ∧ t.lu.control = s.lu.control ∧ t.cs = s.cs := by
  obtain ⟨m, settled⟩ := settle_of_not_open (s := ringView (setCallState .awaiting s))
    (show CallState.awaiting ≠ .opened by decide)
  refine ⟨_, settled, rfl, ?_, rfl, rfl⟩
  simp [ringView, setCallState, viewCaller, caller]

/-! ### Dialing undone (R76, R111) -/

/-- With no call open, a notice changes the store alone (R109, R134). -/
theorem notice_of_noCall (n : Notice) {s : State} (notOpen : s.cm.call.state ≠ .opened) :
    notice n s = { s with cs := told n s } := by
  rcases notice_eq_told n s with same | tested
  · exact same
  · exact tested.trans (flowTest_of_not_open notOpen)

/-- Where a CALL taken finds the record (R76). -/
def atHandOn (s : State) : Prop :=
  s.cm.call.state = .calling ∨ s.cm.call.state = .dialing ∨ s.cm.call.state = .idle

theorem atHandOn.not {s : State} (stands : atHandOn s) {c : CallState} (notCalling : c ≠ .calling) (notDialing : c ≠ .dialing)
    (notIdle : c ≠ .idle) : s.cm.call.state ≠ c := by
  rcases stands with calling | dialing | idle
  · rw [calling]; exact notCalling.symm
  · rw [dialing]; exact notDialing.symm
  · rw [idle]; exact notIdle.symm

theorem undoDialing_eq {s : State} (notOpen : s.cm.call.state ≠ .opened) :
    ∃ c, undoDialing s = { s with lu := withdraw .call s.lu, ku.dial := [], cs := c } :=
  ⟨_, notice_of_noCall .dialingAbandoned (s := { s with lu := withdraw .call s.lu, ku.dial := [] }) notOpen⟩

theorem enters_withdraw (k : Kind) (l : LineUnit) : entersRequests (withdraw k l) = entersRequests l := rfl

/-! ### The outcome applied (R76, R163, R165) -/

theorem setCallState_ringing {s : State} (notRinging : s.cm.call.state ≠ .ringing) :
    setCallState .ringing s =
      { s with
        cm.call.state := .ringing
        ku.retryDue := s.ku.retryDue || s.ku.headWaiting
        mt.flash := some ⟨true, ms 500⟩ } := by
  simp [setCallState, notRinging, notRinging.symm]

theorem setCallState_opened {s : State} (notOpen : s.cm.call.state ≠ .opened) :
    setCallState .opened s =
      { s with
        cm.call.state := .opened
        ku.retryDue := s.ku.retryDue || s.ku.headWaiting
        au.ring := .none
        au.ringTimer := none
        mt.cadence := none
        mt.flash := none } := by
  simp [setCallState, notOpen.symm]

/-- The record of a call to this station (R71, R76). -/
def calledRecord (st : CallState) (role : Role) (a : Answer) (t : Telegram) (w : Fin 8) (s : State) : CallRecord :=
  { s.cm.call with
    state := st, role := some role, callAddr := t.destination, partyAddr := addrOf t.source
    partyStation := some t.source, route := s.cl.config.windows[w].route, window := w, answer := a
    answerback := none, fileLink := none, readerLink := false }

/-- The line view of a call to this station that is not open (R70). -/
def ringingView (t : Telegram) : LineView := ⟨.ringing, some t.source, some t.destination, some (sec 40), none⟩

section
variable {s : State} (stands : atHandOn s) (t : Telegram) (w : Fin 8) (undone : Bool)
include stands

theorem enterRinging_eq :
    enterRinging t w s =
      { s with
        cm := { s.cm with view := ringingView t, call := calledRecord .ringing .called .none t w s }
        ku.retryDue := s.ku.retryDue || s.ku.headWaiting
        mt.flash := some ⟨true, ms 500⟩ } := by
  have notRinging : s.cm.call.state ≠ .ringing := stands.not (by decide) (by decide) (by decide)
  rw [enterRinging, setCallState_ringing (s := setCalled .called t.source t.destination w s) notRinging]
  rfl

theorem applyOutcome_ring :
    applyOutcome .ring w t undone s =
      { s with
        cm := { s.cm with view := ringingView t, call := calledRecord .ringing .called .none t w s }
        ku.retryDue := s.ku.retryDue || s.ku.headWaiting
        au.ring := .ringing
        au.ringTimer := some (sec 25)
        mt.cadence := some ⟨true, sec 1⟩
        mt.flash := some ⟨true, ms 500⟩ } :=
  congrArg beginRinging (enterRinging_eq stands t w)

/-- An ACCEPT queued for a record that rings, by the decision or in glare. -/
theorem answerAccept_ringing (auto : Bool) (enters : entersRequests s.lu = true) :
    answerAccept (setAutoAnswered auto (enterRinging t w s)) =
      { s with
        lu := enterRequest ⟨.accept, addrOf t.source, [], .cm, s.cl.config.retryLimit⟩ s.lu
        cm := { s.cm with view := ringingView t, call := calledRecord .ringing .called .acceptSent t w s }
        ku.retryDue := s.ku.retryDue || s.ku.headWaiting
        au.autoAnswered := auto
        mt.flash := some ⟨true, ms 500⟩ } := by
  rw [enterRinging_eq stands t w, answerAccept]
  exact sendRequest_state enters

theorem applyOutcome_memberJoin :
    applyOutcome .memberJoin w t undone s =
      { s with
        cm := { s.cm with
          view := ⟨.engaged, some t.source, some t.destination, none, some (sec 120)⟩
          call := { calledRecord .opened .member .none t w s with
            sendSeq := 1, recvSeq := 0, holdSet := [], heldByMe := false, heldSince := none } }
        ku.retryDue := s.ku.retryDue || s.ku.headWaiting
        au.ring := .none
        au.ringTimer := none
        au.autoAnswered := false
        mt.cadence := none
        mt.flash := none } := by
  have notOpen : s.cm.call.state ≠ .opened := stands.not (by decide) (by decide) (by decide)
  rw [applyOutcome, enterOpen_member rfl, setCallState_opened
    (s := setAutoAnswered false (setCalled .member t.source t.destination w s)) notOpen]
  rfl

end

/-- A REFUSE leaves a record in IDLE, and one whose dialing is not undone (R76). -/
theorem applyOutcome_refuse {s : State} {r : Reason} {w : Fin 8} {t : Telegram} {undone : Bool}
    (stays : undone = false ∨ s.cm.call.state = .idle) (enters : entersRequests s.lu = true) :
    applyOutcome (.refuse r) w t undone s =
      { s with
        lu := enterRequest ⟨.refuse, addrOf t.source, [reasonCode r], .cmNoOutcome, s.cl.config.retryLimit⟩ s.lu
        au.autoAnswered := false } := by
  have same : (undone && decide ((setAutoAnswered false s).cm.call.state ≠ .idle)) = false := by
    rcases stays with kept | idle
    · rw [kept]; rfl
    · rw [decide_eq_false (not_not.mpr (show (setAutoAnswered false s).cm.call.state = .idle from idle)), Bool.and_false]
  rw [applyOutcome, refuseCall, same]
  exact requestOrDrop_entered (s := setAutoAnswered false s) enters

/-- The AU, told of IDLE, clears its flag (R167). -/
theorem toIdle_autoAnswered (filed : Bool) (n : Option Notice) (s : State) :
    (toIdle filed n s).au.autoAnswered = false := (TestsKeep.tellIdle _).autoAnswered

/-- A REFUSE takes a record whose dialing is undone to IDLE (R76). -/
theorem applyOutcome_refuse_undone {s : State} {r : Reason} {w : Fin 8} {t : Telegram} (dials : s.cm.call.state ≠ .idle)
    (notOpen : s.cm.call.state ≠ .opened) (enters : entersRequests s.lu = true) :
    let u := applyOutcome (.refuse r) w t true s
    u.cm = { s.cm with call.state := .idle } ∧ callCore u = callCore s ∧ u.au.autoAnswered = false
      ∧ u.lu = enterRequest ⟨.refuse, addrOf t.source, [reasonCode r], .cmNoOutcome, s.cl.config.retryLimit⟩ s.lu := by
  have goes : (true && decide ((setAutoAnswered false s).cm.call.state ≠ .idle)) = true := by
    rw [decide_eq_true (show (setAutoAnswered false s).cm.call.state ≠ .idle from dials)]; rfl
  have asked := requestOrDrop_entered (r := ⟨.refuse, addrOf t.source, [reasonCode r], .cmNoOutcome, s.cl.config.retryLimit⟩)
    (s := setAutoAnswered false s) enters
  have core := callCore_applyOutcome (.refuse r) w t true s
  dsimp only
  have acts : applyOutcome (.refuse r) w t true s =
      toIdle false none
        { setAutoAnswered false s with
          lu := enterRequest ⟨.refuse, addrOf t.source, [reasonCode r], .cmNoOutcome, s.cl.config.retryLimit⟩ s.lu } := by
    rw [applyOutcome, refuseCall, goes, if_pos rfl]
    exact congrArg (toIdle false none) asked
  rw [acts] at core ⊢
  obtain ⟨cm, lu, _⟩ := toIdle_of_not_open false none (s := { setAutoAnswered false s with
    lu := enterRequest ⟨.refuse, addrOf t.source, [reasonCode r], .cmNoOutcome, s.cl.config.retryLimit⟩ s.lu }) notOpen
  exact ⟨cm, core, toIdle_autoAnswered _ _ _, lu⟩

/-- What the outcomes that put a record in a call make of `v`, for the record of `s` (R76, R163, R165). -/
def Answers (s v : State) (o : AnswerOutcome) (w : Fin 8) (t : Telegram) (x : Result) : Prop :=
  (o = .ring →
    x = .next (settle
      { v with
        cm := { v.cm with view := ringingView t, call := calledRecord .ringing .called .none t w s }
        ku.retryDue := s.ku.retryDue || s.ku.headWaiting
        au.ring := .ringing
        au.ringTimer := some (sec 25)
        mt.cadence := some ⟨true, sec 1⟩
        mt.flash := some ⟨true, ms 500⟩ }))
    ∧ (o = .accept →
      x = .next (settle
        { v with
          lu := enterRequest ⟨.accept, addrOf t.source, [], .cm, s.cl.config.retryLimit⟩ v.lu
          cm := { v.cm with view := ringingView t, call := calledRecord .ringing .called .acceptSent t w s }
          ku.retryDue := s.ku.retryDue || s.ku.headWaiting
          au.autoAnswered := true
          mt.flash := some ⟨true, ms 500⟩ }))
    ∧ (o = .memberJoin →
      x = .next (settle
        { v with
          cm := { v.cm with
            view := ⟨.engaged, some t.source, some t.destination, none, some (sec 120)⟩
            call := { calledRecord .opened .member .none t w s with
              sendSeq := 1, recvSeq := 0, holdSet := [], heldByMe := false, heldSince := none } }
          ku.retryDue := s.ku.retryDue || s.ku.headWaiting
          au.ring := .none
          au.ringTimer := none
          au.autoAnswered := false
          mt.cadence := none
          mt.flash := none }))

theorem answers_of_runs {s v : State} {o : AnswerOutcome} {w : Fin 8} {t : Telegram} {undone : Bool} {x : Result}
    (stands : atHandOn v) (enters : entersRequests v.lu = true)
    (due : v.ku.retryDue = s.ku.retryDue) (waits : v.ku.headWaiting = s.ku.headWaiting) (call : v.cm.call = s.cm.call)
    (cl : v.cl = s.cl) (runs : o ≠ .notTaken → x = .next (settle (applyOutcome o w t undone v))) :
    Answers s v o w t x := by
  unfold Answers
  have record (st : CallState) (role : Role) (a : Answer) : calledRecord st role a t w s = calledRecord st role a t w v := by
    unfold calledRecord
    rw [call, cl]
  simp only [record, ← due, ← waits, ← cl]
  refine ⟨fun ring => ?_, fun accept => ?_, fun join => ?_⟩
  · rw [runs (by rw [ring]; decide), ring, applyOutcome_ring stands]
  · rw [runs (by rw [accept]; decide), accept]
    exact congrArg (fun y => Host.Outcome.next (settle y)) (answerAccept_ringing stands t w true enters)
  · rw [runs (by rw [join]; decide), join, applyOutcome_memberJoin stands]

/-! ### A CALL heard, at its hand-on (R73, R76) -/

theorem appliesTo_of_atHandOn {s : State} (o : AnswerOutcome) (stands : atHandOn s) :
    appliesTo o s.cm.call.state = true := by
  rcases stands with calling | dialing | idle
  · rw [calling]; cases o <;> rfl
  · rw [dialing]; cases o <;> rfl
  · rw [idle]; cases o <;> rfl

theorem takenCall_of_applies {o : AnswerOutcome} {w : Fin 8} {was : CallState} {t : Telegram} {s : State}
    (applies : appliesTo o s.cm.call.state = true) :
    takenCall o w was t s =
      if dialingToUndo o was s then applyOutcome o w t true (undoDialing s) else applyOutcome o w t false s := if_pos applies

/-- Glare undoes the dialing that it finds (R76, log 32). -/
theorem dialingToUndo_glare {s : State} (dialing : s.cm.call.state = .dialing) (was : CallState) :
    dialingToUndo .glare was s = true := by
  cases was <;> simp [dialingToUndo, dials, dialing]

/-- The dialing that any outcome undoes: that of the Turn, and that begun since on a record then IDLE (R76, R111). -/
def Undone (was : CallState) (s : State) : Prop :=
  was = .dialing ∧ (s.cm.call.state = .idle ∨ s.cm.call.state = .dialing ∨ s.cm.call.state = .calling)
    ∨ was = .idle ∧ (s.cm.call.state = .dialing ∨ s.cm.call.state = .calling)

theorem dialingToUndo_of_not {s : State} {was : CallState} {o : AnswerOutcome} (notGlare : o ≠ .glare)
    (kept : ¬ Undone was s) : dialingToUndo o was s = false :=
  Bool.eq_false_iff.mpr fun undone => kept ((dialingToUndo_iff notGlare).mp undone)

/-- Such dialing is undone for any outcome (R76, R111). -/
theorem dialingToUndo_of {s : State} {was : CallState} (undone : Undone was s) (o : AnswerOutcome) :
    dialingToUndo o was s = true := by
  rcases undone with ⟨rfl, now⟩ | ⟨rfl, now⟩
  · simpa [dialingToUndo, dials] using now
  · simpa [dialingToUndo, dials] using now

/-- A record in IDLE has no dialing to undo, if it was not DIALING at the Turn (R76). -/
theorem dialingToUndo_idle {s : State} {was : CallState} (o : AnswerOutcome) (idle : s.cm.call.state = .idle)
    (notDialing : was ≠ .dialing) : dialingToUndo o was s = false := by
  cases was with
  | dialing => exact absurd rfl notDialing
  | idle | calling | awaiting | ringing | opened | clearing => simp [dialingToUndo, dials, idle]

theorem refuse_takes {o : AnswerOutcome} {r : Reason} (refuse : o = .refuse r) : o ≠ .notTaken ∧ o ≠ .glare := by
  rw [refuse]
  exact ⟨(fun no => nomatch no), fun no => nomatch no⟩

/-- An attempt overtaken: the record is IDLE, and its CALL withdrawn (R73). -/
theorem overtaken_spec {s : State} (notOpen : s.cm.call.state ≠ .opened) :
    (overtaken s).cm = { s.cm with call.state := .idle } ∧ (overtaken s).lu = withdraw .call s.lu := by
  obtain ⟨cm, lu, _⟩ := toIdle_of_not_open (s := { s with lu := withdraw .call s.lu }) false (some .lineEngaged) notOpen
  exact ⟨cm, lu⟩

/-- A CALL acknowledged takes a view that is FREE (R68, R73). -/
theorem takesView_of_acknowledged {v : LineView} {h : Handed} (free : v.state = .free) (call : h.kind = .call)
    (acknowledged : h.ack = true) : takesView v (viewAfter v h) = true := by
  rw [viewAfter_free free, if_pos ⟨call, acknowledged⟩]
  unfold takesView
  split_ifs <;> simp [free]

/-- Where dialing is undone, the record stands where a CALL taken finds it (R76). -/
theorem atHandOn_of_undone {s : State} {was : CallState} (undone : Undone was s) : atHandOn s := by
  unfold Undone at undone
  unfold atHandOn
  tauto

/-- Another station's CALL as it stands framed, decided at its Turn. -/
abbrev callFramed (t : Telegram) (run : List Resolved) (o : AnswerOutcome) (w : Fin 8) (was : CallState) : Framed :=
  ⟨t, run, decide (o ≠ .notTaken), .call o w was⟩

section
variable {s : State} {t : Telegram} {run : List Resolved} {o : AnswerOutcome} {w : Fin 8} {was : CallState}
  {slot : SlotUnits} (receive : s.lu.receive = .framing false false (some (callFramed t run o w was)))
  (kind : validKind t = some .call) (joined : s.lu.joinState = .joined) (other : t.source ≠ s.cl.station)
  (whole : unbroken (turnUnits slot) s)
include receive kind joined other whole

theorem exec_heardCall :
    exec (.telegramHandOn slot) s =
      let h : Handed := ⟨.call, t, run, heldSpace slot || decide (o ≠ .notTaken), false, false, decide (o ≠ .notTaken),
        .call o w was⟩
      let b := handedBase false slot .call (callFramed t run o w was) s
      .next (settle (heardCall (takesView s.cm.view b.cm.view) h b)) := by
  have heard := execTelegramHandOn_heard receive kind joined other whole
  have free : freesView s.cm.view (handedBase false slot .call (callFramed t run o w was) s).cm.view = false :=
    not_freesView_call rfl
  dsimp only at heard ⊢
  rw [free] at heard
  exact heard.trans rfl

/-- A CALL taken that does not overtake this station's attempt goes by its outcome (R73, R76). -/
theorem exec_callTaken (takes : o ≠ .notTaken)
    (spared : s.cm.call.state = .calling → s.cm.view.state = .free → o = .glare ∨ dialingToUndo o was s = true) :
    exec (.telegramHandOn slot) s =
      .next (settle (takenCall o w was t (handedBase false slot .call (callFramed t run o w was) s))) :=
  execTelegramHandOn_takenCall receive kind joined other whole (decide_eq_true takes) rfl spared

theorem exec_callUndone (takes : o ≠ .notTaken) (stands : atHandOn s) (undone : dialingToUndo o was s = true) :
    exec (.telegramHandOn slot) s =
      .next (settle (applyOutcome o w t true (undoDialing (handedBase false slot .call (callFramed t run o w was) s)))) := by
  have undo : dialingToUndo o was (handedBase false slot .call (callFramed t run o w was) s) = true := undone
  rw [exec_callTaken receive kind joined other whole takes fun _ _ => .inr undone,
    takenCall_of_applies (s := handedBase false slot .call (callFramed t run o w was) s) (appliesTo_of_atHandOn o stands),
    if_pos undo]

theorem exec_callKept (takes : o ≠ .notTaken) (applies : appliesTo o s.cm.call.state = true)
    (kept : dialingToUndo o was s = false)
    (spared : s.cm.call.state = .calling → s.cm.view.state = .free → o = .glare) :
    exec (.telegramHandOn slot) s =
      .next (settle (applyOutcome o w t false (handedBase false slot .call (callFramed t run o w was) s))) := by
  have keep : dialingToUndo o was (handedBase false slot .call (callFramed t run o w was) s) = false := kept
  rw [exec_callTaken receive kind joined other whole takes fun calling free => .inl (spared calling free),
    takenCall_of_applies (s := handedBase false slot .call (callFramed t run o w was) s) applies,
    if_neg (by rw [keep]; decide)]

theorem answers_undone (served : s.lu.restartClear = false)
    (undone : Undone was s) :
    Answers s (undoDialing (handedBase false slot .call (callFramed t run o w was) s)) o w t
      (exec (.telegramHandOn slot) s) := by
  have stands := atHandOn_of_undone undone
  have notOpen : s.cm.call.state ≠ .opened := stands.not (by decide) (by decide) (by decide)
  have runs (takes : o ≠ .notTaken) := exec_callUndone receive kind joined other whole takes stands (dialingToUndo_of undone o)
  obtain ⟨c, undo⟩ := undoDialing_eq (s := handedBase false slot .call (callFramed t run o w was) s) notOpen
  rw [undo] at runs ⊢
  exact answers_of_runs stands (enters_of joined served) rfl rfl rfl rfl runs

/-- A CALL that is not taken changes nothing of a record that does not wait to place its own (R73). -/
theorem exec_callNotTaken (gone : o = .notTaken) (notCalling : s.cm.call.state ≠ .calling) :
    exec (.telegramHandOn slot) s = .next (settle (handedBase false slot .call (callFramed t run o w was) s)) := by
  have still : decide ((handedBase false slot .call (callFramed t run o w was) s).cm.call.state = .calling) = false :=
    decide_eq_false notCalling
  rw [exec_heardCall receive kind joined other whole]
  dsimp only
  rw [heardCall, still, Bool.and_false, Bool.false_and, decide_eq_false (not_not.mpr gone)]
  rfl

/-- A CALL that takes the view and spares no attempt overtakes this station's (R73). -/
theorem exec_callOvertakes (calling : s.cm.call.state = .calling) (free : s.cm.view.state = .free)
    (acknowledged : (heldSpace slot || decide (o ≠ .notTaken)) = true)
    (spares : o ≠ .notTaken → o ≠ .glare ∧ dialingToUndo o was s = false) :
    let x := overtaken (handedBase false slot .call (callFramed t run o w was) s)
    exec (.telegramHandOn slot) s =
      .next (settle (if o = .notTaken then x else takenCall o w was t x)) := by
  have takes : takesView s.cm.view (handedBase false slot .call (callFramed t run o w was) s).cm.view = true :=
    takesView_of_acknowledged free rfl acknowledged
  have attempt : decide ((handedBase false slot .call (callFramed t run o w was) s).cm.call.state = .calling) = true :=
    decide_eq_true calling
  rw [exec_heardCall receive kind joined other whole]
  dsimp only
  rw [heardCall, takes, attempt]
  by_cases gone : o = .notTaken
  · rw [if_pos gone, decide_eq_false (not_not.mpr gone)]
    rfl
  · obtain ⟨notGlare, kept⟩ := spares gone
    rw [if_neg gone, decide_eq_true gone]
    cases o with
    | glare => exact absurd rfl notGlare
    | notTaken => exact absurd rfl gone
    | ring | accept | refuse | memberJoin =>
      refine congrArg (fun x => Host.Outcome.next (settle (takenCall _ w was t x))) (if_pos ?_)
      exact congrArg not kept

/-- In glare the other's CALL is accepted, and this station's withdrawn (R76). -/
theorem exec_callGlare (glare : o = .glare) (stands : atHandOn s) (served : s.lu.restartClear = false) :
    let b := handedBase false slot .call (callFramed t run o w was) s
    ∃ u, exec (.telegramHandOn slot) s = .next u ∧ u.cm.call = calledRecord .ringing .called .acceptSent t w s
      ∧ u.cm.view = ringingView t ∧ u.au.autoAnswered = false ∧ (s.cm.call.state = .dialing → u.ku.dial = [])
      ∧ u.lu.control =
          (enterRequest ⟨.accept, addrOf t.source, [], .cm, s.cl.config.retryLimit⟩ (withdraw .call b.lu)).control := by
  have takes : o ≠ .notTaken := by rw [glare]; decide
  have notOpen : s.cm.call.state ≠ .opened := stands.not (by decide) (by decide) (by decide)
  dsimp only
  generalize base : handedBase false slot .call (callFramed t run o w was) s = b
  have runs : ∃ undone l d c, exec (.telegramHandOn slot) s =
        .next (settle (applyOutcome .glare w t undone { b with lu := l, ku.dial := d, cs := c }))
      ∧ withdraw .call l = withdraw .call b.lu ∧ (s.cm.call.state = .dialing → d = []) := by
    cases undone : dialingToUndo o was s with
    | true =>
      obtain ⟨c, undo⟩ := undoDialing_eq (s := b) (by rw [← base]; exact notOpen)
      refine ⟨true, _, _, c, ?_, withdraw_withdraw .call b.lu, fun _ => rfl⟩
      rw [exec_callUndone receive kind joined other whole takes stands undone, base, undo, glare]
    | false =>
      refine ⟨false, b.lu, b.ku.dial, b.cs, ?_, rfl, fun dialing => ?_⟩
      · rw [exec_callKept receive kind joined other whole takes (appliesTo_of_atHandOn o stands) undone fun _ _ => glare,
          base, glare]
      · exact absurd (dialingToUndo_glare dialing was) (by rw [← glare, undone]; decide)
  obtain ⟨undone, l, d, c, run, withdrawn, empties⟩ := runs
  have accepts := answerAccept_ringing (s := { b with lu := withdraw .call l, ku.dial := d, cs := c })
    (by rw [← base]; exact stands) t w false (by rw [withdrawn, ← base]; exact enters_of joined served)
  refine ⟨_, run.trans (congrArg (fun x => Host.Outcome.next (settle x)) accepts), ?_⟩
  rw [settle_call, settle_view, settle_au, settle_ku, settle_control, withdrawn, ← base]
  exact ⟨rfl, rfl, rfl, empties, rfl⟩

/-! A REFUSE, by what the decision finds at the hand-on (R73, R76). -/

section
variable {r : Reason} (refuse : o = .refuse r) (served : s.lu.restartClear = false)
include refuse served

theorem exec_callRefused_undone_idle
    (undone : Undone was s) (idle : s.cm.call.state = .idle) :
    let v := undoDialing (handedBase false slot .call (callFramed t run o w was) s)
    exec (.telegramHandOn slot) s =
      .next (settle
        { v with
          lu := enterRequest ⟨.refuse, addrOf t.source, [reasonCode r], .cmNoOutcome, s.cl.config.retryLimit⟩ v.lu
          au.autoAnswered := false }) := by
  have acts := exec_callUndone receive kind joined other whole (refuse_takes refuse).1 (.inr (.inr idle))
    (dialingToUndo_of undone o)
  dsimp only
  generalize base : handedBase false slot .call (callFramed t run o w was) s = b at acts ⊢
  have idle' : b.cm.call.state = .idle := by rw [← base]; exact idle
  obtain ⟨c, undo⟩ := undoDialing_eq (s := b) (by rw [idle']; decide)
  have limit : (undoDialing b).cl = s.cl := by rw [undo, ← base]; rfl
  rw [refuse, applyOutcome_refuse (.inr (by rw [undo]; exact idle'))
    (by rw [undo, ← base]; exact enters_of joined served)] at acts
  rw [← limit]
  exact acts

theorem exec_callRefused_undone_moved
    (undone : Undone was s) (dials : s.cm.call.state ≠ .idle) :
    let b := handedBase false slot .call (callFramed t run o w was) s
    ∃ u, exec (.telegramHandOn slot) s = .next u ∧ u.cm.call = { s.cm.call with state := .idle }
      ∧ u.ku.dial = [] ∧ u.cm.view = b.cm.view
      ∧ u.lu.control =
          (enterRequest ⟨.refuse, addrOf t.source, [reasonCode r], .cmNoOutcome, s.cl.config.retryLimit⟩
            (undoDialing b).lu).control
      ∧ u.au.autoAnswered = false := by
  have stands := atHandOn_of_undone undone
  have notOpen : s.cm.call.state ≠ .opened := stands.not (by decide) (by decide) (by decide)
  have acts := exec_callUndone receive kind joined other whole (refuse_takes refuse).1 stands (dialingToUndo_of undone o)
  dsimp only
  generalize base : handedBase false slot .call (callFramed t run o w was) s = b at acts ⊢
  have call : b.cm.call = s.cm.call := by rw [← base]; rfl
  obtain ⟨c, undo⟩ := undoDialing_eq (s := b) (by rw [call]; exact notOpen)
  have kept : (undoDialing b).cm = b.cm := by rw [undo]
  have limit : (undoDialing b).cl = s.cl := by rw [undo, ← base]; rfl
  have dial : (undoDialing b).ku.dial = [] := by rw [undo]
  obtain ⟨cm, core, auto, line⟩ := applyOutcome_refuse_undone (s := undoDialing b) (r := r) (w := w) (t := t)
    (by rw [kept, call]; exact dials) (by rw [kept, call]; exact notOpen)
    (by rw [undo, ← base]; exact enters_of joined served)
  have emptied := (ku_of_callCore core).2.2.2.2.2.2
  rw [refuse] at acts
  refine ⟨_, acts, ?_⟩
  rw [settle_call, settle_view, settle_au, settle_ku, settle_control, cm, line, emptied, limit, dial, kept]
  exact ⟨congrArg (fun x : CallRecord => { x with state := .idle }) call, rfl, rfl, rfl, auto⟩

theorem exec_callRefused_kept (kept : dialingToUndo o was s = false)
    (spared : s.cm.call.state = .calling → s.cm.view.state ≠ .free) :
    let b := handedBase false slot .call (callFramed t run o w was) s
    exec (.telegramHandOn slot) s =
      .next (settle
        { b with
          lu := enterRequest ⟨.refuse, addrOf t.source, [reasonCode r], .cmNoOutcome, s.cl.config.retryLimit⟩ b.lu
          au.autoAnswered := false }) := by
  have acts := exec_callKept receive kind joined other whole (refuse_takes refuse).1 (by rw [refuse]; rfl) kept
    fun calling free => absurd free (spared calling)
  dsimp only
  generalize base : handedBase false slot .call (callFramed t run o w was) s = b at acts ⊢
  have limit : b.cl = s.cl := by rw [← base]; rfl
  rw [refuse, applyOutcome_refuse (.inl rfl) (by rw [← base]; exact enters_of joined served)] at acts
  rw [← limit]
  exact acts

theorem exec_callRefused_overtakes (calling : s.cm.call.state = .calling) (free : s.cm.view.state = .free)
    (kept : dialingToUndo o was s = false) (notDialing : was ≠ .dialing) :
    let b := handedBase false slot .call (callFramed t run o w was) s
    ∃ u, exec (.telegramHandOn slot) s = .next u ∧ u.cm.call.state = .idle ∧ u.cm.view = b.cm.view
      ∧ u.lu.control =
          (enterRequest ⟨.refuse, addrOf t.source, [reasonCode r], .cmNoOutcome, s.cl.config.retryLimit⟩
            (withdraw .call b.lu)).control := by
  obtain ⟨takes, notGlare⟩ := refuse_takes refuse
  have acts := exec_callOvertakes receive kind joined other whole calling free (by rw [decide_eq_true takes, Bool.or_true])
    fun _ => ⟨notGlare, kept⟩
  dsimp only at acts ⊢
  rw [if_neg takes] at acts
  generalize base : handedBase false slot .call (callFramed t run o w was) s = b at acts ⊢
  obtain ⟨cm, line⟩ := overtaken_spec (s := b) (by rw [← base]; exact fun opened => nomatch calling.symm.trans opened)
  have limit : (overtaken b).cl = s.cl := (cl_of_callCore (callCore_overtaken b)).1.trans (by rw [← base]; rfl)
  generalize overtaken b = x at acts cm line limit
  have idle : x.cm.call.state = .idle := by rw [cm]
  have enters : entersRequests x.lu = true := by rw [line, ← base]; exact enters_of joined served
  have keeps : dialingToUndo (.refuse r) was x = false := dialingToUndo_idle _ idle notDialing
  rw [refuse, takenCall_of_applies rfl, keeps, if_neg (by decide), applyOutcome_refuse (.inl rfl) enters] at acts
  refine ⟨_, acts, ?_⟩
  rw [settle_call, settle_view, settle_control, cm, line, limit]
  exact ⟨rfl, rfl, rfl⟩

end

/-- A CALL that takes the view, not taken here, ends an attempt in CALLING (R73). -/
theorem exec_callNotTaken_overtakes (gone : o = .notTaken) (held : heldSpace slot = true)
    (calling : s.cm.call.state = .calling) (free : s.cm.view.state = .free) :
    let b := handedBase false slot .call (callFramed t run o w was) s
    ∃ u, exec (.telegramHandOn slot) s = .next u ∧ u.cm.call.state = .idle ∧ u.cm.view = b.cm.view
      ∧ u.lu.control = (withdraw .call s.lu).control := by
  have acts := exec_callOvertakes receive kind joined other whole calling free (by rw [held]; rfl)
    fun takes => absurd gone takes
  dsimp only at acts ⊢
  rw [if_pos gone] at acts
  obtain ⟨cm, line⟩ := overtaken_spec (s := handedBase false slot .call (callFramed t run o w was) s)
    (fun opened => nomatch calling.symm.trans opened)
  refine ⟨_, acts, ?_⟩
  rw [settle_call, settle_view, settle_control, cm, line]
  exact ⟨rfl, rfl, rfl⟩

end

/-- Settles O28, by the outcome of the decision and by what it finds at the hand-on. -/
theorem turnOfACall : Obligations.TurnOfACall := by
  unfold Obligations.TurnOfACall
  refine ⟨fun s t w waits whole kind joined clear window => ?_,
    fun s f w slot receive kind unread joined whole => ⟨fun unanswered => ?_, fun taken gone served => ?_,
      fun taken stays calling caller => ⟨fun individual => ?_, fun group => ?_⟩⟩,
    fun s t run o w was slot receive kind joined served other whole => ?_⟩
  · refine ⟨outcomeTakes (answerDecision s t.source t.destination w), outcomeTakes_iff _, fun own => ?_, fun group => ?_, ?_⟩
    · rw [outcomeTakes_iff, own]
      exact answerDecision_own s t.source w
    · rcases answerDecision_group (s := s) group t.source w with join | none
      · simp [join, outcomeTakes]
      · simp [none, outcomeTakes]
    · exact exec_callTurn waits whole kind joined clear window
  · exact exec_ownCall_unanswered receive kind unread joined whole unanswered
  · exact exec_ownCall_withdrawn receive kind unread joined whole taken gone served
  · obtain ⟨u, settled, fields⟩ := ringView_awaiting (s := handedBase true slot .call f s) caller
    have answered := exec_ownCall_answered receive kind unread joined whole taken stays calling
    dsimp only at answered
    rw [if_neg (by rw [isGroup_iff, not_not]; exact individual), settled] at answered
    exact ⟨u, answered, fields⟩
  · have answered := exec_ownCall_answered receive kind unread joined whole taken stays calling
    dsimp only at answered
    rw [if_pos ((isGroup_iff _).mpr (by omega))] at answered
    refine ⟨_, answered, ?_⟩
    rw [settle_call, settle_view, settle_ku]
    exact enterOpen_caller (s := handedBase true slot .call f s) caller
  · have enters : entersRequests s.lu = true := enters_of joined served
    refine ⟨fun idle => ⟨fun notDialing => ?_, fun gone => ?_⟩, fun undone => ?_, fun r refuse => ⟨fun undone idle => ?_,
      fun undone dials => ?_, fun kept spared => ?_⟩, fun stands glare => ?_, fun calling free => ⟨fun gone held => ?_,
      fun r refuse kept => ?_⟩⟩
    · refine answers_of_runs (undone := false) (.inr (.inr idle)) enters rfl rfl rfl rfl fun takes => ?_
      exact exec_callKept receive kind joined other whole takes (appliesTo_of_atHandOn o (.inr (.inr idle)))
        (dialingToUndo_idle o idle notDialing) fun calling => nomatch idle.symm.trans calling
    · exact exec_callNotTaken receive kind joined other whole gone (by rw [idle]; decide)
    · exact answers_undone receive kind joined other whole served undone
    · exact exec_callRefused_undone_idle receive kind joined other whole refuse served undone idle
    · exact exec_callRefused_undone_moved receive kind joined other whole refuse served undone dials
    · exact exec_callRefused_kept receive kind joined other whole refuse served
        (dialingToUndo_of_not (refuse_takes refuse).2 kept) spared
    · exact exec_callGlare receive kind joined other whole glare stands served
    · exact exec_callNotTaken_overtakes receive kind joined other whole gone held calling free
    · exact exec_callRefused_overtakes receive kind joined other whole refuse served calling free
        (dialingToUndo_of_not (refuse_takes refuse).2 kept) fun dialing => kept (.inl ⟨dialing, .inr (.inr calling)⟩)

end Sys2Proof.Machine
end

section
/-!
The answer windows: what a window matches, and which window applies to a destination (R56).
-/

namespace Sys2Proof.Machine

/-! ### What a window matches -/

/-- Two addresses agree under a mask exactly in the units the mask selects. -/
theorem masked_eq_iff (d base mask : Addr) :
    d &&& mask = base &&& mask ↔ ∀ i : Fin 6, mask[i] = true → d[i] = base[i] := by
  rw [BitVec.eq_of_getElem_eq_iff, Fin.forall_iff]
  refine forall₂_congr fun i hi => ?_
  rw [BitVec.getElem_and, BitVec.getElem_and]
  change _ ↔ (mask[i] = true → d[i] = base[i])
  cases mask[i] with
  | false => simp
  | true => simp

theorem matches_iff (w : Window) (d : Addr) :
    Window.matches w d = true ↔ w.enabled = true ∧ ∀ i : Fin 6, w.mask[i] = true → d[i] = w.base[i] := by
  rw [Window.matches, Bool.and_eq_true, decide_eq_true_eq, masked_eq_iff]

/-! ### The search of W1 to W7 -/

/-- The search of W1 to W7 is the search of all eight windows that passes over W0. -/
theorem groupWindows_find? (p : Fin 8 → Bool) : groupWindows.find? p = Fin.find? fun i => decide (i ≠ 0) && p i := by
  have skip : groupWindows = (List.finRange 8).filter (· ≠ 0) := by decide
  rw [skip, List.find?_filter, Fin.find?_eq_find?_finRange]
  simp

theorem groupWindows_find?_eq_some_iff (p : Fin 8 → Bool) (i : Fin 8) :
    groupWindows.find? p = some i ↔ i ≠ 0 ∧ p i = true ∧ ∀ j : Fin 8, j ≠ 0 → j < i → p j = false := by
  have below : (∀ j < i, (decide (j ≠ 0) && p j) = false) ↔ ∀ j : Fin 8, j ≠ 0 → j < i → p j = false :=
    forall_congr' fun j => by rw [Bool.and_eq_false_imp, decide_eq_true_eq]; exact imp.swap
  rw [groupWindows_find?, Fin.find?_eq_some_iff, below, Bool.and_eq_true, decide_eq_true_eq, and_assoc]

theorem groupWindows_find?_eq_none_iff (p : Fin 8 → Bool) :
    groupWindows.find? p = none ↔ ∀ i : Fin 8, i ≠ 0 → p i = false := by
  simp only [groupWindows_find?, Fin.find?_eq_none_iff, Bool.and_eq_false_imp, decide_eq_true_eq]

/-! ### The window that applies -/

/-- A station's own address is an individual one. -/
theorem addrOf_lt (n : Station) : (addrOf n).toNat < 32 := by
  rw [addrOf, BitVec.toNat_setWidth_of_le (by decide)]
  exact n.isLt

theorem windowFor_own (s : State) : windowFor s (addrOf s.cl.station) = some 0 := if_pos rfl

theorem windowFor_individual {s : State} {d : Addr} (other : d ≠ addrOf s.cl.station) (individual : d.toNat < 32) :
    windowFor s d = none := by
  rw [windowFor, if_neg (show ¬ d = ownAddr s from other),
    if_neg (by rw [isGroup_iff, not_not]; exact individual)]

theorem windowFor_group {d : Addr} (s : State) (group : 32 ≤ d.toNat) :
    windowFor s d = groupWindows.find? fun i => Window.matches s.cl.config.windows[i] d := by
  have other : d ≠ ownAddr s := fun own => absurd (addrOf_lt s.cl.station) (by rw [← ownAddr, ← own]; omega)
  rw [windowFor, if_neg other, if_pos ((isGroup_iff d).mpr (by omega))]

/-- Settles O20, by the kind of the destination: the own number, another individual one, or a group's. -/
theorem windowThatApplies : Obligations.WindowThatApplies := by
  unfold Obligations.WindowThatApplies
  refine ⟨matches_iff, fun s d => ⟨fun own => ?_, windowFor_individual, fun group => ⟨fun i => ?_, ?_⟩⟩⟩
  · rw [own]
    exact windowFor_own s
  · rw [windowFor_group s group]
    exact groupWindows_find?_eq_some_iff _ i
  · rw [windowFor_group s group]
    exact groupWindows_find?_eq_none_iff _

end Sys2Proof.Machine
end

section
/-!
The holds and the line view (R68, R70, R82 to R85, R95): what each operation of a command does to them, said once for each
operation, and with it for every command: held-by-me, its timer and the hold set stand only in OPEN, the line view runs the
timer of its state, and a call that holds the view does not find it FREE.
-/

namespace Sys2Proof.Machine

/-! ### What an act keeps -/

/-- What every act keeps: the holds in OPEN, and the line view with the call. -/
structure CallKept (s t : State) : Prop where
  holds : holdsOnlyInOpen s → holdsOnlyInOpen t
  view : callHoldsView s → callHoldsView t

theorem CallKept.refl (s : State) : CallKept s s := ⟨id, id⟩

theorem CallKept.trans {s t u : State} (h : CallKept s t) (k : CallKept t u) : CallKept s u :=
  ⟨k.holds ∘ h.holds, k.view ∘ h.view⟩

/-- The holds of a record that is OPEN. -/
theorem holdsOnlyInOpen_of_opened {s : State} (state : s.cm.call.state = .opened)
    (timer : s.cm.call.heldByMe = true ↔ s.cm.call.heldSince ≠ none) : holdsOnlyInOpen s :=
  ⟨timer, fun _ => state, fun _ => state⟩

/-- A record with no hold, in whatever state. -/
theorem holdsOnlyInOpen_of_none {s : State} (held : s.cm.call.heldByMe = false) (since : s.cm.call.heldSince = none)
    (set : s.cm.call.holdSet = []) : holdsOnlyInOpen s := by
  simp [holdsOnlyInOpen, held, since, set]

/-- Outside OPEN there is no hold. -/
theorem none_of_holdsOnlyInOpen {s : State} (h : holdsOnlyInOpen s) (state : s.cm.call.state ≠ .opened) :
    s.cm.call.heldByMe = false ∧ s.cm.call.heldSince = none ∧ s.cm.call.holdSet = [] := by
  obtain ⟨timer, held, set⟩ := h
  have none : s.cm.call.heldByMe = false := Bool.eq_false_iff.mpr (mt held state)
  exact ⟨none, by_contra fun some => Bool.false_ne_true (none.symm.trans (timer.mpr some)), by_contra (mt set state)⟩

/-- An act that leaves the line view and what the record holds. -/
theorem CallKept.of_fields {s t : State} (view : t.cm.view = s.cm.view) (state : t.cm.call.state = s.cm.call.state)
    (set : t.cm.call.holdSet = s.cm.call.holdSet) (held : t.cm.call.heldByMe = s.cm.call.heldByMe)
    (since : t.cm.call.heldSince = s.cm.call.heldSince) : CallKept s t := by
  constructor
  · simp only [holdsOnlyInOpen, state, set, held, since]; exact id
  · simp only [callHoldsView, view, state]; exact id

/-- An act that leaves what the CM owns of the call. -/
theorem CallKept.of_eq {s t : State} (view : t.cm.view = s.cm.view) (call : t.cm.call = s.cm.call) : CallKept s t :=
  .of_fields view (by rw [call]) (by rw [call]) (by rw [call]) (by rw [call])

/-- An act on a state that differs from the first elsewhere. -/
theorem CallKept.after {s x t : State} (h : CallKept x t) (view : x.cm.view = s.cm.view) (call : x.cm.call = s.cm.call) :
    CallKept s t := (CallKept.of_eq view call).trans h

/-- An act, and then a change elsewhere. -/
theorem CallKept.before {s x t : State} (h : CallKept s x) (view : t.cm.view = x.cm.view) (call : t.cm.call = x.cm.call) :
    CallKept s t := h.trans (.of_eq view call)

/-- An act under a condition. -/
theorem callKept_ite {p : Prop} [Decidable p] {s a : State} (h : CallKept s a) : CallKept s (if p then a else s) := by
  split
  · exact h
  · exact .refl s

/-- The one act or the other. -/
theorem callKept_either {p : Prop} [Decidable p] {s a b : State} (h : CallKept s a) (k : CallKept s b) :
    CallKept s (if p then a else b) := by
  split
  · exact h
  · exact k

/-- The passing of time moves the timers that run, and starts or stops none. -/
theorem callKept_elapse (d : Tick) (s : State) : CallKept s (elapse d s) := by
  unfold elapse
  split
  · exact .refl s
  · constructor
    · simp only [holdsOnlyInOpen, CallManager.elapse, timeDown, ne_eq, Option.map_eq_none_iff, List.map_eq_nil_iff]
      exact id
    · simp only [callHoldsView, CallManager.elapse, timeDown, ne_eq, Option.map_eq_none_iff]
      rintro ⟨free, rest⟩
      refine ⟨fun state => ?_, rest⟩
      have reset := free state
      simp [reset, LineView.reset]

/-! ### The flow levels (R28, R83, R84) -/

/-- In an OPEN record, a change of held-by-me with its timer. -/
theorem callKept_of_held {s t : State} (opened : s.cm.call.state = .opened) (view : t.cm.view = s.cm.view)
    (state : t.cm.call.state = s.cm.call.state) (timer : t.cm.call.heldByMe = true ↔ t.cm.call.heldSince ≠ none) :
    CallKept s t := by
  constructor
  · exact fun _ => holdsOnlyInOpen_of_opened (state.trans opened) timer
  · simp only [callHoldsView, view, state]; exact id

theorem cm_requestOrDrop (r : Request) (s : State) : (requestOrDrop r s).cm = s.cm := by
  unfold requestOrDrop luRequest
  split <;> rfl

theorem callKept_requestOrDrop (r : Request) (s : State) : CallKept s (requestOrDrop r s) :=
  .of_eq (by rw [cm_requestOrDrop]) (by rw [cm_requestOrDrop])

theorem callKept_queueHold (s : State) : CallKept s (queueHold s) := callKept_requestOrDrop _ s

theorem callKept_setHeld {s : State} (opened : s.cm.call.state = .opened) : CallKept s (setHeld s) := by
  refine (callKept_queueHold s).trans (callKept_of_held ?_ rfl rfl (by simp [setHeld]))
  rw [queueHold, cm_requestOrDrop]; exact opened

theorem callKept_clearHeld {s : State} (opened : s.cm.call.state = .opened) : CallKept s (clearHeld s) := by
  refine (callKept_requestOrDrop _ s).trans (callKept_of_held ?_ rfl rfl (by simp [clearHeld]))
  rw [cm_requestOrDrop]; exact opened

theorem callKept_flowTest (s : State) : CallKept s (flowTest s) := by
  by_cases opened : s.cm.call.state = .opened
  · exact callKept_ite (callKept_either (callKept_either (.refl s) (callKept_setHeld opened))
      (callKept_ite (callKept_clearHeld opened)))
  · rw [flowTest_of_not_open opened]; exact .refl s

theorem callKept_blockReleased (s : State) : CallKept s (blockReleased s) := (callKept_flowTest _).after rfl rfl

theorem callKept_signal (r t : Bool) (s : State) : CallKept s (signal r t s) :=
  (callKept_ite (callKept_blockReleased s)).trans (callKept_ite (callKept_flowTest _))

/-! ### The store's operations -/

theorem callKept_refuseKey (s : State) : CallKept s (refuseKey s) := .of_eq rfl rfl

theorem callKept_startSendTimer (n : QueueName) (run : List Cell) (s : State) : CallKept s (startSendTimer n run s) :=
  callKept_ite (.of_eq rfl rfl)

theorem callKept_placeRun (n : QueueName) (run : List Cell) (s : State) : CallKept s (placeRun n run s) :=
  (callKept_startSendTimer n run s).trans (.of_eq rfl rfl)

theorem callKept_appendRun {n : QueueName} {c : ReserveClass} {run : List Cell} {s t : State}
    (h : appendRun n c run s = some t) : CallKept s t := by
  unfold appendRun at h
  split at h
  · cases h; exact (callKept_placeRun n run s).trans (callKept_signal _ _ _)
  · cases h

theorem callKept_appendRun_getD {n : QueueName} {c : ReserveClass} {run : List Cell} {s d : State}
    (refused : CallKept s d) : CallKept s ((appendRun n c run s).getD d) := by
  cases h : appendRun n c run s with
  | none => exact refused
  | some t => exact callKept_appendRun h

theorem callKept_notice (n : Notice) (s : State) : CallKept s (notice n s) :=
  callKept_ite (callKept_appendRun_getD (.refl s))

theorem callKept_noticeIf (n : Option Notice) (s : State) : CallKept s (noticeIf n s) := by
  cases n with
  | none => exact .refl s
  | some n => exact callKept_notice n s

theorem callKept_placeNotice (n : Notice) (s : State) : CallKept s (placeNotice n s).1 := by
  unfold placeNotice
  split
  · exact callKept_placeRun _ _ s
  · exact .refl s

theorem callKept_removeHead (n : QueueName) (s : State) : CallKept s (removeHead n s) := by
  unfold removeHead
  exact (callKept_signal _ _ _).after rfl rfl

theorem callKept_flushSend (s : State) : CallKept s (flushSend s) := by
  unfold flushSend
  exact (callKept_signal _ _ _).after rfl rfl

theorem callKept_ackSend (s : State) : CallKept s (ackSend s) := by
  unfold ackSend
  exact (callKept_signal _ _ _).after rfl rfl

/-! ### The Answering Unit's operations -/

theorem callKept_fileChange (was : Bool) (s : State) : CallKept s (fileChange was s) := callKept_ite (callKept_flowTest s)

theorem callKept_dropPrinted (r : FileRecord) (s : State) : CallKept s (dropPrinted r s) :=
  callKept_either (.refl s) (.of_eq rfl rfl)

theorem callKept_endCursor (s : State) : CallKept s (endCursor s) := by
  unfold endCursor
  split
  · exact .refl s
  · rename_i c _
    split
    · exact .of_eq rfl rfl
    · rename_i r _
      dsimp only
      have told : CallKept s (placeNotice (.endMsg r.number) (updateRecord c.record (fun x => { x with printed := true }) s)).1 :=
        (callKept_placeNotice _ _).after rfl rfl
      have freed := told.trans (.of_eq (t := freeCursor true _) rfl rfl)
      exact ((freed.trans (callKept_dropPrinted r _)).trans (callKept_signal _ _ _)).trans (callKept_fileChange _ _)

theorem callKept_abandonCursor (s : State) : CallKept s (abandonCursor s) := by
  unfold abandonCursor
  split <;> exact .of_eq rfl rfl

theorem callKept_tryHeader (s : State) : CallKept s (tryHeader s) := by
  unfold tryHeader
  split
  · exact .refl s
  · refine callKept_ite ?_
    split
    · exact .refl s
    · split
      · rename_i appended
        exact ((callKept_appendRun appended).after (s := s) rfl rfl).before rfl rfl
      · exact .of_eq rfl rfl

theorem callKept_startReplay (r : FileRecord) (s : State) : CallKept s (startReplay r s) := by
  unfold startReplay
  dsimp only
  have tried := (callKept_tryHeader { updateRecord r.slot (fun x => { x with printStarted := true }) s with
    au.cursor := some ⟨r.slot, 0, .replay, true, r.printStarted⟩ }).after (s := s) rfl rfl
  exact callKept_either (tried.trans (callKept_endCursor _)) tried

theorem callKept_followTest (s : State) : CallKept s (followTest s) := by
  unfold followTest
  split <;> exact .of_eq rfl rfl

theorem callKept_auTestsFor (n : Nat) (s : State) : CallKept s (auTestsFor n s) := by
  induction n generalizing s with
  | zero => exact callKept_followTest s
  | succ n ih =>
    have followed := callKept_followTest s
    unfold auTestsFor
    dsimp only
    split
    · rename_i r _
      have replayed := followed.trans (callKept_startReplay r _)
      exact callKept_either (replayed.trans (ih _)) replayed
    · exact followed

theorem callKept_auTests (s : State) : CallKept s (auTests s) := callKept_auTestsFor _ s

theorem callKept_finishCursor (s : State) : CallKept s (finishCursor s) :=
  callKept_ite ((callKept_endCursor s).trans (callKept_auTests _))

theorem callKept_becomeAttendance (target : Attendance) (s : State) : CallKept s (becomeAttendance target s) :=
  callKept_either (.refl s) ((callKept_auTests _).after rfl rfl)

theorem callKept_attendRequest (target : Attendance) (cause : AttendCause) (s : State) :
    CallKept s (attendRequest target cause s) :=
  callKept_either ((callKept_becomeAttendance target _).after rfl rfl) (callKept_either (.of_eq rfl rfl) (.of_eq rfl rfl))

theorem callKept_applyPending (s : State) : CallKept s (applyPending s) := by
  unfold applyPending
  split
  · exact (callKept_becomeAttendance _ _).after rfl rfl
  · exact .refl s

theorem callKept_tellIdle (s : State) : CallKept s (tellIdle s) :=
  ((callKept_applyPending { s with au.autoAnswered := false }).trans (callKept_auTests _)).after rfl rfl

/-! ### The call's operations -/

/-- The states that ask nothing of the line view: the call is not, or no longer, on the line (R70). -/
def restsFromView (c : CallState) : Prop := c = .idle ∨ c = .dialing ∨ c = .calling ∨ c = .clearing

theorem holdsView_of_rests {c : CallState} (rests : restsFromView c) : holdsView c = false := by
  obtain rfl | rfl | rfl | rfl := rests <;> rfl

theorem not_opened_of_rests {c : CallState} (rests : restsFromView c) : c ≠ .opened := by
  rintro rfl
  exact Bool.noConfusion (holdsView_of_rests rests)

/-- The line view runs the timer of its state, and a FREE one is empty (R68). -/
def LineView.inOrder (v : LineView) : Prop :=
  (v.state = .free → v = LineView.reset)
    ∧ (v.state = .ringing → v.ringWait ≠ none ∧ v.silence = none)
    ∧ (v.state = .engaged → v.silence ≠ none ∧ v.ringWait = none)

theorem inOrder_of_callHoldsView {s : State} (h : callHoldsView s) : s.cm.view.inOrder := by
  obtain ⟨free, ringing, engaged, _, _⟩ := h
  exact ⟨free, ringing, engaged⟩

theorem inOrder_reset : LineView.reset.inOrder := ⟨fun _ => rfl, nofun, nofun⟩

/-- A record that asks nothing of the view. -/
theorem callHoldsView_of_rests {s : State} (view : s.cm.view.inOrder) (rests : holdsView s.cm.call.state = false) :
    callHoldsView s := by
  obtain ⟨free, ringing, engaged⟩ := view
  refine ⟨free, ringing, engaged, fun state => ?_, fun state => ?_⟩
  · rw [state] at rests; cases rests
  · obtain state | state := state <;> rw [state] at rests <;> cases rests

/-- An OPEN record, the view ENGAGED with its silence timer alone. -/
theorem callHoldsView_of_engaged {s : State} (view : s.cm.view.state = .engaged) (silence : s.cm.view.silence ≠ none)
    (ringWait : s.cm.view.ringWait = none) : callHoldsView s := by
  simp [callHoldsView, view, silence, ringWait]

/-- A record in AWAITING or RINGING, the view RINGING with its ring-wait timer alone. -/
theorem callHoldsView_of_ringing {s : State} (view : s.cm.view.state = .ringing) (ringWait : s.cm.view.ringWait ≠ none)
    (silence : s.cm.view.silence = none) (state : s.cm.call.state ≠ .opened) : callHoldsView s := by
  simp [callHoldsView, view, silence, ringWait, state]

/-- The record goes, from a state other than OPEN, to one that asks nothing of the view. -/
theorem callKept_rests {c : CallState} {s : State} (state : s.cm.call.state ≠ .opened) (rests : restsFromView c) :
    CallKept s (setCallState c s) := by
  constructor
  · intro h
    obtain ⟨held, since, set⟩ := none_of_holdsOnlyInOpen h state
    exact holdsOnlyInOpen_of_none held since set
  · exact fun h => callHoldsView_of_rests (inOrder_of_callHoldsView (s := s) h) (holdsView_of_rests rests)

/-- A record on the line, its view RINGING (R70). -/
theorem callKept_rings {c : CallState} {s : State} (state : s.cm.call.state ≠ .opened) (rings : c ≠ .opened) :
    CallKept s (ringView (setCallState c s)) := by
  constructor
  · intro h
    obtain ⟨held, since, set⟩ := none_of_holdsOnlyInOpen h state
    exact holdsOnlyInOpen_of_none held since set
  · exact fun _ => callHoldsView_of_ringing rfl (by simp [ringView]) rfl rings

/-- Leaving OPEN ends every hold, and leaves the view (R95). -/
theorem callKept_leaveOpen {c : CallState} (filed : Bool) (s : State) (rests : restsFromView c) :
    CallKept s (leaveOpen c filed s) := by
  obtain ⟨state, set, held, since, _, _, view, _⟩ := leaveOpen_spec filed s (not_opened_of_rests rests)
  constructor
  · exact fun _ => holdsOnlyInOpen_of_none held since set
  · intro h
    refine callHoldsView_of_rests ?_ (by rw [state]; exact holdsView_of_rests rests)
    rw [view]; exact inOrder_of_callHoldsView h

theorem callKept_toIdle (filed : Bool) (n : Option Notice) (s : State) : CallKept s (toIdle filed n s) := by
  unfold toIdle
  dsimp only
  refine .trans (t := if s.cm.call.state = .opened then leaveOpen .idle filed s else setCallState .idle s) ?_ ?_
  · split
    · exact callKept_leaveOpen filed s (.inl rfl)
    · rename_i state; exact callKept_rests state (.inl rfl)
  · exact ((callKept_noticeIf n _).trans (callKept_finishCursor _)).trans (callKept_tellIdle _)

theorem callKept_exhausted (r : Request) (s : State) : CallKept s (exhausted r s) := by
  unfold exhausted
  refine callKept_ite ?_
  cases r.kind with
  | call => exact callKept_ite (callKept_toIdle _ _ s)
  | accept => exact callKept_ite (callKept_toIdle _ _ s)
  | clear => exact callKept_ite (callKept_toIdle _ _ s)
  | who => exact callKept_notice _ s
  | _ => exact .refl s

theorem callKept_sendRequest (r : Request) (s : State) : CallKept s (sendRequest r s) := by
  unfold sendRequest luRequest
  split
  · rename_i entered
    split at entered
    · cases entered; exact .of_eq rfl rfl
    · cases entered
  · exact callKept_exhausted r s

theorem callKept_openToClearing (filed : Bool) (n : Option Notice) (c : Cause) (s : State) :
    CallKept s (openToClearing filed n c s) :=
  (((callKept_leaveOpen filed s (.inr (.inr (.inr rfl)))).trans (callKept_noticeIf n _)).trans
    (callKept_finishCursor _)).trans (callKept_sendRequest _ _)

theorem callKept_textExhausted (s : State) : CallKept s (textExhausted s) := callKept_ite (callKept_openToClearing _ _ _ s)

theorem callKept_requestWho (d : Addr) (s : State) : CallKept s (requestWho d s) := callKept_sendRequest _ s

/-- A call that opens starts with no hold and its view ENGAGED, whatever was before (R78). -/
theorem callKept_enterOpen (s : State) : CallKept s (enterOpen s) := by
  unfold enterOpen
  dsimp only
  have entered : CallKept s (engageView (openFields (setCallState .opened s))) :=
    ⟨fun _ => holdsOnlyInOpen_of_none rfl rfl rfl, fun _ => callHoldsView_of_engaged rfl (by simp [engageView]) rfl⟩
  generalize engageView (openFields (setCallState .opened s)) = x at entered
  have told : CallKept s (if x.cm.call.role = some .member then x else notice (.callOpen (partyNumber x)) x) :=
    callKept_either entered (entered.trans (callKept_notice _ _))
  generalize (if x.cm.call.role = some .member then x else notice (.callOpen (partyNumber x)) x) = y at told
  exact callKept_either (told.trans (callKept_requestWho _ _)) told

theorem callKept_answerAccept (s : State) : CallKept s (answerAccept s) := by
  have answered : CallKept s { s with cm.call.answer := .acceptSent } := .of_fields rfl rfl rfl rfl rfl
  exact answered.trans (callKept_sendRequest _ _)

theorem callKept_answerRefuse (r : Reason) (s : State) : CallKept s (answerRefuse r s) :=
  (callKept_requestOrDrop _ s).trans (callKept_toIdle _ _ _)

theorem callKept_endRun (s : State) : CallKept s (endRun s) := by
  unfold endRun
  split
  · exact .refl s
  · exact .of_fields rfl rfl rfl rfl rfl

theorem callKept_stopSendRun (s : State) : CallKept s (stopSendRun s) := by
  unfold stopSendRun
  refine callKept_ite ?_
  split
  · exact callKept_ite (callKept_endRun s)
  · exact .refl s

theorem callKept_discardEdit (s : State) : CallKept s (discardEdit s) :=
  callKept_either (.refl s) ((callKept_notice _ _).after rfl rfl)

/-- Steps 1 to 4 of R86. -/
theorem callKept_stopSending (s : State) : CallKept s (stopSending s) := by
  have stepped (x : State) : CallKept x (withdrawPlace (stepSequence x)) := by
    unfold stepSequence withdrawPlace
    split <;> exact .of_fields rfl rfl rfl rfl rfl
  exact ((callKept_stopSendRun s).trans (stepped _)).trans (callKept_flushSend _)

/-! ### The delivery of a TEXT (R21, R22, R66, R169) -/

/-- The CM but for the link to the file record. -/
def callLess (s : State) : CallManager := { s.cm with call.fileLink := none }

theorem callKept_of_callLess {s t : State} (same : callLess t = callLess s) : CallKept s t := by
  simp only [callLess, CallManager.mk.injEq, CallRecord.mk.injEq] at same
  obtain ⟨view, ⟨state, _, _, _, _, _, _, _, _, _, set, held, since, _⟩, _⟩ := same
  exact .of_fields view state set held since

theorem callLess_openRecord (s : State) : callLess (openRecord s) = callLess s := by
  have freed (x : State) : callLess (match oldestPrinted x with | some r => dropRecord r x | none => x) = callLess x := by
    split <;> rfl
  unfold openRecord
  dsimp only
  split <;> split_ifs <;> first | rfl | exact freed s

theorem callLess_reclaimFor (needed k : Nat) (s : State) : callLess (reclaimFor needed k s) = callLess s := by
  induction k generalizing s with
  | zero => rfl
  | succ k ih =>
    unfold reclaimFor
    split_ifs
    · rfl
    · split
      · exact ih _
      · rfl

theorem callLess_appendFile (run : List Cell) (lost : Nat) (s : State) :
    callLess (appendFile run lost s) = callLess s := by
  unfold appendFile
  split
  · rfl
  · split <;> rfl

theorem callLess_deliver (e : Route) (r : TextRuns) (party : Station) (lost : Nat) (s : State) :
    callLess (deliver e r party lost s) = callLess s := by
  have stored (x : State) (st : Store) : callLess { x with cs := st } = callLess x := rfl
  unfold deliver
  dsimp only
  split_ifs <;> simp only [callLess_appendFile, stored, callLess_reclaimFor, callLess_openRecord]

theorem callKept_acceptText (t : Telegram) (run : List Resolved) (s : State) : CallKept s (acceptText t run s).2 := by
  unfold acceptText
  split
  · split
    · exact .refl s
    · rename_i lost _
      dsimp only
      split
      · exact .refl s
      · split
        · have delivered := callKept_of_callLess
            (callLess_deliver (effective s) (textRuns s (effective s) t.source lost run) t.source lost s)
          have recorded (x : State) : CallKept x { x with cm.call.recvSeq := t.sequence } := .of_fields rfl rfl rfl rfl rfl
          have signalled {a b : Bool} := (delivered.trans (recorded _)).trans (callKept_signal a b _)
          exact callKept_either (signalled.trans (callKept_followTest _)) signalled
        · exact .refl s
  · exact .refl s

/-! ### What follows every act -/

theorem callKept_formText (s : State) : CallKept s (formText s) := .of_eq (formText_view s) (formText_call s)
theorem callKept_settle (s : State) : CallKept s (settle s) := .of_eq (settle_view s) (settle_call s)

end Sys2Proof.Machine
end

section
/-!
The holds and the line view through the commands: the mechanisms, the line, the hand-on, the call's timers, the keyboard,
restart (R47 to R185), and every command together.
-/

namespace Sys2Proof.Machine

/-! ### The mechanisms (R121 to R155) -/

theorem callKept_startPrintOp (op : PrintOp) (s : State) : CallKept s (startPrintOp op s) := by
  cases op <;> exact .of_eq rfl rfl

theorem callKept_nextPrintOp (s : State) : CallKept s (nextPrintOp s) := by
  unfold nextPrintOp
  split
  · split
    · exact callKept_ite ((callKept_startPrintOp _ _).after rfl rfl)
    · exact .of_eq rfl rfl
  · exact .refl s

theorem callKept_beginWork (src : Source) (c : Cell) (s : State) : CallKept s (beginWork src c s) := by
  unfold beginWork
  refine callKept_either (.of_eq rfl rfl) ?_
  split
  · exact (callKept_startPrintOp _ _).after rfl rfl
  · exact .of_eq rfl rfl

theorem callKept_takePrintCell (src : Source) (c : Cell) (s : State) : CallKept s (takePrintCell src c s) := by
  cases src with
  | queue => exact (callKept_beginWork .queue c s).trans (callKept_removeHead _ _)
  | cursor =>
    exact (callKept_beginWork .cursor c s).trans
      ((callKept_finishCursor (advanceCursor (beginWork .cursor c s))).after rfl rfl)

theorem callKept_completePrintOp (s : State) : CallKept s (completePrintOp s) := by
  unfold completePrintOp finishPrintOp
  split
  · exact (callKept_nextPrintOp _).after rfl rfl
  · exact .refl s

theorem callKept_printerChange (was : Bool) (s : State) : CallKept s (printerChange was s) :=
  callKept_either (.refl s) ((callKept_ite (callKept_flowTest s)).trans
    (callKept_either (callKept_abandonCursor _) (callKept_auTests _)))

theorem callKept_punchChange (was : Bool) (s : State) : CallKept s (punchChange was s) :=
  callKept_either (.refl s) (callKept_ite (callKept_flowTest s))

theorem callKept_nextPunchOp (s : State) : CallKept s (nextPunchOp s) := by
  unfold nextPunchOp
  split
  · split
    · exact callKept_ite (.of_eq rfl rfl)
    · exact .of_eq rfl rfl
  · exact .refl s

theorem callKept_takePunchCell (c : Cell) (s : State) : CallKept s (takePunchCell c s) :=
  ((callKept_nextPunchOp { s with tu.punchWork := some ⟨c, punchCodes s c⟩ }).trans (callKept_removeHead _ _)).after rfl rfl

theorem callKept_endRunWith (n : Notice) (s : State) : CallKept s (endRunWith n s) :=
  (callKept_endRun s).trans (callKept_notice n _)

theorem callKept_readerLast (r : ReaderRun) (ch : Resolved) (s : State) : CallKept s (readerLast r ch s) := by
  have counted : CallKept s { placeRun r.destination (readerCell ch) s with tu.run := some r.counted } :=
    (callKept_placeRun r.destination (readerCell ch) s).before rfl rfl
  exact ((counted.trans (callKept_endRun _)).trans (callKept_placeNotice _ _)).trans (callKept_signal _ _ _)

theorem callKept_readerAppend (r : ReaderRun) (ch : Resolved) (s : State) : CallKept s (readerAppend r ch s) := by
  unfold readerAppend
  split
  · rename_i appended
    exact callKept_either (callKept_readerLast r ch s) ((callKept_appendRun appended).before rfl rfl)
  · exact .of_eq rfl rfl

theorem callKept_readerCode (r : ReaderRun) (row : Code) (s : State) : CallKept s (readerCode r row s) := by
  unfold readerCode
  dsimp only
  refine callKept_either ((callKept_endRunWith .tapeEnd _).after rfl rfl) ?_
  split
  · exact (callKept_readerAppend _ _ _).after rfl rfl
  · exact .of_eq rfl rfl

theorem callKept_completeCycle (row : Code) (s : State) : CallKept s (completeCycle row s) := by
  unfold completeCycle
  dsimp only
  split
  · exact callKept_either (.of_eq rfl rfl) ((callKept_readerCode _ row _).after rfl rfl)
  · exact .of_eq rfl rfl

theorem callKept_readerStep (r : ReaderRun) (s : State) : CallKept s (readerStep r s) :=
  callKept_either (callKept_endRunWith .tapeEnd s) (callKept_either (.of_eq rfl rfl) (.of_eq rfl rfl))

theorem callKept_readerGoOn (r : ReaderRun) (s : State) : CallKept s (readerGoOn r s) := by
  unfold readerGoOn
  split
  · exact callKept_readerAppend _ _ s
  · exact callKept_ite (.of_eq rfl rfl)

theorem callKept_startRun (n : QueueName) (limit : Nat) (s : State) : CallKept s (startRun n limit s) :=
  .of_fields rfl rfl rfl rfl rfl

theorem callKept_enterRunning (s : State) : CallKept s (enterRunning s) :=
  ((callKept_nextPrintOp _).trans (callKept_nextPunchOp _)).after rfl rfl

theorem callKept_enterFaulted (s : State) : CallKept s (enterFaulted s) :=
  (((callKept_printerChange _ _).trans (callKept_punchChange _ _)).trans
    ((callKept_endRun _).trans (callKept_notice _ _))).after rfl rfl

theorem callKept_leaveFaulted (s : State) : CallKept s (leaveFaulted s) := by
  have stopped : CallKept s (if demandHeld s.mt = true then startMotor s
      else { s with mt.motor := .stopped, mt.faultWait := none }) := callKept_either (.of_eq rfl rfl) (.of_eq rfl rfl)
  exact stopped.trans ((callKept_printerChange _ _).trans (callKept_punchChange _ _))

theorem callKept_runUpEnds (s : State) : CallKept s (runUpEnds s) :=
  callKept_either (.of_eq rfl rfl) ((callKept_enterRunning { s with mt.runUp := none }).after rfl rfl)

theorem callKept_senseTaken (level : Level) (s : State) : CallKept s (senseTaken level s) := by
  unfold senseTaken
  dsimp only
  split
  · exact callKept_either ((callKept_enterRunning _).after rfl rfl) (.of_eq rfl rfl)
  · exact (callKept_enterFaulted _).after rfl rfl
  · exact .of_eq rfl rfl

theorem callKept_setPaper (p : Supply) (s : State) : CallKept s (setPaper p s) :=
  ((callKept_printerChange _ _).trans (callKept_nextPrintOp _)).after rfl rfl

theorem callKept_setTape (t : Supply) (s : State) : CallKept s (setTape t s) := by
  have renewed : CallKept { s with tu.tape := t } (if s.tu.tape = .out ∧ t ≠ .out then newTape { s with tu.tape := t }
      else { s with tu.tape := t }) := callKept_ite (.of_eq rfl rfl)
  exact (renewed.trans ((callKept_punchChange _ _).trans (callKept_nextPunchOp _))).after rfl rfl

theorem callKept_switchTaken (level : Level) (s : State) : CallKept s (switchTaken level s) :=
  (callKept_attendRequest _ _ _).after rfl rfl

theorem callKept_answerByTimer (s : State) : CallKept s (answerByTimer s) := by
  unfold answerByTimer
  refine callKept_either ?_ ((callKept_answerRefuse _ _).after rfl rfl)
  split
  · exact (callKept_answerAccept _).after rfl rfl
  · exact (callKept_answerRefuse _ _).after rfl rfl

/-! ### The line (R32 to R54) -/

/-- What changes the LU alone. -/
theorem callKept_lu (l : LineUnit) (s : State) : CallKept s { s with lu := l } := .of_eq rfl rfl

theorem callKept_reportExhausted (rs : List Request) (s : State) : CallKept s (reportExhausted rs s) := by
  unfold reportExhausted
  induction rs generalizing s with
  | nil => exact .refl s
  | cons r rs ih => exact (callKept_exhausted r s).trans (ih _)

theorem callKept_reportText (p : Option TextPlace) (s : State) : CallKept s (reportText p s) := by
  unfold reportText
  split
  · exact callKept_either (.refl s) (callKept_textExhausted s)
  · exact .refl s

theorem callKept_enterListenOnly (s : State) : CallKept s (enterListenOnly s) :=
  (callKept_lu _ s).trans
    (((callKept_reportExhausted _ _).trans (callKept_reportText _ _)).trans (callKept_notice _ _))

theorem callKept_turnDecision (k : Kind) (t : Telegram) (s : State) : CallKept s (turnDecision k t s).2.2 := by
  unfold turnDecision
  split
  · exact .refl s
  · split
    · split
      · exact callKept_notice _ s
      · exact .refl s
    · split
      · exact .refl s
      · split
        · exact .refl s
        · exact callKept_acceptText t _ s
        · exact .refl s

theorem callKept_turnHeard (k : Kind) (t : Telegram) (s : State) : CallKept s (turnHeard k t s) :=
  (callKept_turnDecision k t s).before rfl rfl

theorem callKept_startTelegram (c : Candidate) (s : State) : CallKept s (startTelegram c s) :=
  (callKept_elapse (gapLeft s c) s).before rfl rfl

theorem callKept_listenAfterAttempt (s : State) : CallKept s (listenAfterAttempt s) := by
  unfold listenAfterAttempt
  split <;> exact .of_eq rfl rfl

theorem callKept_endRestartClear (source : SlotSource) (s : State) : CallKept s (endRestartClear source s) :=
  callKept_ite (callKept_listenAfterAttempt s)

theorem callKept_entryUnanswered (k : Kind) (s : State) : CallKept s (entryUnanswered k s) := by
  unfold entryUnanswered
  split
  · exact .refl s
  · refine callKept_either (callKept_lu _ s) ?_
    split
    · exact callKept_lu _ s
    · exact callKept_either (callKept_lu _ s) ((callKept_lu _ s).trans (callKept_exhausted _ _))

theorem callKept_textUnanswered (s : State) : CallKept s (textUnanswered s) := by
  unfold textUnanswered
  split
  · exact .refl s
  · exact callKept_either (.of_eq rfl rfl) (callKept_either (.of_eq rfl rfl) ((callKept_textExhausted _).after rfl rfl))

theorem callKept_probeUnanswered (s : State) : CallKept s (probeUnanswered s) :=
  callKept_either (.of_eq rfl rfl) (.of_eq rfl rfl)

theorem callKept_entryTaken (k : Kind) (s : State) : CallKept s (entryTaken k s) := by
  unfold entryTaken
  split
  · exact .refl s
  · exact callKept_either ((callKept_lu _ s).trans (callKept_toIdle _ _ _)) (callKept_lu _ s)

theorem callKept_textTaken (s : State) : CallKept s (textTaken s) := by
  unfold textTaken
  split
  · exact .refl s
  · have stepped : CallKept s { s with lu.text := none, cm.call.sendSeq := s.cm.call.sendSeq + 1 } :=
      .of_fields rfl rfl rfl rfl rfl
    exact callKept_either (.of_eq rfl rfl) (stepped.trans (callKept_ackSend _))

theorem callKept_collide (x : Slot) (s : State) : CallKept s (collide x s) := by
  have unanswered (source : SlotSource) (y : State) : CallKept y (collisionUnanswered source y) := by
    cases source with
    | control k => exact callKept_entryUnanswered k y
    | text => exact callKept_textUnanswered y
    | probe => exact .of_eq rfl rfl
  exact (callKept_lu _ s).trans (callKept_either (callKept_enterListenOnly _)
    ((unanswered _ _).trans (callKept_endRestartClear _ _)))

theorem callKept_attemptOutcome (source : SlotSource) (ack : Bool) (s : State) :
    CallKept s (attemptOutcome source ack s) := by
  cases source <;> cases ack
  case control.true k => exact callKept_entryTaken k s
  case control.false k => exact callKept_entryUnanswered k s
  case text.true => exact callKept_textTaken s
  case text.false => exact callKept_textUnanswered s
  case probe.true => exact callKept_enterListenOnly s
  case probe.false => exact callKept_probeUnanswered s

theorem callKept_endAttempt (x : Slot) (ack handedOn : Bool) (s : State) : CallKept s (endAttempt x ack handedOn s) :=
  (callKept_lu _ s).trans ((callKept_attemptOutcome _ _ _).trans (callKept_endRestartClear _ _))

theorem callKept_lineBroken (s : State) : CallKept s (lineBroken s) := by
  have stopped (was : LineUnit) (x : State) : CallKept x (breakRestartClear was x) := callKept_ite (.of_eq rfl rfl)
  unfold lineBroken
  exact ((stopped _ _).trans (callKept_notice _ _)).after rfl rfl

theorem callKept_readSpace (after : Nat) (s : State) : CallKept s (readSpace after s) := by
  refine (callKept_elapse (s.lu.spaceLeft + after * unitTime s) s).trans ?_
  unfold readSpace
  exact (callKept_ite (callKept_lineBroken _)).after rfl rfl

theorem callKept_lineRestored (s : State) : CallKept s (lineRestored s) := by
  refine (callKept_elapse (s.lu.untilMark (sec 2 - s.lu.markRun)) s).trans ?_
  have probes (x : State) : CallKept x (if x.lu.joinState = .listen then enterProbe x else x) := callKept_ite (.of_eq rfl rfl)
  unfold lineRestored
  exact ((probes _).trans (callKept_notice _ _)).after rfl rfl

theorem callKept_readBrokenSpace (s : State) : CallKept s (readBrokenSpace s) :=
  (callKept_elapse s.lu.spaceLeft s).before rfl rfl

/-! ### The line view at the hand-on (R68, R69) -/

theorem inOrder_engage (v : LineView) : v.engage.inOrder := ⟨nofun, nofun, fun _ => ⟨by simp [LineView.engage], rfl⟩⟩

/-- A hand-on leaves the view in order. -/
theorem inOrder_viewAfter {v : LineView} (h : Handed) (order : v.inOrder) : (viewAfter v h).inOrder := by
  obtain ⟨free, ringing, engaged⟩ := order
  unfold viewAfter
  split
  · split_ifs
    · exact ⟨nofun, nofun, fun _ => ⟨by simp, rfl⟩⟩
    · exact ⟨nofun, fun _ => ⟨by simp, rfl⟩, nofun⟩
    · exact ⟨free, ringing, engaged⟩
  · split_ifs
    · exact inOrder_engage v
    · exact inOrder_reset
    · exact inOrder_reset
    · exact ⟨free, ringing, engaged⟩
  · rename_i state
    split_ifs
    · exact inOrder_reset
    · exact ⟨fun idle => by simp [state] at idle, fun rings => by simp [state] at rings,
        fun _ => ⟨by simp, (engaged state).2⟩⟩
    · exact ⟨free, ringing, engaged⟩

/-- A view that is not freed by a hand-on: an ENGAGED one stays ENGAGED, and one that is not FREE stays so. -/
theorem viewAfter_not_freed {v : LineView} {h : Handed} (kept : freesView v (viewAfter v h) = false) :
    (v.state = .engaged → (viewAfter v h).state = .engaged) ∧ (v.state ≠ .free → (viewAfter v h).state ≠ .free) := by
  have stays : v.state ≠ .free → (viewAfter v h).state ≠ .free := by
    intro busy
    simpa [freesView, busy] using kept
  refine ⟨fun state => ?_, stays⟩
  have busy := stays (by rw [state]; decide)
  simp only [viewAfter, state] at busy ⊢
  split at busy
  · exact absurd rfl busy
  · rename_i open_
    rw [if_neg open_]
    split
    · rfl
    · exact state

/-- Only a REFUSE or a CLEAR frees the view. -/
theorem kind_of_freesView {v : LineView} {h : Handed} (freed : freesView v (viewAfter v h) = true) :
    h.kind = .refuse ∨ h.kind = .clear := by
  simp only [freesView, Bool.and_eq_true, decide_eq_true_eq] at freed
  obtain ⟨busy, now⟩ := freed
  unfold viewAfter at now
  split at now
  · rename_i state; exact absurd state busy
  · split_ifs at now with accepted refused cleared
    · cases now
    · exact .inl refused.1
    · exact .inr cleared.1
    · exact absurd now busy
  · split_ifs at now with cleared
    · exact .inr cleared.1
    · exact absurd now busy
    · exact absurd now busy

/-! ### The hand-on (R37) -/

theorem callKept_ownCall (h : Handed) (s : State) : CallKept s (ownCall h s) := by
  unfold ownCall
  refine callKept_either (.refl s) (callKept_either (callKept_requestOrDrop _ s) ?_)
  split
  · rename_i calling
    exact callKept_either (callKept_enterOpen s) (callKept_rings (by rw [calling]; decide) (by decide))
  · exact .refl s

theorem callKept_overtaken (s : State) : CallKept s (overtaken s) := (callKept_lu _ s).trans (callKept_toIdle _ _ _)

theorem callKept_undoDialing (s : State) : CallKept s (undoDialing s) := (callKept_notice _ _).after rfl rfl

theorem callKept_enterRinging (t : Telegram) (w : Fin 8) {s : State} (state : s.cm.call.state ≠ .opened) :
    CallKept s (enterRinging t w s) := by
  have called : CallKept s (setCalled .called t.source t.destination w s) := .of_fields rfl rfl rfl rfl rfl
  exact called.trans (callKept_rings state (by decide))

theorem callKept_applyOutcome {o : AnswerOutcome} (w : Fin 8) (t : Telegram) (undone : Bool) {s : State}
    (applies : appliesTo o s.cm.call.state = true) : CallKept s (applyOutcome o w t undone s) := by
  cases o with
  | ring => exact (callKept_enterRinging t w (not_opened_of_appliesTo applies (by simp))).before rfl rfl
  | accept =>
    have rings := callKept_enterRinging t w (not_opened_of_appliesTo applies (by simp))
    exact rings.trans ((callKept_answerAccept (setAutoAnswered true (enterRinging t w s))).after rfl rfl)
  | glare =>
    have rings := callKept_enterRinging t w (s := { s with lu := withdraw .call s.lu })
      (not_opened_of_appliesTo applies (by simp))
    exact (rings.after (s := s) rfl rfl).trans ((callKept_answerAccept (setAutoAnswered false (enterRinging t w
      { s with lu := withdraw .call s.lu }))).after rfl rfl)
  | refuse r =>
    exact ((callKept_requestOrDrop _ (setAutoAnswered false s)).trans (callKept_ite (callKept_toIdle _ _ _))).after rfl rfl
  | memberJoin =>
    have called : CallKept s (setAutoAnswered false (setCalled .member t.source t.destination w s)) :=
      .of_fields rfl rfl rfl rfl rfl
    exact called.trans (callKept_enterOpen _)
  | notTaken => exact .refl s

theorem callKept_takenCall (o : AnswerOutcome) (w : Fin 8) (atTurn : CallState) (t : Telegram) (s : State) :
    CallKept s (takenCall o w atTurn t s) := by
  unfold takenCall
  split
  · rename_i applies
    have undone : appliesTo o (undoDialing s).cm.call.state = true := by
      rw [undoDialing, (call_of_storeCore (storeCore_notice _ _)).1]; exact applies
    exact callKept_either ((callKept_undoDialing s).trans (callKept_applyOutcome w t true undone))
      (callKept_applyOutcome w t false applies)
  · exact .refl s

theorem callKept_heardCall (tookView : Bool) (h : Handed) (s : State) : CallKept s (heardCall tookView h s) := by
  have first : CallKept s (if tookView && s.cm.call.state = .calling && !sparesAttempt h s then overtaken s else s) :=
    callKept_ite (callKept_overtaken s)
  unfold heardCall
  dsimp only
  split
  · exact first.trans (callKept_takenCall _ _ _ _ _)
  · exact first

theorem callKept_takenAccept (h : Handed) (s : State) : CallKept s (takenAccept h s) := by
  unfold takenAccept
  refine callKept_ite ?_
  split
  · exact callKept_enterOpen s
  · exact .refl s
  · exact callKept_requestOrDrop _ s

theorem callKept_heardRefuse (freed : Bool) (h : Handed) (s : State) : CallKept s (heardRefuse freed h s) := by
  unfold heardRefuse
  split
  · exact .refl s
  · exact callKept_ite (callKept_either (callKept_toIdle _ _ s) (callKept_ite (callKept_notice _ s)))

/-- A change of the hold set in an OPEN record (R82). -/
theorem callKept_holdSet {s : State} (opened : s.cm.call.state = .opened) (set : List Hold) :
    CallKept s { s with cm.call.holdSet := set } := by
  constructor
  · exact fun h => holdsOnlyInOpen_of_opened (s := { s with cm.call.holdSet := set }) opened h.1
  · exact id

theorem callKept_memberLeft (n : Station) {s : State} (opened : s.cm.call.state = .opened) :
    CallKept s (memberLeft n s) := (callKept_holdSet opened _).trans (callKept_notice _ _)

theorem callKept_heardClear (freed : Bool) (h : Handed) (s : State) : CallKept s (heardClear freed h s) := by
  unfold heardClear
  split
  · exact .refl s
  · dsimp only
    refine callKept_either ?_ (callKept_ite ?_)
    · split
      · rename_i taken; exact callKept_memberLeft _ taken.1
      · exact .refl s
    · split
      · exact callKept_toIdle _ _ s
      · exact (callKept_lu _ s).trans (callKept_toIdle _ _ _)
      · exact callKept_toIdle _ _ s
      · exact callKept_ite ((callKept_lu _ s).trans (callKept_toIdle _ _ _))
      · exact .refl s
      · exact .refl s
      · exact .refl s

theorem callKept_askedHold (s : State) :
    CallKept s (if s.cm.call.state ≠ .opened then s else if s.cm.call.heldByMe then queueHold s else setHeld s) := by
  split
  · exact .refl s
  · rename_i opened
    exact callKept_either (callKept_queueHold s) (callKept_setHeld (not_not.mp opened))

theorem callKept_heardText (h : Handed) (s : State) : CallKept s (heardText h s) := by
  unfold heardText
  split
  · exact callKept_flowTest s
  · exact callKept_askedHold s
  · exact callKept_askedHold s
  · exact .refl s

theorem callKept_takenHold (h : Handed) (s : State) : CallKept s (takenHold h s) := by
  unfold takenHold
  split
  · rename_i taken; exact (callKept_holdSet taken.2 _).before rfl rfl
  · exact .refl s

theorem callKept_takenGo (h : Handed) (s : State) : CallKept s (takenGo h s) := by
  unfold takenGo
  split
  · rename_i taken; exact callKept_holdSet taken.2 _
  · exact .refl s

theorem callKept_takenBreak (h : Handed) (s : State) : CallKept s (takenBreak h s) :=
  callKept_ite ((callKept_stopSending s).trans (callKept_notice _ _))

theorem callKept_takenPoll (h : Handed) (s : State) : CallKept s (takenPoll h s) := by
  unfold takenPoll
  refine callKept_ite ?_
  split
  · exact callKept_startRun _ _ s
  · exact callKept_requestOrDrop _ s

theorem callKept_takenWho (h : Handed) (s : State) : CallKept s (takenWho h s) := callKept_ite (callKept_requestOrDrop _ s)

theorem callKept_takenHereis (h : Handed) (s : State) : CallKept s (takenHereis h s) := by
  have captured (run : List Resolved) (x : State) : CallKept x (capture run x) := by
    unfold capture
    dsimp only
    split <;> exact .of_fields rfl rfl rfl rfl rfl
  exact callKept_ite ((callKept_notice _ s).trans (callKept_ite (captured _ _)))

theorem callKept_luHandOn (h : Handed) (s : State) : CallKept s (luHandOn h s) :=
  callKept_either (.refl s) (callKept_either (callKept_either (callKept_enterListenOnly s) (.of_eq rfl rfl))
    (callKept_ite (callKept_enterListenOnly s)))

theorem callKept_cmHandOn (tookView freed : Bool) (h : Handed) (s : State) : CallKept s (cmHandOn tookView freed h s) := by
  unfold cmHandOn
  split
  · split
    · exact callKept_ownCall h s
    · exact callKept_ite (callKept_enterOpen s)
    · exact .refl s
  · split
    · exact callKept_heardCall tookView h s
    · exact callKept_takenAccept h s
    · exact callKept_heardRefuse freed h s
    · exact callKept_heardClear freed h s
    · exact callKept_heardText h s
    · exact callKept_takenHold h s
    · exact callKept_takenGo h s
    · exact callKept_takenBreak h s
    · exact callKept_takenWho h s
    · exact callKept_takenHereis h s
    · exact callKept_takenPoll h s

theorem toIdle_view (filed : Bool) (n : Option Notice) (s : State) : (toIdle filed n s).cm.view = s.cm.view := by
  unfold toIdle
  dsimp only
  rw [(rest_of_fileCore (fileCore_tellIdle _)).1, (rest_of_fileCore (fileCore_finishCursor _)).1,
    (rest_of_fileCore (fileCore_noticeIf n _)).1]
  split
  · obtain ⟨_, _, _, _, _, _, view, _⟩ := leaveOpen_spec filed s (c := .idle) (by decide)
    exact view
  · rfl

theorem notice_view (n : Notice) (s : State) : (notice n s).cm.view = s.cm.view :=
  (cm_of_storeCore (storeCore_notice n s)).1

theorem heardRefuse_view (freed : Bool) (h : Handed) (s : State) : (heardRefuse freed h s).cm.view = s.cm.view := by
  unfold heardRefuse
  split
  · rfl
  · split_ifs
    · rw [toIdle_view]
    · rw [notice_view]
    · rfl
    · rfl

theorem heardClear_view (freed : Bool) (h : Handed) (s : State) : (heardClear freed h s).cm.view = s.cm.view := by
  unfold heardClear
  split
  · rfl
  · dsimp only
    split
    · split
      · rw [memberLeft, notice_view]
      · rfl
    · split
      · split
        · rw [toIdle_view]
        · rw [toIdle_view]
        · rw [toIdle_view]
        · split
          · rw [toIdle_view]
          · rfl
        · rfl
        · rfl
        · rfl
      · rfl

/-- The CM's part in a REFUSE or a CLEAR leaves the view as the telegram left it. -/
theorem cmHandOn_view {h : Handed} (kind : h.kind = .refuse ∨ h.kind = .clear) (tookView freed : Bool) (s : State) :
    (cmHandOn tookView freed h s).cm.view = s.cm.view := by
  unfold cmHandOn
  obtain kind | kind := kind
  · rw [kind]
    split
    · rfl
    · exact heardRefuse_view freed h s
  · rw [kind]
    split
    · rfl
    · exact heardClear_view freed h s

/-- The hand-on (R37): a telegram that leaves the view busy leaves it with the call, and one that frees it ends a record
that held it in the same act (R70). -/
theorem callKept_handOn (h : Handed) (s : State) : CallKept s (handOn h s) := by
  refine (callKept_luHandOn h s).trans ?_
  unfold handOn
  dsimp only
  generalize luHandOn h s = x
  generalize taken : takesView x.cm.view (viewAfter x.cm.view h) = took
  have heard (freed : Bool) (y : State) := callKept_cmHandOn took freed h y
  cases freed : freesView x.cm.view (viewAfter x.cm.view h) with
  | false =>
    obtain ⟨engaged, busy⟩ := viewAfter_not_freed freed
    have shown : CallKept x { x with cm.view := viewAfter x.cm.view h } := by
      refine ⟨id, fun inv => ?_⟩
      obtain ⟨free, ringing, silent⟩ := inOrder_viewAfter h (inOrder_of_callHoldsView inv)
      obtain ⟨_, _, _, opened, waits⟩ := inv
      exact ⟨free, ringing, silent, engaged ∘ opened, busy ∘ waits⟩
    rw [endFreed, if_neg (by simp)]
    exact shown.trans (heard false _)
  | true =>
    have view := cmHandOn_view (kind_of_freesView freed) took true { x with cm.view := viewAfter x.cm.view h }
    have ended : CallKept _ (endFreed true h (cmHandOn took true h { x with cm.view := viewAfter x.cm.view h })) :=
      callKept_ite ((callKept_lu _ _).trans (callKept_toIdle _ _ _))
    refine ⟨(ended.holds ∘ (heard true { x with cm.view := viewAfter x.cm.view h }).holds), fun inv => ?_⟩
    have order := inOrder_viewAfter h (inOrder_of_callHoldsView inv)
    rw [freesView, Bool.and_eq_true, decide_eq_true_eq, decide_eq_true_eq] at freed
    generalize cmHandOn took true h { x with cm.view := viewAfter x.cm.view h } = y at view
    replace view : y.cm.view = viewAfter x.cm.view h := view
    unfold endFreed
    split
    · refine callHoldsView_of_rests ?_ (by rw [toIdle_state]; rfl)
      rw [toIdle_view]; exact view ▸ order
    · rename_i rests
      refine callHoldsView_of_rests (view ▸ order) ?_
      simpa [view, freed.2] using rests

/-! ### Restart and the call's timers (R30, R54, R69, R75, R77, R93, R94, R97) -/

/-- The view goes FREE, and the record asks nothing of it. -/
theorem callKept_freeView {s : State} (rests : holdsView s.cm.call.state = false) : CallKept s (freeView s) :=
  ⟨id, fun _ => callHoldsView_of_rests (s := freeView s) inOrder_reset rests⟩

theorem callKept_cmRestart (s : State) : CallKept s (cmRestart s) := by
  have ended : CallKept s (if s.cm.call.state = .opened then leaveOpen .idle false s else flushSend (setCallState .idle s)) := by
    split
    · exact callKept_leaveOpen false s (.inl rfl)
    · rename_i state
      exact (callKept_rests state (.inl rfl)).trans (callKept_flushSend _)
  refine ended.trans (callKept_freeView ?_)
  split
  · rw [leaveOpen_state]; rfl
  · rw [(call_of_storeCore (storeCore_flushSend _)).1]; rfl

theorem callKept_restartAll (lines : PresenceLines) (s : State) : CallKept s (restartAll lines s) := by
  have emptied (x : State) : CallKept x (kuRestart x) := (callKept_discardEdit _).after rfl rfl
  have sampled (x : State) : CallKept x (tapeRestart lines x) := (callKept_endRun _).after rfl rfl
  have told (x : State) : CallKept x (auRestart x) := (callKept_abandonCursor x).trans (callKept_tellIdle _)
  have listens (p : Option Addr) (x : State) : CallKept x (luRestart p x) := by cases p <;> exact .of_eq rfl rfl
  have first : CallKept s (luEmpty (setScan restartPosition ⟨.down, 0⟩ (pressReport s))) := .of_eq rfl rfl
  exact (((((first.trans (callKept_cmRestart _)).trans (emptied _)).trans (sampled _)).trans (told _)).trans
    (listens _ _)).trans ((callKept_nextPrintOp _).trans (callKept_nextPunchOp _))

theorem callKept_countDiscarded (units : List Bool) (s : State) : CallKept s (countDiscarded units s) :=
  callKept_either (.refl s) (callKept_either ((callKept_lineBroken _).after rfl rfl) (.of_eq rfl rfl))

/-- The end of the wait for an answer keeps the holds in OPEN. -/
theorem holds_answerWaitEnds (s : State) : holdsOnlyInOpen s → holdsOnlyInOpen (answerWaitEnds s) := by
  have ended : CallKept s (answerWaitEnds s) := by
    unfold answerWaitEnds
    split
    · exact callKept_toIdle _ _ s
    · exact (callKept_lu _ s).trans (callKept_toIdle _ _ _)
    · exact .refl s
  exact ended.holds

theorem answerWaitEnds_rests (s : State) (state : s.cm.call.state ≠ .opened) :
    holdsView (answerWaitEnds s).cm.call.state = false := by
  unfold answerWaitEnds
  split
  · rw [toIdle_state]; rfl
  · rw [toIdle_state]; rfl
  · rename_i awaiting ringing
    cases now : s.cm.call.state with
    | opened => exact absurd now state
    | awaiting => exact absurd now awaiting
    | ringing => exact absurd now ringing
    | _ => rfl

theorem answerWaitEnds_view (s : State) : (answerWaitEnds s).cm.view = s.cm.view := by
  unfold answerWaitEnds
  split <;> simp only [toIdle_view]

/-- A timer of the view ends the wait for an answer, at a record that is not OPEN. -/
theorem callKept_answerWaitEnds {s : State} (state : s.cm.call.state ≠ .opened) :
    CallKept s (answerWaitEnds (freeView s)) := by
  refine ⟨holds_answerWaitEnds (freeView s), fun _ => callHoldsView_of_rests ?_ (answerWaitEnds_rests _ state)⟩
  rw [answerWaitEnds_view]; exact inOrder_reset

theorem callKept_silence (s : State) : CallKept s (silence s) := by
  unfold silence
  dsimp only
  split
  · obtain ⟨state, set, held, since, _, _, view, _⟩ := leaveOpen_spec false (freeView s) (c := .idle) (by decide)
    have left : CallKept s (leaveOpen .idle false (freeView s)) :=
      ⟨fun _ => holdsOnlyInOpen_of_none held since set,
        fun _ => callHoldsView_of_rests (by rw [view]; exact inOrder_reset) (by rw [state]; rfl)⟩
    exact (((left.trans (callKept_requestOrDrop _ _)).trans (callKept_notice _ _)).trans
      (callKept_finishCursor _)).trans (callKept_tellIdle _)
  · rename_i state; exact callKept_answerWaitEnds state

theorem callKept_abandonCall (s : State) : CallKept s (abandonCall s) := by
  unfold abandonCall
  dsimp only
  split
  · have ended : CallKept (freeView { s with cm.breakTimer := none })
        (toIdle false (some .callAbandoned) (withdrawCall (freeView { s with cm.breakTimer := none }))) :=
      (callKept_lu _ _).trans (callKept_toIdle _ _ _)
    refine ⟨fun inv => ended.holds inv, fun _ => callHoldsView_of_rests ?_ (by rw [toIdle_state]; rfl)⟩
    rw [toIdle_view]; exact inOrder_reset
  · rename_i stays
    refine (callKept_freeView (s := { s with cm.breakTimer := none }) ?_).after rfl rfl
    show holdsView s.cm.call.state = false
    cases now : s.cm.call.state <;> first | rfl | simp [isAbandoned, now] at stays

theorem callKept_holdExpires (n : Station) (s : State) : CallKept s (holdExpires n s) := by
  have dropped : CallKept s { s with cm.call.holdSet := s.cm.call.holdSet.filter fun x => x.station ≠ n } := by
    refine ⟨fun inv => ?_, id⟩
    obtain ⟨timer, held, set⟩ := inv
    exact ⟨timer, held, fun some => set fun none => some (by rw [none]; rfl)⟩
  exact dropped.trans (callKept_notice _ _)

/-! ### The keyboard (R72, R92, R99 to R115) -/

theorem callKept_pressAt (p : BitVec 6) (k : KeyScan) (s : State) : CallKept s (pressAt p k s) := by
  have entered (j : Key) (x : State) : CallKept x (takePress j x) := by
    unfold takePress enterFifo
    split_ifs <;> exact .of_eq rfl rfl
  unfold pressAt pressTaken
  refine callKept_either (CallKept.after (x := setScan p k s) ?_ rfl rfl) (.of_eq rfl rfl)
  split
  · exact entered _ _
  · exact .refl _

/-- A number dialed, in a record outside OPEN (R72). -/
theorem callKept_placeCall (d : Addr) {s : State} (state : s.cm.call.state ≠ .opened) : CallKept s (placeCall d s) := by
  have calling : CallKept s (setCaller d (setCallState .calling s)) :=
    (callKept_rests state (.inr (.inr (.inl rfl)))).trans (.of_fields rfl rfl rfl rfl rfl)
  exact callKept_either (calling.trans (callKept_sendRequest _ _))
    ((callKept_toIdle _ _ s).trans (callKept_refuseKey _))

theorem callKept_endDialing {s : State} (state : s.cm.call.state ≠ .opened) : CallKept s (endDialing s) := by
  have refused : CallKept s (refuseKey (toIdle false none { s with ku.dial := [] })) :=
    ((callKept_toIdle _ _ _).trans (callKept_refuseKey _)).after rfl rfl
  unfold endDialing
  dsimp only
  split
  · exact refused
  · exact callKept_either refused ((callKept_placeCall _ (s := { s with ku.dial := [] }) state).after rfl rfl)

theorem callKept_dialKey (k : Key) {s : State} (state : s.cm.call.state ≠ .opened) : CallKept s (dialKey k s) := by
  unfold dialKey
  refine callKept_either (callKept_endDialing state) ?_
  split
  · exact callKept_either (.of_eq rfl rfl) (callKept_refuseKey s)
  · exact callKept_refuseKey s

theorem callKept_echoRun (echo : Bool) (run : List Cell) (s : State) : CallKept s (echoRun echo run s) :=
  callKept_ite (callKept_appendRun_getD (callKept_refuseKey s))

theorem callKept_dealtWith (k : Key) (s : State) : CallKept s (dealtWith k s) := .of_eq rfl rfl

theorem callKept_keyRuns (main : QueueName) (echo : Bool) (k : Key) (ch : Resolved) (s : State) :
    CallKept s (keyRuns main echo k ch s) := by
  unfold keyRuns
  refine callKept_either ?_ (.of_eq rfl rfl)
  split
  · rename_i appended
    exact ((callKept_appendRun appended).trans (callKept_echoRun _ _ _)).trans (callKept_dealtWith _ _)
  · exact (callKept_refuseKey s).trans (callKept_dealtWith _ _)

theorem callKept_commitLine (s : State) : CallKept s (commitLine s) := by
  unfold commitLine
  dsimp only
  refine callKept_either (.trans ?_ (callKept_signal _ _ _)) (callKept_refuseKey s)
  exact (callKept_startSendTimer _ _ s).before rfl rfl

theorem callKept_modeKey (k : Key) (ch : Resolved) (s : State) : CallKept s (modeKey k ch s) := by
  have refused : CallKept s (dealtWith k (refuseKey s)) := (callKept_refuseKey s).trans (callKept_dealtWith _ _)
  have edited : CallKept s (editKey k ch s) :=
    callKept_either ((callKept_commitLine s).trans (callKept_dealtWith _ _))
      (callKept_either (callKept_either (callKept_keyRuns _ _ _ _ s) refused)
        (callKept_either (.of_eq rfl rfl) refused))
  unfold modeKey
  split
  · exact callKept_either refused (callKept_either edited (callKept_keyRuns _ _ _ _ s))
  · exact callKept_either (callKept_keyRuns _ _ _ _ s) refused
  · exact callKept_either (callKept_keyRuns _ _ _ _ s) refused

theorem callKept_interpretChar (k : Key) (ch : Resolved) (s : State) : CallKept s (interpretChar k ch s) := by
  unfold interpretChar
  split
  · rename_i dialing
    exact (callKept_dialKey k (by rw [dialing]; decide)).trans (callKept_dealtWith _ _)
  · exact callKept_modeKey k ch s

theorem callKept_setMode (m : KeyMode) (s : State) : CallKept s (setMode m s) :=
  callKept_either (.of_eq rfl rfl) (callKept_refuseKey s)

theorem callKept_backspaceKey (s : State) : CallKept s (backspaceKey s) :=
  callKept_either (.of_eq rfl rfl) (callKept_refuseKey s)

theorem callKept_refuseByKey (s : State) : CallKept s (refuseByKey s) :=
  callKept_ite ((callKept_answerRefuse _ (ringAnswered s)).after rfl rfl)

theorem callKept_cancelDialing (s : State) : CallKept s (cancelDialing s) := (callKept_toIdle _ _ _).after rfl rfl

theorem callKept_takenRinging {f : State → State} {s : State} (h : CallKept s (f s)) : CallKept s (takenRinging f s) :=
  callKept_either h (callKept_refuseKey s)

theorem callKept_takenDialing {f : State → State} {s : State} (h : s.cm.call.state ≠ .opened → CallKept s (f s)) :
    CallKept s (takenDialing f s) := by
  unfold takenDialing
  split
  · rename_i dialing; exact h (by rw [dialing]; decide)
  · exact .of_eq rfl rfl

theorem callKept_requestDialing (s : State) : CallKept s (requestDialing s) := by
  unfold requestDialing
  split
  · rename_i idle
    exact (callKept_rests (by rw [idle]; decide) (.inr (.inl rfl))).trans (.of_fields rfl rfl rfl rfl rfl)
  · exact callKept_refuseKey s

theorem callKept_callKeyAct (read : CallState) (s : State) : CallKept s (callKeyAct read s) := by
  unfold callKeyAct
  split
  · exact callKept_takenDialing callKept_endDialing
  · exact callKept_takenRinging (callKept_ite ((callKept_answerAccept (setAutoAnswered false (ringAnswered s))).after rfl rfl))
  · exact callKept_requestDialing s

theorem callKept_requestClear (s : State) : CallKept s (requestClear s) := by
  unfold requestClear
  split
  · exact callKept_cancelDialing s
  · exact (callKept_lu _ s).trans (callKept_toIdle _ _ _)
  · rename_i awaiting
    exact (callKept_rests (by rw [awaiting]; decide) (.inr (.inr (.inr rfl)))).trans (callKept_sendRequest _ _)
  · exact callKept_openToClearing _ _ _ s
  · exact callKept_refuseByKey s
  · exact .refl s
  · exact .refl s

theorem callKept_clearKeyAct (read : CallState) (s : State) : CallKept s (clearKeyAct read s) := by
  unfold clearKeyAct
  split
  · exact .refl s
  · exact .refl s
  · exact callKept_takenDialing fun _ => callKept_cancelDialing s
  · exact callKept_takenRinging (callKept_refuseByKey s)
  · exact callKept_requestClear s

theorem callKept_whoKeyAct (s : State) : CallKept s (whoKeyAct s) := by
  unfold whoKeyAct
  split
  · exact callKept_requestWho _ s
  · exact callKept_requestWho _ s
  · exact callKept_refuseKey s

theorem callKept_hereisKeyAct (s : State) : CallKept s (hereisKeyAct s) := by
  unfold hereisKeyAct
  refine callKept_either ?_ (callKept_either (callKept_appendRun_getD (callKept_refuseKey s)) (callKept_refuseKey s))
  split
  · rename_i appended; exact (callKept_appendRun appended).trans (callKept_echoRun _ _ _)
  · exact callKept_refuseKey s

theorem callKept_breakKeyAct (s : State) : CallKept s (breakKeyAct s) :=
  callKept_either (callKept_either (callKept_stopSending s) (callKept_requestOrDrop _ s)) (callKept_refuseKey s)

theorem callKept_pollKeyAct (s : State) : CallKept s (pollKeyAct s) :=
  callKept_either (callKept_requestOrDrop _ s) (callKept_refuseKey s)

theorem callKept_readStartAct (s : State) : CallKept s (readStartAct s) := by
  unfold readStartAct
  refine callKept_either (callKept_refuseKey s) ?_
  split
  · exact callKept_startRun _ _ s
  · exact callKept_refuseKey s

theorem callKept_readStopAct (s : State) : CallKept s (readStopAct s) :=
  callKept_either (callKept_endRunWith _ s) (callKept_refuseKey s)

theorem callKept_filePrintAct (s : State) : CallKept s (filePrintAct s) := by
  unfold filePrintAct
  refine callKept_either (callKept_refuseKey s) ?_
  split
  · exact callKept_refuseKey s
  · exact callKept_either ((callKept_startReplay _ s).trans (callKept_auTests _)) (callKept_startReplay _ s)

theorem callKept_fileClearAct (s : State) : CallKept s (fileClearAct s) := by
  have cleared (rs : List FileRecord) : CallKept s (dropRecords rs s) := by
    rw [dropRecords_eq]; exact .of_eq rfl rfl
  exact ((cleared _).trans (callKept_signal _ _ _)).trans (callKept_fileChange _ _)

theorem callKept_attendKeyAct (s : State) : CallKept s (attendKeyAct s) :=
  callKept_either (.refl s) (callKept_attendRequest _ _ s)

/-! ### The answers of commands -/

/-- Whatever next state a command answers keeps the holds and the view with the call. -/
def AnswerCallKept (s : State) (r : Result) : Prop := ∀ t, r = .next t → CallKept s t

theorem answerCallKept_unmoved (s : State) : AnswerCallKept s (unmoved s) := by
  rintro t ⟨⟩
  exact .refl s

theorem answerCallKept_acted {s t : State} (h : CallKept s t) : AnswerCallKept s (acted t) := by
  rintro u ⟨⟩
  exact h.trans (callKept_settle t)

theorem answerCallKept_actIf {can : Bool} {f : State → State} {s : State} (h : CallKept s (f s)) :
    AnswerCallKept s (actIf can f s) := by
  unfold actIf
  split
  · exact answerCallKept_acted h
  · exact answerCallKept_unmoved s

theorem answerCallKept_expire {timer : Option Tick} {can : Bool} {f : State → State} {s : State}
    (h : ∀ x, CallKept x (f x)) : AnswerCallKept s (expire timer can f s) := by
  unfold expire
  split
  · exact answerCallKept_actIf ((callKept_elapse _ s).trans (h _))
  · exact answerCallKept_unmoved s

theorem answerCallKept_keyAct {k : Key} {f : State → State} {s : State} (h : ∀ x, CallKept x (f x)) :
    AnswerCallKept s (keyAct k f s) := answerCallKept_actIf ((h s).before rfl rfl)

theorem answerCallKept_breakLine (s : State) : AnswerCallKept s (breakLine s) := answerCallKept_actIf (callKept_lineBroken s)

theorem answerCallKept_readUnits {units : List Bool} {f : State → State} {s : State} (h : ∀ x, CallKept x (f x)) :
    AnswerCallKept s (readUnits units f s) := by
  unfold readUnits
  split
  · exact answerCallKept_breakLine s
  · exact answerCallKept_acted ((h (countUnits units s)).after rfl rfl)

theorem answerCallKept_transmitStart (s : State) : AnswerCallKept s (execTransmitStart s) := by
  unfold execTransmitStart
  dsimp only
  split
  · exact answerCallKept_actIf ((callKept_formText s).trans (callKept_startTelegram _ _))
  · exact answerCallKept_unmoved s

theorem answerCallKept_telegramTurn (t : Telegram) (s : State) : AnswerCallKept s (execTelegramTurn t s) := by
  unfold execTelegramTurn
  split
  · exact answerCallKept_readUnits (callKept_turnHeard _ t)
  · split
    · exact answerCallKept_readUnits fun _ => .of_eq rfl rfl
    · exact answerCallKept_unmoved s
  · exact answerCallKept_readUnits fun _ => .of_eq rfl rfl
  · exact answerCallKept_unmoved s
  · exact answerCallKept_unmoved s

theorem answerCallKept_malformedDiscard (t : Telegram) (s : State) : AnswerCallKept s (execMalformedDiscard t s) := by
  unfold execMalformedDiscard
  split
  · exact answerCallKept_readUnits fun _ => .of_eq rfl rfl
  · exact answerCallKept_unmoved s

theorem answerCallKept_telegramHandOn (slot : SlotUnits) (s : State) : AnswerCallKept s (execTelegramHandOn slot s) := by
  unfold execTelegramHandOn
  split
  · split
    · split
      · exact answerCallKept_breakLine s
      · exact answerCallKept_acted ((callKept_lu _ s).trans (callKept_handOn _ _))
    · exact answerCallKept_unmoved s
  · exact answerCallKept_unmoved s

theorem answerCallKept_arbitrationLoss (s : State) : AnswerCallKept s (execArbitrationLoss s) := by
  unfold execArbitrationLoss
  split
  · exact answerCallKept_acted (callKept_lu _ s)
  · exact answerCallKept_unmoved s

theorem answerCallKept_collision (s : State) : AnswerCallKept s (execCollision s) := by
  unfold execCollision
  split
  · rename_i x _
    dsimp only
    split
    · exact answerCallKept_readUnits fun y => (callKept_collide x { y with lu.spaceLeft := _ }).after rfl rfl
    · exact answerCallKept_acted (callKept_collide x s)
  · exact answerCallKept_unmoved s

theorem answerCallKept_attemptEnd (ackSpace : Bool) (s : State) : AnswerCallKept s (execAttemptEnd ackSpace s) := by
  unfold execAttemptEnd
  split
  · exact answerCallKept_actIf (callKept_endAttempt _ _ _ s)
  · exact answerCallKept_unmoved s

/-- A ring-wait timer runs in no call that is OPEN: its view is ENGAGED (R68, R70). -/
theorem answerCallKept_ringWaitExpiry (s : State) : AnswerCallKept s (execRingWaitExpiry s) := by
  intro t next
  unfold execRingWaitExpiry expire at next
  split at next
  · rename_i left timer
    cases next
    refine .trans ?_ (callKept_settle _)
    refine ⟨fun inv => holds_answerWaitEnds (freeView (elapse left s)) ((callKept_elapse left s).holds inv), fun inv => ?_⟩
    have waits : s.cm.call.state ≠ .opened := by
      obtain ⟨_, _, engaged, view, _⟩ := inv
      intro opened
      exact nomatch timer.symm.trans (engaged (view opened)).2
    exact (callKept_answerWaitEnds (by rw [elapse_callState]; exact waits)).view ((callKept_elapse left s).view inv)
  · cases next; exact .refl s

theorem answerCallKept_keyPress (key : KeySamples) (s : State) : AnswerCallKept s (execKeyPress key s) := by
  unfold execKeyPress
  split
  · exact answerCallKept_actIf (callKept_pressAt _ _ s)
  · exact answerCallKept_unmoved s

theorem answerCallKept_keyRelease (key : KeySamples) (s : State) : AnswerCallKept s (execKeyRelease key s) := by
  unfold execKeyRelease
  split
  · exact answerCallKept_acted (.of_eq rfl rfl)
  · exact answerCallKept_unmoved s

theorem answerCallKept_characterKey (s : State) : AnswerCallKept s (execCharacterKey s) := by
  unfold execCharacterKey
  split
  · exact answerCallKept_actIf (callKept_interpretChar _ _ s)
  · exact answerCallKept_unmoved s

theorem answerCallKept_keyHeadRetry (s : State) : AnswerCallKept s (execKeyHeadRetry s) := by
  unfold execKeyHeadRetry
  split
  · exact answerCallKept_actIf (callKept_interpretChar _ _ s)
  · exact answerCallKept_unmoved s

theorem answerCallKept_puTakeCell (s : State) : AnswerCallKept s (execPuTakeCell s) := by
  unfold execPuTakeCell
  split
  · exact answerCallKept_actIf (callKept_takePrintCell _ _ s)
  · exact answerCallKept_unmoved s

theorem answerCallKept_punchTakeCell (s : State) : AnswerCallKept s (execPunchTakeCell s) := by
  unfold execPunchTakeCell
  split
  · exact answerCallKept_actIf (callKept_takePunchCell _ s)
  · exact answerCallKept_unmoved s

theorem answerCallKept_readerCycleStart (s : State) : AnswerCallKept s (execReaderCycleStart s) := by
  unfold execReaderCycleStart
  split
  · exact answerCallKept_actIf (callKept_readerStep _ s)
  · exact answerCallKept_unmoved s

theorem answerCallKept_readerResume (s : State) : AnswerCallKept s (execReaderResume s) := by
  unfold execReaderResume
  split
  · exact answerCallKept_actIf ((callKept_readerGoOn _ _).after rfl rfl)
  · exact answerCallKept_unmoved s

/-! ### Every command -/

theorem callKept_endLoad (result : Option Loaded) (inputs : InputLines) (s : State) :
    CallKept s (endLoad result inputs s) := by
  have first (x : State) : CallKept x (firstAttendance x) := (callKept_ite (callKept_attendRequest _ _ x)).before rfl rfl
  cases result with
  | some ld => exact (first _).after rfl rfl
  | none =>
    have told := callKept_notice .configFault (handOut false (loadDefaults s.cl.station) inputs s)
    have listens (x : State) : CallKept x (enterListen x) := .of_eq rfl rfl
    exact ((told.trans (listens _)).trans (first _)).after rfl rfl

/-- Every command but RESET_ASSERT keeps the holds and the view with the call. -/
theorem exec_keepsCall {c : Instr} {s : State} (noReset : c ≠ .resetAssert) :
    AnswerCallKept s (exec c s) := by
  cases c with
  | resetAssert => exact absurd rfl noReset
  | resetRelease straps lines => exact answerCallKept_actIf (.of_eq rfl rfl)
  | configReadDone image inputs => exact answerCallKept_actIf (callKept_endLoad _ _ s)
  | configNoAck inputs => exact answerCallKept_actIf (callKept_endLoad _ _ s)
  | configLoadTimeout inputs => exact answerCallKept_expire (callKept_endLoad _ _)
  | telegramTurn t => exact answerCallKept_telegramTurn t s
  | malformedDiscard t => exact answerCallKept_malformedDiscard t s
  | telegramHandOn slot => exact answerCallKept_telegramHandOn slot s
  | transmitStart => exact answerCallKept_transmitStart s
  | arbitrationLoss => exact answerCallKept_arbitrationLoss s
  | collision => exact answerCallKept_collision s
  | attemptEnd ackSpace => exact answerCallKept_attemptEnd ackSpace s
  | retryWaitExpiry which =>
    rw [exec, execRetryWaitExpiry]
    exact answerCallKept_expire fun x => callKept_lu _ x
  | lineBreak => exact answerCallKept_breakLine s
  | lineRestored => exact answerCallKept_actIf (callKept_lineRestored s)
  | listenQuietExpiry =>
    rw [exec, execListenQuietExpiry]
    exact answerCallKept_actIf ((callKept_elapse _ s).before rfl rfl)
  | listenWindowExpiry =>
    rw [exec, execListenWindowExpiry]
    exact answerCallKept_expire fun _ => (callKept_notice _ _).after rfl rfl
  | probeWaitExpiry =>
    rw [exec, execProbeWaitExpiry]
    exact answerCallKept_expire fun _ => .of_eq rfl rfl
  | sendTimerExpiry =>
    rw [exec, execSendTimerExpiry]
    exact answerCallKept_expire fun _ => .of_eq rfl rfl
  | silenceExpiry => exact answerCallKept_expire callKept_silence
  | ringWaitExpiry => exact answerCallKept_ringWaitExpiry s
  | breakTimerExpiry => exact answerCallKept_expire callKept_abandonCall
  | holdEntryExpiry station => exact answerCallKept_expire (callKept_holdExpires station)
  | heldSinceExpiry =>
    rw [exec, execHeldSinceExpiry]
    exact answerCallKept_expire fun _ => callKept_openToClearing _ _ _ _
  | keyPress key => exact answerCallKept_keyPress key s
  | keyHeadRetry => exact answerCallKept_keyHeadRetry s
  | characterKey => exact answerCallKept_characterKey s
  | ltrsKey =>
    rw [exec, execLtrsKey]
    exact answerCallKept_keyAct fun _ => .of_eq rfl rfl
  | figsKey =>
    rw [exec, execFigsKey]
    exact answerCallKept_keyAct fun _ => .of_eq rfl rfl
  | lineKey => exact answerCallKept_keyAct (callKept_setMode .line)
  | localKey => exact answerCallKept_keyAct (callKept_setMode .localMode)
  | tapeKey => exact answerCallKept_keyAct (callKept_setMode .tape)
  | backspace => exact answerCallKept_keyAct callKept_backspaceKey
  | callKey =>
    rw [exec, execCallKey]
    exact answerCallKept_keyAct fun x => callKept_callKeyAct x.ku.headRead x
  | clearKey =>
    rw [exec, execClearKey]
    exact answerCallKept_keyAct fun x => callKept_clearKeyAct x.ku.headRead x
  | whoKey => exact answerCallKept_keyAct callKept_whoKeyAct
  | hereisKey => exact answerCallKept_keyAct callKept_hereisKeyAct
  | breakKey => exact answerCallKept_keyAct callKept_breakKeyAct
  | pollKey => exact answerCallKept_keyAct callKept_pollKeyAct
  | readStart => exact answerCallKept_keyAct callKept_readStartAct
  | readStop => exact answerCallKept_keyAct callKept_readStopAct
  | filePrint => exact answerCallKept_keyAct callKept_filePrintAct
  | fileClear => exact answerCallKept_keyAct callKept_fileClearAct
  | attendKey => exact answerCallKept_keyAct callKept_attendKeyAct
  | restart lines =>
    rw [exec, execRestart]
    exact answerCallKept_actIf ((callKept_countDiscarded lines.units s).trans (callKept_restartAll lines.toPresenceLines _))
  | paperStateChange first second => exact answerCallKept_actIf (callKept_setPaper _ s)
  | puTakeCell => exact answerCallKept_puTakeCell s
  | printOpComplete => exact answerCallKept_expire callKept_completePrintOp
  | heatTimerExpiry => exact answerCallKept_expire fun _ => .of_eq rfl rfl
  | tapeStateChange first second => exact answerCallKept_actIf (callKept_setTape _ s)
  | punchTakeCell => exact answerCallKept_punchTakeCell s
  | punchOpComplete => exact answerCallKept_expire fun _ => (callKept_nextPunchOp _).after rfl rfl
  | tapeInChange level => exact answerCallKept_actIf (f := fun x => { x with tu.tapeIn := isHigh level }) (.of_eq rfl rfl)
  | readerCycleStart => exact answerCallKept_readerCycleStart s
  | readerCycleComplete row => exact answerCallKept_expire (callKept_completeCycle row)
  | readerResume => exact answerCallKept_readerResume s
  | runUpExpiry => exact answerCallKept_expire callKept_runUpEnds
  | senseWindowExpiry => exact answerCallKept_expire callKept_enterFaulted
  | motorSenseChange level => exact answerCallKept_actIf (callKept_senseTaken level s)
  | motorHoldExpiry =>
    rw [exec, execMotorHoldExpiry]
    exact answerCallKept_expire fun _ => .of_eq rfl rfl
  | faultWaitExpiry => exact answerCallKept_expire callKept_leaveFaulted
  | bellPulseExpiry =>
    rw [exec, execBellPulseExpiry]
    exact answerCallKept_expire fun _ => .of_eq rfl rfl
  | cadencePhaseExpiry =>
    rw [exec, execCadencePhaseExpiry]
    exact answerCallKept_expire fun _ => .of_eq rfl rfl
  | callLampFlashExpiry =>
    rw [exec, execCallLampFlashExpiry]
    exact answerCallKept_expire fun _ => .of_eq rfl rfl
  | attendSwitchChange level => exact answerCallKept_actIf (callKept_switchTaken level s)
  | attendTimerExpiry =>
    rw [exec, execAttendTimerExpiry]
    exact answerCallKept_expire fun _ => (callKept_attendRequest _ _ _).after rfl rfl
  | ringTimerExpiry => exact answerCallKept_expire callKept_answerByTimer
  | replayHeaderRetry =>
    rw [exec, execReplayHeaderRetry]
    exact answerCallKept_actIf ((callKept_tryHeader s).trans (callKept_finishCursor _))
  | stationClockTick => exact answerCallKept_expire fun _ => .of_eq rfl rfl
  | huntingSpaceRead afterUnits => exact answerCallKept_actIf (callKept_readSpace afterUnits s)
  | brokenSpaceRead => exact answerCallKept_actIf (callKept_readBrokenSpace s)
  | keyRelease key => exact answerCallKept_keyRelease key s

/-- Settles O11: every command keeps both, and device reset meets them. -/
theorem callHoldsTheView : Obligations.CallHoldsTheView := by
  have kept {s t : State} (next : step s = .next t) : CallKept s t ∨ ∃ p, t = { State.reset with pending := p } := by
    unfold step at next
    split at next
    · cases next; exact .inl (callKept_elapse 1 s)
    · rename_i c rest _
      by_cases reset : c = .resetAssert
      · subst reset
        cases next
        exact .inr ⟨rest, rfl⟩
      · exact .inl ((exec_keepsCall reset t next).after rfl rfl)
  refine ⟨fun s t inv next => ?_, fun s t inv next => ?_⟩
  · obtain act | ⟨p, rfl⟩ := kept next
    · exact act.holds inv
    · exact holdsOnlyInOpen_of_none rfl rfl rfl
  · obtain act | ⟨p, rfl⟩ := kept next
    · exact act.view inv
    · exact callHoldsView_of_rests inOrder_reset rfl

end Sys2Proof.Machine
end

section
/-!
The WHO, BREAK and POLL keys (R87, R89, R113, R115).
-/

namespace Sys2Proof.Machine

/-- A key that asks for a telegram: the request stands in the list, and the entry leaves the FIFO (R43, R101). -/
theorem dropHead_asked {k : Key} {rest : List Key} (r : Request) {s : State} (head : s.ku.fifo = k :: rest) :
    dropHead { s with lu := enterRequest r s.lu } =
      { s with lu := enterRequest r s.lu, ku := keyDealt s.ku rest s.cm.call.state } :=
  dropHead_of_storeCore (storeCore_enterRequest r s) head

/-- A group CALLER's BREAK key stops its own sending (R86, R87). -/
theorem stopSending_settled (s : State) :
    let t := settle (dropHead (stopSending s))
    t.cs.send.cellCount = 0 ∧ t.cs.send.inFlight = 0 ∧ t.cm.sendTimer = .stopped
      ∧ t.cm.call.state = s.cm.call.state
      ∧ t.cm.call.sendSeq = (if s.cs.send.inFlight = 0 then s.cm.call.sendSeq else s.cm.call.sendSeq + 1)
      ∧ t.cs.print = s.cs.print := by
  obtain ⟨store, timer, _, sequence, state, _⟩ := stopSending_spec s
  have send : (stopSending s).cs.send = { s.cs.send.emptied with inFlight := 0 } := by
    rw [store]; exact Store.queue_flushQueue s.cs .send
  have print : (stopSending s).cs.print = s.cs.print := by
    rw [store]; exact Store.queue_flushQueue_ne (st := s.cs) (n := .send) (m := .print) (by decide)
  obtain ⟨m, settled⟩ := settle_of_sendEmpty (s := dropHead (stopSending s)) (congrArg Queue.cellCount send)
  dsimp only
  rw [settled]
  exact ⟨congrArg Queue.cellCount send, congrArg Queue.inFlight send, timer, state, sequence, print⟩

/-- Settles O46, key by key, by the record's state. -/
theorem whoBreakAndPollKeys : Obligations.WhoBreakAndPollKeys := by
  unfold Obligations.WhoBreakAndPollKeys
  intro s rest load joined served dealt bell asks
  have enters : entersRequests s.lu = true := enters_of joined served
  have acts {k : Key} {f : State → State} (head : s.ku.fifo = k :: rest) :
      keyAct k f s = .next (settle (dropHead (f s))) := keyAct_of_head load head
  have asked {k : Key} (head : s.ku.fifo = k :: rest) (kind : Kind) (d : Addr) :
      dropHead { s with lu := enterRequest ⟨kind, d, [], .cm, s.cl.config.retryLimit⟩ s.lu } = asks kind d :=
    dropHead_asked _ head
  have rung {k : Key} (head : s.ku.fifo = k :: rest) : dropHead (refuseKey s) = { s with ku := dealt, mt := bell } :=
    dropHead_refuseKey rfl head
  refine ⟨fun head => ?_, fun head => ?_, fun head => ?_⟩
  · have key : exec .whoKey s = .next (settle (dropHead (whoKeyAct s))) := acts head
    have requested (d : Addr) : dropHead (requestWho d s) = asks .who d := by
      rw [requestWho, sendRequest_state enters]; exact asked head .who d
    rw [key]
    refine ⟨fun opened => ?_, fun idle => ?_, fun notOpen notIdle => ?_⟩
    · rw [whoKeyAct, opened, requested]
    · rw [whoKeyAct, idle, requested]; rfl
    · have act : whoKeyAct s = refuseKey s := by
        unfold whoKeyAct
        split
        · rename_i opened; exact absurd opened notOpen
        · rename_i idle; exact absurd idle notIdle
        · rfl
      rw [act, rung head]
  · have key : exec .breakKey s = .next (settle (dropHead (breakKeyAct s))) := acts head
    refine ⟨fun opened alone => ?_, fun opened group => ?_, fun notOpen => ?_⟩
    · have act : breakKeyAct s = requestOrDrop (request s .brk s.cm.call.partyAddr [] .cm) s := by
        rw [breakKeyAct, if_pos opened, if_neg (by rw [alone]; decide)]
      rw [key, act, requestOrDrop_entered enters, ← asked head]; rfl
    · have act : breakKeyAct s = stopSending s := by rw [breakKeyAct, if_pos opened, if_pos group]
      obtain ⟨cells, flight, timer, state, sequence, print⟩ := stopSending_settled s
      rw [key, act]
      exact ⟨_, rfl, cells, flight, timer, state.trans opened, sequence, print⟩
    · rw [key, breakKeyAct, if_neg notOpen, rung head]
  · have key : exec .pollKey s = .next (settle (dropHead (pollKeyAct s))) := acts head
    refine ⟨fun opened one => ?_, fun other => ?_⟩
    · rw [key, pollKeyAct, if_pos ⟨opened, one⟩, requestOrDrop_entered enters, ← asked head]; rfl
    · have refused : ¬(s.cm.call.state = .opened ∧ isIndividual s.cm.call = true) := by
        rintro ⟨opened, one⟩
        exact other.elim (absurd opened) fun group => Bool.false_ne_true (group.symm.trans one)
      rw [key, pollKeyAct, if_neg refused, rung head]

end Sys2Proof.Machine
end

section
/-!
What follows every act (R79, R133, R142, R150, R152 to R154): the TEXT formed, the demands reported, and the motor's part.
-/

namespace Sys2Proof.Machine

/-! ### The demands after the act (R133, R142, R150) -/

/-- Forming a TEXT leaves what the printer is offered. -/
theorem choose_formText (s : State) : choose (formText s) = choose s := by
  have head : (formText s).cs.headCell .print = s.cs.headCell .print := by
    have queue : (formText s).cs.queue .print = s.cs.queue .print := formText_print s
    simp only [Store.headCell, queue, cellAt_congr (formText_cells s)]
  have cursor : cursorCell (formText s) = cursorCell s := by
    simp only [cursorCell, recordIn, formText_au, chainCell_congr (formText_cells s) (formText_links s)]
  have offers : offered (formText s) = offered s := funext fun src => by
    cases src with
    | queue => exact head
    | cursor => exact cursor
  unfold choose atLineBoundary
  rw [formText_pu, offers]

theorem printerDemandNow_iff (s : State) :
    printerDemandNow s = true ↔
      s.pu.present = true ∧ s.pu.paper ≠ .out ∧ (s.pu.op ≠ none ∨ s.pu.work ≠ none ∨ choose s ≠ none) := by
  simp only [printerDemandNow, Bool.and_eq_true, Bool.or_eq_true, decide_eq_true_eq, Option.isSome_iff_ne_none, and_assoc,
    or_assoc]

theorem punchDemandNow_iff (s : State) :
    punchDemandNow s = true ↔
      s.tu.punchPresent = true ∧ s.tu.tape ≠ .out
        ∧ (s.tu.punchOp ≠ none ∨ s.tu.punchWork ≠ none ∨ s.cs.punch.cellCount ≠ 0) := by
  simp only [punchDemandNow, Bool.and_eq_true, Bool.or_eq_true, decide_eq_true_eq, Option.isSome_iff_ne_none, and_assoc,
    or_assoc]

theorem runIsRunning_iff (t : TapeUnit) : runIsRunning t = true ↔ ∃ r, t.run = some r ∧ r.state = .running := by
  unfold runIsRunning
  cases t.run <;> simp

theorem readerDemandNow_iff (s : State) :
    readerDemandNow s = true ↔ (∃ r, s.tu.run = some r ∧ r.state = .running) ∨ s.tu.cycle ≠ none := by
  rw [readerDemandNow, Bool.or_eq_true, runIsRunning_iff, Option.isSome_iff_ne_none]

/-- Whatever the motor does, the demands it holds are those reported (R152). -/
theorem refreshDemand_demands (s : State) :
    (refreshDemand s).mt.printerDemand = printerDemandNow s ∧ (refreshDemand s).mt.punchDemand = punchDemandNow s
      ∧ (refreshDemand s).mt.readerDemand = readerDemandNow s := by
  unfold refreshDemand
  split
  · unfold demandBegins; split <;> exact ⟨rfl, rfl, rfl⟩
  · unfold demandEnds; split <;> exact ⟨rfl, rfl, rfl⟩
  · exact ⟨rfl, rfl, rfl⟩

theorem demandHeld_refreshDemand (s : State) : demandHeld (refreshDemand s).mt = demandHeld (reportDemands s).mt := by
  obtain ⟨printer, punch, reader⟩ := refreshDemand_demands s
  rw [demandHeld, printer, punch, reader]
  rfl

/-! ### The motor's part, case by case (R152 to R155) -/

section
variable {s : State}

/-- Demand begins, and a STOPPED motor starts (R153). -/
theorem refreshDemand_starts (stopped : s.mt.motor = .stopped) (before : demandHeld s.mt = false)
    (after : demandHeld (reportDemands s).mt = true) : refreshDemand s = startMotor (reportDemands s) := by
  have motor : (reportDemands s).mt.motor = .stopped := stopped
  simp only [refreshDemand, demandBegins, before, after, motor]

/-- Demand begins, and a RUNNING motor's hold timer stops (R154). -/
theorem refreshDemand_runsOn (running : s.mt.motor = .running) (before : demandHeld s.mt = false)
    (after : demandHeld (reportDemands s).mt = true) :
    refreshDemand s = { reportDemands s with mt := { (reportDemands s).mt with hold := none } } := by
  have motor : (reportDemands s).mt.motor = .running := running
  simp only [refreshDemand, demandBegins, before, after, motor]

/-- Demand ends, and a RUNNING motor's hold timer starts (R154). -/
theorem refreshDemand_holds (running : s.mt.motor = .running) (before : demandHeld s.mt = true)
    (after : demandHeld (reportDemands s).mt = false) :
    refreshDemand s =
      { reportDemands s with mt := { (reportDemands s).mt with hold := some (sec s.cl.config.motorHold) } } := by
  have motor : (reportDemands s).mt.motor = .running := running
  simp only [refreshDemand, demandEnds, before, after, motor, holdFull, reportDemands_cl]

/-- In every other case the motor does nothing (R152 to R155). -/
theorem refreshDemand_reports
    (other : demandHeld s.mt = demandHeld (reportDemands s).mt ∨ s.mt.motor = .starting ∨ s.mt.motor = .faulted
      ∨ s.mt.motor = .stopped ∧ demandHeld s.mt = true) : refreshDemand s = reportDemands s := by
  unfold refreshDemand
  split
  · rename_i before after
    have motor : s.mt.motor = .starting ∨ s.mt.motor = .faulted := by
      rw [before, after] at other
      simpa using other
    unfold demandBegins
    rw [reportDemands_motor]
    rcases motor with motor | motor <;> rw [motor]
  · rename_i before after
    have motor : s.mt.motor = .starting ∨ s.mt.motor = .faulted ∨ s.mt.motor = .stopped := by
      rw [before, after] at other
      simpa using other
    unfold demandEnds
    rw [reportDemands_motor]
    rcases motor with motor | motor | motor <;> rw [motor]
  · rfl

/-- The fault wait stops where the motor starts, and nowhere else. -/
theorem refreshDemand_faultWait (s : State) :
    (refreshDemand s).mt.faultWait =
      if s.mt.motor = .stopped ∧ (refreshDemand s).mt.motor = .starting then none else s.mt.faultWait := by
  by_cases stopped : s.mt.motor = .stopped
  · by_cases begins : demandHeld s.mt = false ∧ demandHeld (reportDemands s).mt = true
    · rw [refreshDemand_starts stopped begins.1 begins.2, if_pos ⟨stopped, rfl⟩]
      rfl
    · have other : demandHeld s.mt = demandHeld (reportDemands s).mt ∨ s.mt.motor = .stopped ∧ demandHeld s.mt = true := by
        cases before : demandHeld s.mt with
        | true => exact .inr ⟨stopped, rfl⟩
        | false => exact .inl (Bool.eq_false_iff.mpr fun after => begins ⟨before, after⟩).symm
      rw [refreshDemand_reports (by tauto), if_neg (by rw [reportDemands_motor, stopped]; simp)]
      rfl
  · rw [if_neg fun both => stopped both.1]
    exact (refreshDemand_motor stopped).2.2.2.1

end

/-- Settles O4. -/
theorem settleActsOnDemandOnly : Obligations.SettleActsOnDemandOnly := by
  unfold Obligations.SettleActsOnDemandOnly
  refine fun s => ⟨settle_of_not_loaded, fun load => ?_⟩
  have settled : settle s = refreshDemand (formText s) := if_pos load
  have mt : (formText s).mt = s.mt := formText_mt s
  dsimp only
  rw [settled]
  obtain ⟨printer, punch, reader⟩ := refreshDemand_demands (formText s)
  obtain ⟨pulses, cadence, flash, sense, switch⟩ := refreshDemand_bell (formText s)
  have wait := refreshDemand_faultWait (formText s)
  have held := demandHeld_refreshDemand (formText s)
  refine ⟨refreshDemand_lu _, refreshDemand_cm _, refreshDemand_cs _, by simp, by simp, by simp, by simp, by simp, by simp,
    ?_, ?_, ?_, by rw [pulses, mt], by rw [cadence, mt], by rw [flash, mt], by rw [wait, mt], by rw [sense, mt],
    by rw [switch, mt], fun stopped before after => ?_, fun running before after => ?_, fun running before after => ?_,
    fun other => ?_⟩
  · rw [printer, printerDemandNow_iff, choose_formText, formText_pu]
  · rw [punch, punchDemandNow_iff, formText_tu, formText_punch]
  · rw [reader, readerDemandNow_iff, formText_tu]
  · rw [← mt] at stopped before
    rw [refreshDemand_starts stopped before (held.symm.trans after)]
    refine ⟨rfl, rfl, rfl, ?_⟩
    show (if senseAssigned (reportDemands (formText s)) = true then _ else _) = _
    rw [senseAssigned, reportDemands_cl, formText_cl]
    rfl
  · rw [← mt] at running before
    rw [refreshDemand_runsOn running before (held.symm.trans after), ← mt]
    exact ⟨running, rfl, rfl, rfl⟩
  · rw [← mt] at running before
    rw [refreshDemand_holds running before (held.symm.trans after), ← mt, formText_cl]
    exact ⟨running, rfl, rfl, rfl⟩
  · rw [held, ← mt] at other
    rw [refreshDemand_reports other, ← mt]
    exact ⟨rfl, rfl, rfl, rfl⟩

end Sys2Proof.Machine
end

section
/-!
The CALL key (R72, R101, R110, R112, R165): dialing begun, ended, refused; the answer to a call that rings.
-/

namespace Sys2Proof.Machine

theorem exec_callKey {s : State} {rest : List Key} (load : loaded s = true) (head : s.ku.fifo = .call :: rest) :
    exec .callKey s = .next (settle (dropHead (callKeyAct s.ku.headRead s))) := by
  rw [exec, execCallKey, keyAct_of_head load head]
  rfl

/-- Dialing begun: the record is DIALING with an empty dial buffer, the view, the store and the mechanisms as they were
(R72). -/
theorem beginDialing_settled {s : State} {rest : List Key} (head : s.ku.fifo = .call :: rest) :
    let t := settle (dropHead (beginDialing s))
    t.cm.call.state = .dialing ∧ t.ku.dial = [] ∧ t.ku.fifo = rest ∧ t.cm.view = s.cm.view ∧ t.cs = s.cs ∧ t.lu = s.lu
      ∧ t.tu = s.tu ∧ t.pu = s.pu := by
  obtain ⟨m, settled⟩ := settle_of_not_open (s := dropHead (beginDialing s)) (by show CallState.dialing ≠ .opened; decide)
  dsimp only
  rw [settled]
  exact ⟨rfl, rfl, congrArg List.tail head, rfl, rfl, rfl, rfl, rfl⟩

/-- The CALL key as the answer to a call that rings (R165). -/
theorem answerByKey_eq {s : State} (rings : s.au.ring = .ringing) (joined : s.lu.joinState = .joined)
    (served : s.lu.restartClear = false) :
    answerByKey s =
      { setAutoAnswered false (ringAnswered s) with
        cm.call.answer := .acceptSent
        lu := enterRequest ⟨.accept, s.cm.call.partyAddr, [], .cm, s.cl.config.retryLimit⟩ s.lu } := by
  rw [answerByKey, if_pos rings, answerAccept]
  exact sendRequest_state (enters_of joined served)

/-- The record of a call asked for (R71, R72). -/
theorem placeCall_free {d : Addr} {s : State} (free : s.cm.view.state = .free) (joined : s.lu.joinState = .joined)
    (served : s.lu.restartClear = false) :
    placeCall d s =
      { setCaller d (setCallState .calling s) with
        lu := enterRequest ⟨.call, d, [], .cm, s.cl.config.retryLimit⟩ s.lu } := by
  rw [placeCall, if_pos free]
  exact sendRequest_state (s := setCaller d (setCallState .calling s)) (enters_of joined served)

theorem enterRequest_nil (r : Request) {l : LineUnit} (empty : l.control = []) :
    (enterRequest r l).control = [ControlEntry.fresh r] := by simp [enterRequest, empty]

/-! ### The end of dialing (R72, R110) -/

/-- The state in which the CM takes the end of dialing: the KU has emptied its buffer (R110). -/
def undialed (s : State) : State := { s with ku.dial := [] }

/-- No number, the own number, or one above 63: refused (R110). -/
theorem endDialing_refused {s : State}
    (bad : s.ku.dial = [] ∨ ∃ n, dialed s.ku.dial = some n ∧ (63 < n ∨ n = s.cl.station.toNat)) :
    endDialing s = refuseKey (toIdle false none (undialed s)) := by
  unfold endDialing
  rcases bad with none | ⟨n, number, wrong⟩
  · rw [none]; rfl
  · rw [number]
    refine if_pos (wrong.imp_right fun own => ?_)
    show BitVec.ofNat 6 n = addrOf s.cl.station
    rw [own]
    exact BitVec.eq_of_toNat_eq (by simp [addrOf])

/-- An address of another: the call is placed (R72). -/
theorem endDialing_address {s : State} {d : Addr} (number : dialed s.ku.dial = some d.toNat)
    (other : d ≠ addrOf s.cl.station) : endDialing s = placeCall d (undialed s) := by
  have address : BitVec.ofNat 6 d.toNat = d := BitVec.eq_of_toNat_eq (by simp)
  unfold endDialing
  rw [number]
  dsimp only
  rw [address, if_neg]
  · rfl
  · rintro (above | own)
    · have := d.isLt; omega
    · exact other own

/-- What a dialing that ends in a refusal leaves: the record IDLE, the bell, and the notice in PRINT if there is one. -/
theorem dialingRefused_settled {s : State} {rest : List Key} (n : Option Notice) (dialing : s.cm.call.state = .dialing)
    (head : s.ku.fifo = .call :: rest) :
    let t := settle (dropHead (refuseKey (toIdle false n (undialed s))))
    t.cm.call.state = .idle ∧ t.cm.view = s.cm.view ∧ t.ku.dial = [] ∧ t.ku.fifo = rest
      ∧ t.mt.pulses = s.mt.pulses ++ [⟨.keyboard, ms 100⟩] ∧ t.lu.control = s.lu.control ∧ prints s t (runIf n) := by
  have notOpen : (undialed s).cm.call.state ≠ .opened := fun opened => nomatch dialing.symm.trans opened
  have core : callCore (toIdle false n (undialed s)) = callCore (undialed s) := callCore_toIdle _ _ _
  obtain ⟨cm, lu, _⟩ := toIdle_of_not_open false n notOpen
  obtain ⟨_, fifo, _, _, _, _, dial⟩ := ku_of_callCore core
  obtain ⟨_, _, _, _, _, _, _, _, pulses, _⟩ := mt_of_callCore core
  have told : prints s (settle (toIdle false n (undialed s))) (runIf n) := prints_toIdle n rfl rfl rfl notOpen
  unfold prints at told ⊢
  rw [queueCells_settle _ (by decide)] at told
  dsimp only
  generalize toIdle false n (undialed s) = x at cm lu fifo dial pulses told ⊢
  rw [queueCells_settle _ (by decide), settle_dropHead_call, settle_dropHead_view, settle_dropHead_dial,
    settle_dropHead_lu, settle_ku, (settle_bell _).1]
  refine ⟨?_, ?_, dial, ?_, ?_, ?_, told⟩
  · show x.cm.call.state = _
    rw [cm]
  · show x.cm.view = _
    rw [cm]; rfl
  · show x.ku.fifo.tail = rest
    rw [fifo]; exact congrArg List.tail head
  · show x.mt.pulses ++ _ = _
    rw [pulses]; rfl
  · show x.lu.control = _
    rw [lu]; rfl

/-- The record after the end of dialing with an address, the view FREE and the LU JOINED (R71, R72). -/
theorem placeCall_settled {s : State} {d : Addr} {rest : List Key} (head : s.ku.fifo = .call :: rest)
    (free : s.cm.view.state = .free) (joined : s.lu.joinState = .joined) (served : s.lu.restartClear = false) :
    let t := settle (dropHead (placeCall d (undialed s)))
    t.cm.call.state = .calling ∧ t.cm.call.role = some .caller ∧ t.cm.call.callAddr = d ∧ t.cm.call.partyAddr = d
      ∧ t.cm.call.partyStation = (if d.toNat < 32 then some (d.setWidth 5) else none)
      ∧ t.cm.call.route = s.cl.config.windows[0].route
      ∧ t.lu.control = (enterRequest ⟨.call, d, [], .cm, s.cl.config.retryLimit⟩ s.lu).control
      ∧ t.ku.dial = [] ∧ t.ku.fifo = rest := by
  have placed := placeCall_free (d := d) (s := undialed s) free joined served
  dsimp only
  rw [placed, settle_dropHead_call, settle_dropHead_lu, settle_dropHead_dial, settle_ku]
  refine ⟨rfl, rfl, rfl, rfl, ?_, rfl, rfl, rfl, congrArg List.tail head⟩
  show (if isGroup d = true then none else some (stationOf d)) = _
  by_cases individual : d.toNat < 32
  · rw [if_neg fun group => (isGroup_iff d).mp group individual, if_pos individual]; rfl
  · rw [if_pos ((isGroup_iff d).mpr individual), if_neg individual]

/-- Settles O44, by the state as read and as found. -/
theorem callKeyActs : Obligations.CallKeyActs := by
  unfold Obligations.CallKeyActs
  intro s rest load head
  have run := exec_callKey load head
  dsimp only
  have rung (act : callKeyAct s.ku.headRead s = refuseKey s) :
      exec .callKey s = .next (settle { s with
        ku := keyDealt s.ku rest s.cm.call.state, mt.pulses := s.mt.pulses ++ [⟨.keyboard, ms 100⟩] }) := by
    rw [run, act, dropHead_refuseKey rfl head]
  refine ⟨fun notDialing notRinging => ?_, fun read => ?_, fun read => ?_, rfl, fun _ _ _ => ⟨rfl, rfl⟩⟩
  · have act : callKeyAct s.ku.headRead s = requestDialing s := by
      unfold callKeyAct
      split
      · rename_i dialing; exact absurd dialing notDialing
      · rename_i ringing; exact absurd ringing notRinging
      · rfl
    refine ⟨fun idle => ⟨_, run, ?_⟩, fun busy => rung (act.trans (requestDialing_refused busy))⟩
    rw [act, requestDialing_idle idle]
    exact beginDialing_settled head
  · have act : callKeyAct s.ku.headRead s = takenRinging answerByKey s := by rw [read]; rfl
    refine ⟨fun ringing rings joined served => ⟨_, run, ?_⟩, fun ringing answered => ?_, fun moved => ?_⟩
    · obtain ⟨e, mem, kind, _⟩ := mem_enterRequest
        (r := ⟨.accept, s.cm.call.partyAddr, [], .cm, s.cl.config.retryLimit⟩) rfl s.lu
      rw [act, takenRinging_ringing _ ringing, answerByKey_eq rings joined served, settle_dropHead_call,
        settle_dropHead_au, settle_dropHead_lu, (settle_bell _).2.1]
      exact ⟨ringing, rfl, rfl, rfl, rfl, rfl, e, mem, kind⟩
    · have same : answerByKey s = s := if_neg answered
      rw [run, act, takenRinging_ringing _ ringing, same, dropHead_of_storeCore rfl head]
      rfl
    · exact rung (act.trans (takenRinging_refused _ moved))
  · have act : callKeyAct s.ku.headRead s = takenDialing endDialing s := by rw [read]; rfl
    refine ⟨fun d dialing number other free joined served empty => ⟨_, run, ?_⟩, fun dialing bad => ⟨_, run, ?_⟩,
      fun d dialing number other busy => ⟨_, run, ?_⟩, fun moved => ?_⟩
    · rw [act, takenDialing_dialing _ dialing, endDialing_address number other]
      obtain ⟨state, role, callAddr, partyAddr, station, route, control, dial, fifo⟩ :=
        placeCall_settled (d := d) head free joined served
      rw [enterRequest_nil _ empty] at control
      exact ⟨state, role, callAddr, partyAddr, station, route, control, dial, fifo⟩
    · rw [act, takenDialing_dialing _ dialing, endDialing_refused bad]
      obtain ⟨state, view, dial, fifo, pulses, control, _⟩ := dialingRefused_settled none dialing head
      exact ⟨state, view, dial, fifo, pulses, control⟩
    · have engaged : placeCall d (undialed s) = refuseKey (toIdle false (some .lineEngaged) (undialed s)) := if_neg busy
      rw [act, takenDialing_dialing _ dialing, endDialing_address number other, engaged]
      exact dialingRefused_settled (some .lineEngaged) dialing head
    · rw [run, act, takenDialing_moved _ moved]
      simp only [dropHead, readHead, head, List.tail_cons]

end Sys2Proof.Machine
end

section
/-!
ACCEPT opens the call (R75, R77, R78, R101, R165, R167).
-/

namespace Sys2Proof.Machine

/-- The state in which a call that opens is announced: the record OPEN, its sequences and holds afresh, the view its own
(R70, R78). -/
def openedRecord (s : State) : State := engageView (openFields (setCallState .opened s))

/-- What a call that opens as `caller` has in the record and the view. -/
theorem openedRecord_eq {s : State} {caller : Option Station} (calls : viewCaller s = caller)
    (notOpen : s.cm.call.state ≠ .opened) :
    openedRecord s =
      { s with
        cm := { s.cm with
          view := ⟨.engaged, caller, some s.cm.call.callAddr, none, some (sec 120)⟩
          call := { s.cm.call with
            state := .opened, sendSeq := 1, recvSeq := 0, holdSet := [], heldByMe := false, heldSince := none } }
        ku.retryDue := s.ku.retryDue || s.ku.headWaiting
        au.ring := .none
        au.ringTimer := none
        mt.cadence := none
        mt.flash := none } := by
  subst calls
  rw [openedRecord, setCallState_opened notOpen]
  rfl

/-- A call opens with its notice, and the AU may ask for a WHO (R78, R167); a MEMBER's is not announced. -/
theorem enterOpen_announced {s : State} (notMember : s.cm.call.role ≠ some .member) :
    let told := notice (.callOpen (partyNumber s)) (openedRecord s)
    enterOpen s =
      if s.cm.call.role = some .called ∧ told.au.autoAnswered ∧ told.cl.config.autoWho then
        requestWho told.cm.call.partyAddr told
      else told := by
  have role : (notice (.callOpen (partyNumber s)) (openedRecord s)).cm.call.role = s.cm.call.role :=
    notice_told (fun u => u.cm.call.role) (fun _ => rfl) _ _
  have announced : (if (openedRecord s).cm.call.role = some .member then openedRecord s
      else notice (.callOpen (partyNumber (openedRecord s))) (openedRecord s)) =
        notice (.callOpen (partyNumber s)) (openedRecord s) := if_neg notMember
  unfold enterOpen
  dsimp only
  rw [← openedRecord, announced, role]

/-- The caller's call opens: no WHO is asked for (R167). -/
theorem enterOpen_ofCaller {s : State} (caller : s.cm.call.role = some .caller) :
    enterOpen s = notice (.callOpen (partyNumber s)) (openedRecord s) := by
  have opens := enterOpen_announced (s := s) (by rw [caller]; decide)
  dsimp only at opens
  rw [opens, caller, if_neg fun asks => nomatch asks.1]

/-- A notice touches the keyboard and the tape unit in what is due after a release alone (R28, R106). -/
theorem notice_due (n : Notice) (s : State) :
    (notice n s).ku = { s.ku with retryDue := (notice n s).ku.retryDue }
      ∧ (notice n s).tu = { s.tu with resumeDue := (notice n s).tu.resumeDue } := by
  have ku : { (notice n s).ku with retryDue := false } = { s.ku with retryDue := false } :=
    notice_told (fun u => { u.ku with retryDue := false }) (fun _ => rfl) n s
  have tu : { (notice n s).tu with resumeDue := false } = { s.tu with resumeDue := false } :=
    notice_told (fun u => { u.tu with resumeDue := false }) (fun _ => rfl) n s
  exact ⟨congrArg (fun k : KeyboardUnit => { k with retryDue := (notice n s).ku.retryDue }) ku,
    congrArg (fun k : TapeUnit => { k with resumeDue := (notice n s).tu.resumeDue }) tu⟩

/-- The record of a call that the ACCEPT of its party opens, after the notice. -/
theorem enterOpen_awaiting {s : State} (caller : s.cm.call.role = some .caller) (awaiting : s.cm.call.state = .awaiting) :
    let t := settle (enterOpen s)
    t.cm.call.state = .opened ∧ t.cm.call.sendSeq = 1 ∧ t.cm.call.recvSeq = 0 ∧ t.cm.call.holdSet = []
      ∧ t.cm.view = ⟨.engaged, some s.cl.station, some s.cm.call.callAddr, none, some (sec 120)⟩
      ∧ t.cm.call.route = s.cm.call.route ∧ t.cm.call.partyAddr = s.cm.call.partyAddr
      ∧ t.ku = { s.ku with retryDue := t.ku.retryDue } ∧ t.tu = { s.tu with resumeDue := t.tu.resumeDue } := by
  have calls : viewCaller s = some s.cl.station := if_pos caller
  have keeps {α : Type} (g : State → α) (hidden : ∀ u, g (eventCore u) = g u) :=
    notice_told g hidden (.callOpen (partyNumber s)) (openedRecord s)
  obtain ⟨ku, tu⟩ := notice_due (.callOpen (partyNumber s)) (openedRecord s)
  rw [openedRecord_eq calls (by rw [awaiting]; decide)] at keeps ku tu
  dsimp only
  rw [settle_call, settle_view, settle_ku, settle_tu, enterOpen_ofCaller caller,
    openedRecord_eq calls (by rw [awaiting]; decide)]
  exact ⟨keeps (fun u => u.cm.call.state) fun _ => rfl, keeps (fun u => u.cm.call.sendSeq) fun _ => rfl,
    keeps (fun u => u.cm.call.recvSeq) fun _ => rfl, keeps (fun u => u.cm.call.holdSet) fun _ => rfl,
    keeps (fun u => u.cm.view) fun _ => rfl, keeps (fun u => u.cm.call.route) fun _ => rfl,
    keeps (fun u => u.cm.call.partyAddr) fun _ => rfl, ku, tu⟩

/-- An ACCEPT taken in AWAITING (R75). -/
theorem exec_acceptTaken {s : State} {f : Framed} {slot : SlotUnits} (taken : holdsTaken s .accept f)
    (whole : unbroken (turnUnits slot) s) (awaiting : s.cm.call.state = .awaiting) :
    exec (.telegramHandOn slot) s = .next (settle (enterOpen (handedBase false slot .accept f s))) := by
  have state : (handedBase false slot .accept f s).cm.call.state = .awaiting := awaiting
  have opens (h : Handed) (took : h.taken = true) :
      takenAccept h (handedBase false slot .accept f s) = enterOpen (handedBase false slot .accept f s) := by
    rw [takenAccept, if_pos took, state]
  rw [exec_takenHandOn taken whole (by decide) (by decide)]
  refine congrArg (fun x => Host.Outcome.next (settle x)) ?_
  exact opens ⟨.accept, f.telegram, f.run, true, false, false, true, f.result⟩ rfl

/-- This station's own ACCEPT, answered, not withdrawn, in RINGING (R77). -/
theorem exec_acceptAnswered {s : State} {f : Framed} {slot : SlotUnits} (receive : s.lu.receive = .framing true false (some f))
    (whole : unbroken (turnUnits slot) s) (kind : validKind f.telegram = some .accept) (stays : slotWithdrawn s = false)
    (joined : s.lu.joinState = .joined) (answered : s.lu.ackRead.getD (heldSpace slot) = true)
    (ringing : s.cm.call.state = .ringing) (sent : s.cm.call.answer = .acceptSent) :
    exec (.telegramHandOn slot) s = .next (settle (enterOpen (handedBase true slot .accept f s))) := by
  have own := execTelegramHandOn_own receive kind joined whole
  have free : freesView s.cm.view (handedBase true slot .accept f s).cm.view = false := not_freesView nofun nofun
  have opens (h : Handed) (ack : h.ack = true) (stays : h.withdrawn = false) :
      ownAccept h (handedBase true slot .accept f s) = enterOpen (handedBase true slot .accept f s) :=
    if_pos ⟨ack, by rw [stays]; rfl, ringing, sent⟩
  dsimp only at own
  rw [free, answered, stays] at own
  refine own.trans (congrArg (fun x => Host.Outcome.next (settle x)) ?_)
  exact opens _ rfl rfl

/-- Settles O33, by whose ACCEPT it is. -/
theorem acceptOpensTheCall : Obligations.AcceptOpensTheCall := by
  unfold Obligations.AcceptOpensTheCall
  refine ⟨fun s f slot taken whole awaiting caller _ => ?_,
    fun s f slot receive whole kind stays joined served called answered ringing sent => ?_⟩
  · exact ⟨_, exec_acceptTaken taken whole awaiting,
      enterOpen_awaiting (s := handedBase false slot .accept f s) caller awaiting⟩
  · intro view b opening told
    have role : b.cm.call.role = some .called := called
    have calls : viewCaller b = s.cm.call.partyStation := if_neg (by rw [role]; decide)
    have record : openedRecord b = opening := openedRecord_eq calls (show s.cm.call.state ≠ .opened by rw [ringing]; decide)
    have opens := enterOpen_announced (s := b) (by rw [role]; decide)
    dsimp only at opens
    rw [record] at opens
    have keeps {α : Type} (g : State → α) (hidden : ∀ u, g (eventCore u) = g u) : g told = g { opening with cs := _ } :=
      notice_told g hidden _ opening
    have auto : told.au.autoAnswered = s.au.autoAnswered := keeps (fun u => u.au.autoAnswered) fun _ => rfl
    have who : told.cl.config = s.cl.config := keeps (fun u => u.cl.config) fun _ => rfl
    have party : told.cm.call.partyAddr = s.cm.call.partyAddr := keeps (fun u => u.cm.call.partyAddr) fun _ => rfl
    have join : told.lu.joinState = .joined := (keeps (fun u => u.lu.joinState) fun _ => rfl).trans joined
    have restart : told.lu.restartClear = false := (keeps (fun u => u.lu.restartClear) fun _ => rfl).trans served
    have asked : requestWho told.cm.call.partyAddr told =
        { told with lu := enterRequest ⟨.who, s.cm.call.partyAddr, [], .cm, s.cl.config.retryLimit⟩ told.lu } := by
      rw [requestWho, sendRequest_state (enters_of join restart), party, request, who]
    have number : Notice.callOpen (partyNumber b) = .callOpen s.cm.call.partyAddr.toNat := rfl
    rw [exec_acceptAnswered receive whole kind stays joined answered ringing sent, opens, number]
    show Host.Outcome.next (settle (if _ ∧ told.au.autoAnswered = true ∧ told.cl.config.autoWho = true then
      requestWho told.cm.call.partyAddr told else told)) = _
    rw [asked, auto, who]
    simp only [role, true_and]

end Sys2Proof.Machine
end

section
/-!
The ends of the call's timers (R69, R75, R77, R79, R82, R85, R93 to R95).
-/

namespace Sys2Proof.Machine

/-! ### The notice of a call's end in PRINT (R95, R134) -/

/-- A command that begins in a state that differs from another in nothing PRINT depends on. -/
theorem printsAtEnd_of_same {s y t : State} {run : List Cell} (cs : y.cs = s.cs) (present : y.pu.present = s.pu.present)
    (file : y.au.file = s.au.file) (state : y.cm.call.state = s.cm.call.state) (edit : y.ku.editStack = s.ku.editStack)
    (h : printsAtEnd y t run) : printsAtEnd s t run := by
  have leaving : leavingRun y = leavingRun s := by rw [leavingRun, leavingRun, edit, cs]
  unfold printsAtEnd at *
  rw [state, cs, leaving] at h
  split at h
  · rename_i opened
    rw [if_pos opened]
    exact fun none => prints_of_cs cs present file (h none)
  · rename_i notOpen
    rw [if_neg notOpen]
    exact prints_of_cs cs present file h

/-- The time that a timer had left has passed. -/
theorem printsAtEnd_of_elapse {d : Tick} {s t : State} {run : List Cell} (h : printsAtEnd (elapse d s) t run) :
    printsAtEnd s t run :=
  printsAtEnd_of_same (by simp) (by simp) (by simp) (by simp) (by simp) h

theorem fileInOrder_elapse {s : State} (d : Tick) (order : fileInOrder s) : fileInOrder (elapse d s) := by
  simpa only [fileInOrder, elapse_file, elapse_nextNumber, elapse_callState, elapse_fileLink] using order

/-- Out of OPEN, the notice follows what leaving OPEN puts in PRINT, and what PRINT holds then stays its oldest. -/
theorem prints_leaving {may : Chain → Prop} {c : CallState} {filed : Bool} {n : Option Notice} {s z t : State}
    (leaves : c ≠ .opened) (cs : z.cs = (leaveOpen c filed s).cs) (au : z.au = (leaveOpen c filed s).au)
    (pu : z.pu = (leaveOpen c filed s).pu)
    (none : ∀ n, s.cs.punch.openMark = some n → s.cs.punch.blocksNeeded [.boundary .finish n] = 0)
    (moves : PrintMoves may (storeFile (noticeIf n z)) (storeFile t)) : prints s t (leavingRun s ++ runIf n) := by
  intro present passes holder
  have left := printsNext_leaveOpen filed leaves present ⟨blocksHaveOneHolder_iff.mp holder, rfl, passes⟩ none
  have here : z.pu.present = true := by
    rw [pu]; exact (pu_of_callCore (callCore_leaveOpen c filed s)).1.trans present
  rw [← cs, ← au] at left
  obtain ⟨one, cells⟩ := left.noticeIf here
  have file : (noticeIf n z).au.file = z.au.file := (rest_of_storeCore (storeCore_noticeIf n z)).2.2.2.2.2.2.1
  rw [← file] at one
  rw [← List.append_assoc, ← cells]
  exact (moves.cells one).2

/-- What follows the notice on the way to IDLE (R160, R173, R175). -/
theorem printMoves_toldIdle (n : Option Notice) (z : State) :
    PrintMoves (MayGo z.cl.config.keepPrinted) (storeFile (noticeIf n z))
      (storeFile (tellIdle (finishCursor (noticeIf n z)))) := by
  have told : (noticeIf n z).cl = z.cl := (cl_of_callCore (callCore_noticeIf n z)).1
  have done : (finishCursor (noticeIf n z)).cl = z.cl := (cl_of_callCore (callCore_finishCursor _)).1.trans told
  exact (printMoves_afterEnd n z).trans (printMoves_tellIdle (by rw [done])).mayGo

theorem prints_settle {s t : State} {run : List Cell} (h : prints s t run) : prints s (settle t) run := by
  unfold prints at *
  rw [queueCells_settle _ (by decide)]
  exact h

/-- The record's way to IDLE, from whatever state. -/
theorem printsAtEnd_toIdle (n : Option Notice) (s : State) : printsAtEnd s (settle (toIdle false n s)) (runIf n) := by
  by_cases opened : s.cm.call.state = .opened
  · have idle : toIdle false n s = tellIdle (finishCursor (noticeIf n (leaveOpen .idle false s))) := by simp [toIdle, opened]
    rw [printsAtEnd, if_pos opened, idle]
    exact fun none => prints_settle (prints_leaving (by decide) rfl rfl rfl none (printMoves_toldIdle n _))
  · rw [printsAtEnd, if_neg opened]
    exact prints_toIdle n rfl rfl rfl opened

/-! ### The ring-wait timer, and the silence timer of a call not open (R75, R77, log 33) -/

/-- A record that waits for its answer goes to IDLE: nothing else of the call, of SEND or of the reader's run. -/
theorem answerEnd_spec {s y : State} (n : Option Notice) (cs : y.cs = s.cs) (present : y.pu.present = s.pu.present)
    (file : y.au.file = s.au.file) (notOpen : y.cm.call.state ≠ .opened) :
    let t := settle (toIdle false n y)
    t.cm.view = y.cm.view ∧ t.cm.call.state = .idle ∧ t.cs.send = s.cs.send ∧ t.tu.run = y.tu.run
      ∧ t.lu.control = y.lu.control ∧ prints s t (runIf n) := by
  obtain ⟨m, settled⟩ := toIdle_settled false n y
  obtain ⟨cm, lu, queues, _⟩ := toIdle_of_not_open false n notOpen
  have send : (toIdle false n y).cs.send = y.cs.send := congrArg Prod.fst queues
  have idle : toIdle false n y = tellIdle (finishCursor (noticeIf n (setCallState .idle y))) := by simp [toIdle, notOpen]
  have run : (toIdle false n y).tu.run = y.tu.run := by
    have core : fileCore (toIdle false n y) = fileCore (setCallState .idle y) := by
      rw [idle, fileCore_tellIdle, fileCore_finishCursor, fileCore_noticeIf]
    exact (rest_of_fileCore core).2.2.2.1
  have printed := prints_toIdle n cs present file notOpen
  dsimp only
  rw [settled] at printed ⊢
  exact ⟨(congrArg CallManager.view cm).trans rfl, toIdle_state _ _ _, send.trans (congrArg Store.send cs), run,
    congrArg LineUnit.control lu, printed⟩

theorem answerWaitEnds_awaiting {s : State} (awaiting : s.cm.call.state = .awaiting) :
    answerWaitEnds s = toIdle false (some (.noAnswer s.cm.call.partyAddr.toNat)) s := by
  rw [answerWaitEnds, awaiting]; rfl

theorem answerWaitEnds_ringing {s : State} (ringing : s.cm.call.state = .ringing) :
    answerWaitEnds s =
      toIdle false (if s.cm.call.answer = .acceptSent then some .callFailed else none)
        { s with lu := withdraw .accept s.lu } := by
  rw [answerWaitEnds, ringing]

theorem answerWaitEnds_other {s : State} (notAwaiting : s.cm.call.state ≠ .awaiting)
    (notRinging : s.cm.call.state ≠ .ringing) : answerWaitEnds s = s := by
  unfold answerWaitEnds
  split
  · rename_i awaiting; exact absurd awaiting notAwaiting
  · rename_i ringing; exact absurd ringing notRinging
  · rfl

/-- AWAITING ends with NO ANSWER (R75). -/
theorem awaitingEnds_spec {s : State} (d : Tick) (awaiting : s.cm.call.state = .awaiting) :
    let t := settle (answerWaitEnds (freeView (elapse d s)))
    t.cm.view = LineView.reset ∧ t.cm.call.state = .idle ∧ t.cs.send = s.cs.send ∧ t.tu.run = s.tu.run
      ∧ t.lu.control = (elapse d s).lu.control ∧ prints s t (Notice.noAnswer s.cm.call.partyAddr.toNat).run := by
  have waits : (freeView (elapse d s)).cm.call.state = .awaiting := (elapse_callState d s).trans awaiting
  have party : (freeView (elapse d s)).cm.call.partyAddr = s.cm.call.partyAddr := elapse_partyAddr d s
  obtain ⟨view, idle, send, run, control, printed⟩ := answerEnd_spec (s := s) (y := freeView (elapse d s))
    (some (.noAnswer s.cm.call.partyAddr.toNat)) (elapse_cs d s) (elapse_present d s) (elapse_file d s)
    (by rw [waits]; decide)
  dsimp only
  rw [answerWaitEnds_awaiting waits, party]
  exact ⟨view, idle, send, run.trans (elapse_run d s), control, printed⟩

/-- RINGING ends, its ACCEPT withdrawn, with CALL FAILED where one was asked for (R77). -/
theorem ringingEnds_spec {s : State} (d : Tick) (ringing : s.cm.call.state = .ringing) :
    let t := settle (answerWaitEnds (freeView (elapse d s)))
    t.cm.view = LineView.reset ∧ t.cm.call.state = .idle ∧ t.cs.send = s.cs.send ∧ t.tu.run = s.tu.run
      ∧ t.lu.control = listWithdrawn .accept (elapse d s)
      ∧ prints s t (if s.cm.call.answer = .acceptSent then Notice.callFailed.run else []) := by
  have rings : (freeView (elapse d s)).cm.call.state = .ringing := (elapse_callState d s).trans ringing
  have answer : (freeView (elapse d s)).cm.call.answer = s.cm.call.answer := elapse_answer d s
  have notice : runIf (if s.cm.call.answer = .acceptSent then some .callFailed else none) =
      if s.cm.call.answer = .acceptSent then Notice.callFailed.run else [] := by split_ifs <;> rfl
  obtain ⟨view, idle, send, run, control, printed⟩ := answerEnd_spec (s := s)
    (y := { freeView (elapse d s) with lu := withdraw .accept (elapse d s).lu })
    (if s.cm.call.answer = .acceptSent then some .callFailed else none) (elapse_cs d s) (elapse_present d s)
    (elapse_file d s) (ne_of_eq_of_ne rings (by decide))
  rw [notice] at printed
  dsimp only
  rw [answerWaitEnds_ringing rings, answer]
  exact ⟨view, idle, send, run.trans (elapse_run d s), control.trans (withdraw_list .accept (elapse d s)), printed⟩

/-! ### The silence timer in OPEN (R93) -/

/-- The state in which the notice of the silence is printed. -/
def silenced (s : State) : State :=
  let s2 := leaveOpen .idle false (freeView s)
  requestOrDrop (request s2 .clear s.cm.call.partyAddr [causeCode .silence] .cmNoOutcome) s2

theorem silence_opened {s : State} (opened : s.cm.call.state = .opened) :
    silence s = tellIdle (finishCursor (noticeIf (some (.cleared s.cm.call.partyAddr.toNat .silence)) (silenced s))) :=
  if_pos opened

theorem silenced_keeps (s : State) :
    let x := leaveOpen .idle false (freeView s)
    (silenced s).cs = x.cs ∧ (silenced s).cm = x.cm ∧ (silenced s).au = x.au ∧ (silenced s).pu = x.pu := by
  dsimp only
  unfold silenced
  dsimp only
  generalize leaveOpen .idle false (freeView s) = x
  cases enters : entersRequests x.lu with
  | true => rw [requestOrDrop_entered enters]; exact ⟨rfl, rfl, rfl, rfl⟩
  | false => rw [requestOrDrop_refused enters]; exact ⟨rfl, rfl, rfl, rfl⟩

/-- The CLEAR that the silence asks for stands in the list (R93). -/
theorem silenced_asks {s : State} (joined : s.lu.joinState = .joined) (served : s.lu.restartClear = false) :
    ∃ l, (silenced s).lu = enterRequest ⟨.clear, s.cm.call.partyAddr, [2], .cmNoOutcome, s.cl.config.retryLimit⟩ l := by
  obtain ⟨_, _, _, _, _, _, _, _, line, _⟩ := leaveOpen_spec (c := .idle) false (freeView s) (by decide)
  have config : (leaveOpen .idle false (freeView s)).cl = s.cl :=
    (cl_of_callCore (callCore_leaveOpen .idle false (freeView s))).1
  have enters : entersRequests (leaveOpen .idle false (freeView s)).lu = true := by
    rw [line]; exact enters_of joined served
  refine ⟨(leaveOpen .idle false (freeView s)).lu, ?_⟩
  unfold silenced
  dsimp only
  rw [requestOrDrop_entered enters, request, config]
  rfl

theorem silence_spec {s : State} (opened : s.cm.call.state = .opened) :
    let t := settle (silence s)
    t.cm.view = LineView.reset ∧ t.cm.call.state = .idle ∧ t.cs.send.cellCount = 0 ∧ t.cm.call.holdSet = []
      ∧ printsAtEnd s t (Notice.cleared s.cm.call.partyAddr.toNat .silence).run
      ∧ (s.lu.joinState = .joined → s.lu.restartClear = false →
          ∃ e ∈ t.lu.control,
            e.content = ⟨.clear, s.cm.call.partyAddr, [2], .cmNoOutcome, s.cl.config.retryLimit⟩
              ∨ e.beside = some ⟨.clear, s.cm.call.partyAddr, [2], .cmNoOutcome, s.cl.config.retryLimit⟩) := by
  obtain ⟨state, holdSet, _, _, _, _, view, _, _, send, _⟩ := leaveOpen_spec (c := .idle) false (freeView s) (by decide)
  obtain ⟨cs, cm, au, pu⟩ := silenced_keeps s
  have notOpen : (silenced s).cm.call.state ≠ .opened := by rw [cm, state]; decide
  have ended := SameLine.afterEnd notOpen (some (.cleared s.cm.call.partyAddr.toNat .silence))
  obtain ⟨cm', lu'⟩ := (SameLine.tellIdle (ended.notOpen notOpen)).trans ended
  have moves := printMoves_toldIdle (some (.cleared s.cm.call.partyAddr.toNat .silence)) (silenced s)
  have noticed : PrintMoves (fun _ => False) (storeFile (silenced s))
      (storeFile (noticeIf (some (.cleared s.cm.call.partyAddr.toNat .silence)) (silenced s))) := printMoves_noticeIf _ _
  dsimp only
  rw [silence_opened opened]
  generalize tellIdle (finishCursor (noticeIf _ (silenced s))) = v at cm' lu' moves ⊢
  have sendQueue : v.cs.send = (silenced s).cs.send :=
    (moves.queue (n := .send) (by decide)).trans (noticed.queue (n := .send) (by decide))
  have printed : printsAtEnd (freeView s) v (Notice.cleared s.cm.call.partyAddr.toNat .silence).run := by
    rw [printsAtEnd, if_pos (show (freeView s).cm.call.state = .opened from opened)]
    exact fun none => prints_leaving (s := freeView s) (n := some (.cleared s.cm.call.partyAddr.toNat .silence)) (by decide)
      cs au pu none moves
  obtain ⟨m, settled⟩ := settle_of_not_open (s := v) (by rw [cm']; exact notOpen)
  rw [settled]
  refine ⟨?_, ?_, ?_, ?_, printsAtEnd_of_same (y := freeView s) rfl rfl rfl rfl rfl printed, fun joined served => ?_⟩
  · show v.cm.view = _
    rw [cm', cm, view]; rfl
  · show v.cm.call.state = _
    rw [cm', cm, state]
  · show v.cs.send.cellCount = 0
    rw [sendQueue, cs, send]; rfl
  · show v.cm.call.holdSet = _
    rw [cm', cm, holdSet]
  · obtain ⟨l, asked⟩ := silenced_asks joined served
    obtain ⟨e, mem, _, stands⟩ := mem_enterRequest
      (r := ⟨.clear, s.cm.call.partyAddr, [2], .cmNoOutcome, s.cl.config.retryLimit⟩) rfl l
    refine ⟨e, ?_, stands⟩
    show e ∈ v.lu.control
    rw [lu', asked]
    exact mem

/-! ### The break timer (R94) -/

theorem toIdle_breakTimer (filed : Bool) (n : Option Notice) (s : State) :
    (toIdle filed n s).cm.breakTimer = s.cm.breakTimer := by
  by_cases opened : s.cm.call.state = .opened
  · obtain ⟨_, _, _, _, _, _, _, timer, _⟩ := toIdle_of_open filed n opened
    exact timer
  · rw [(toIdle_of_not_open filed n opened).1]

theorem isAbandoned_iff (c : CallState) : isAbandoned c = true ↔ c ≠ .idle ∧ c ≠ .dialing := by
  cases c <;> simp [isAbandoned]

theorem abandonCall_spec {s : State} (notIdle : s.cm.call.state ≠ .idle) (notDialing : s.cm.call.state ≠ .dialing) :
    let t := settle (abandonCall s)
    t.cm.view = LineView.reset ∧ t.cm.call.state = .idle ∧ t.cm.breakTimer = none
      ∧ printsAtEnd s t Notice.callAbandoned.run := by
  have acts : abandonCall s =
      toIdle false (some .callAbandoned) (withdrawCall (freeView { s with cm.breakTimer := none })) :=
    if_pos ((isAbandoned_iff _).mpr ⟨notIdle, notDialing⟩)
  have printed := printsAtEnd_toIdle (some .callAbandoned) (withdrawCall (freeView { s with cm.breakTimer := none }))
  dsimp only
  rw [acts, settle_view, settle_call, settle_breakTimer, toIdle_view, toIdle_state, toIdle_breakTimer]
  exact ⟨rfl, rfl, rfl, printsAtEnd_of_same rfl rfl rfl rfl rfl printed⟩

theorem abandonCall_idle {s : State} (rests : s.cm.call.state = .idle ∨ s.cm.call.state = .dialing) :
    abandonCall s = { s with cm.view := LineView.reset, cm.breakTimer := none } :=
  if_neg fun abandoned => by
    obtain ⟨notIdle, notDialing⟩ := (isAbandoned_iff _).mp abandoned
    exact rests.elim notIdle notDialing

/-! ### Held-since (R85) -/

theorem heldTooLong_spec {s : State} (opened : s.cm.call.state = .opened) (joined : s.lu.joinState = .joined)
    (served : s.lu.restartClear = false) :
    let t := settle (openToClearing false (some (.cleared s.cm.call.partyAddr.toNat .congestion)) .congestion s)
    t.cm.call.state = .clearing ∧ t.cm.call.heldByMe = false ∧ t.cm.call.heldSince = none ∧ t.cs.send.cellCount = 0
      ∧ (∃ e ∈ t.lu.control,
          e.content = ⟨.clear, s.cm.call.partyAddr, [3], .cm, s.cl.config.retryLimit⟩
            ∨ e.beside = some ⟨.clear, s.cm.call.partyAddr, [3], .cm, s.cl.config.retryLimit⟩)
      ∧ printsAtEnd s t (Notice.cleared s.cm.call.partyAddr.toNat .congestion).run
      ∧ (fileInOrder s → ∀ x ∈ s.au.file, s.cm.call.fileLink = some x.slot →
          ∀ y ∈ t.au.file, y.slot = x.slot → y.state = .cut ∧ y.completedAt = some s.au.clock) := by
  obtain ⟨x, cleared, ended, clearing⟩ := openToClearing_spec (filed := false)
    (n := some (.cleared s.cm.call.partyAddr.toNat .congestion)) (c := .congestion) joined served
  obtain ⟨state, _, held, since, _, _, _, _, _, send, _⟩ := leaveOpen_spec (c := .clearing) false s (by decide)
  obtain ⟨cm, _⟩ := SameLine.afterEnd (s := leaveOpen .clearing false s) (by rw [state]; decide)
    (some (.cleared s.cm.call.partyAddr.toNat .congestion))
  have moves := printMoves_afterEnd (some (.cleared s.cm.call.partyAddr.toNat .congestion)) (leaveOpen .clearing false s)
  rw [← ended] at cm moves
  have whole : PrintMoves (MayGo (leaveOpen .clearing false s).cl.config.keepPrinted)
      (storeFile (leaveOpen .clearing false s)) (storeFile x) := (printMoves_noticeIf _ _).trans moves
  have sendQueue : x.cs.send = (leaveOpen .clearing false s).cs.send := whole.queue (n := .send) (by decide)
  have printed : printsAtEnd s x (Notice.cleared s.cm.call.partyAddr.toNat .congestion).run := by
    rw [printsAtEnd, if_pos opened]
    exact fun none => prints_leaving (n := some (.cleared s.cm.call.partyAddr.toNat .congestion)) (by decide) rfl rfl rfl none
      moves
  obtain ⟨m, settled⟩ := settle_of_not_open (s := { x with
    lu := enterRequest ⟨.clear, s.cm.call.partyAddr, [causeCode .congestion], .cm, s.cl.config.retryLimit⟩ x.lu })
    (ne_of_eq_of_ne clearing (by decide))
  obtain ⟨e, mem, _, stands⟩ := mem_enterRequest
    (r := ⟨.clear, s.cm.call.partyAddr, [causeCode .congestion], .cm, s.cl.config.retryLimit⟩) rfl x.lu
  dsimp only
  rw [cleared, settled]
  refine ⟨clearing, ?_, ?_, ?_, ⟨e, mem, stands⟩, printed, fun order r there link y inside same => ?_⟩
  · show x.cm.call.heldByMe = false
    rw [cm, held]
  · show x.cm.call.heldSince = none
    rw [cm, since]
  · show x.cs.send.cellCount = 0
    rw [sendQueue, send]
    rfl
  · obtain ⟨slots, _⟩ := order
    obtain ⟨cut, completed, _⟩ := (record_after_leaveOpen (by decide) whole slots there link).1 y inside same
    exact ⟨cut, completed⟩

/-- Settles O40, timer by timer. -/
theorem callTimersExpire : Obligations.CallTimersExpire := by
  unfold Obligations.CallTimersExpire
  intro s left party queued answerEnds
  have answers {row : Instr}
      (acts : s.cm.call.state ≠ .opened → exec row s = .next (settle (answerWaitEnds (freeView (elapse left s))))) :
      answerEnds row := by
    have state : (freeView (elapse left s)).cm.call.state = s.cm.call.state := elapse_callState left s
    refine ⟨fun awaiting => ⟨_, acts (by rw [awaiting]; decide), awaitingEnds_spec left awaiting⟩,
      fun ringing => ⟨_, acts (by rw [ringing]; decide), ringingEnds_spec left ringing⟩,
      fun notAwaiting notRinging notOpen => ?_⟩
    rw [acts notOpen, answerWaitEnds_other (by rw [state]; exact notAwaiting) (by rw [state]; exact notRinging)]
    rfl
  have party' : (elapse left s).cm.call.partyAddr = party := elapse_partyAddr left s
  refine ⟨fun running => ?_, fun silent opened => ?_, fun silent => answers fun notOpen => ?_,
    fun waits => answers fun _ => ?_, fun broken notIdle notDialing => ?_, fun broken rests => ?_, fun n entry => ?_,
    fun held opened joined served => ?_⟩
  · have runs : sendTimerLeft s.cm.sendTimer = some left := by rw [running]; rfl
    exact expire_of (fun x => { x with cm.sendTimer := .expired }) s runs rfl
  · obtain ⟨view, idle, send, holdSet, printed, asked⟩ := silence_spec (s := elapse left s) (by rw [elapse_callState, opened])
    rw [party'] at printed asked
    rw [elapse_joinState, elapse_restartClear, elapse_config] at asked
    exact ⟨_, expire_of silence s silent rfl, view, idle, send, holdSet, printsAtEnd_of_elapse printed, asked⟩
  · have acts : silence (elapse left s) = answerWaitEnds (freeView (elapse left s)) :=
      if_neg (by rw [elapse_callState]; exact notOpen)
    exact (expire_of silence s silent rfl).trans (by rw [acts])
  · exact expire_of (fun x => answerWaitEnds (freeView x)) s waits rfl
  · obtain ⟨view, idle, timer, printed⟩ := abandonCall_spec (s := elapse left s) (by rw [elapse_callState]; exact notIdle)
      (by rw [elapse_callState]; exact notDialing)
    exact ⟨_, expire_of abandonCall s broken rfl, view, idle, timer, printsAtEnd_of_elapse printed⟩
  · have acts := abandonCall_idle (s := elapse left s) (by rw [elapse_callState]; exact rests)
    exact (expire_of abandonCall s broken rfl).trans (by rw [acts])
  · exact expire_of (holdExpires n) s (by rw [holdLeft, entry]; rfl) rfl
  · have acts : exec .heldSinceExpiry s = .next (settle (openToClearing false
        (some (.cleared (elapse left s).cm.call.partyAddr.toNat .congestion)) .congestion (elapse left s))) :=
      expire_of (fun x => openToClearing false (some (.cleared (partyNumber x) .congestion)) .congestion x) s held
        (decide_eq_true opened)
    have ends := heldTooLong_spec (s := elapse left s) (by rw [elapse_callState, opened])
      (by rw [elapse_joinState, joined]) (by rw [elapse_restartClear, served])
    dsimp only at ends
    rw [party', elapse_config] at ends
    rw [party'] at acts
    obtain ⟨clearing, byMe, since, send, asked, printed, closed⟩ := ends
    refine ⟨_, acts, clearing, byMe, since, send, asked, printsAtEnd_of_elapse printed, fun order x mem link => ?_⟩
    exact closed (fileInOrder_elapse left order) x (by rw [elapse_file]; exact mem) (by rw [elapse_fileLink, link])

end Sys2Proof.Machine
end

section
/-!
The keyboard's bounds and the edit stack (R98, R100, R107, R109, R110). Most acts leave `keyState`, which is all that the two
invariants read; the call's ends empty the edit stack before the record leaves OPEN, and the keyboard's own acts keep to the
bounds. Said once for each operation, and with it for every command.
-/

namespace Sys2Proof.Machine

/-! ### What an act keeps -/

/-- What the invariants of the keyboard read: the Keyboard Unit but for its retry flag, and the record's state. -/
def keyState (s : State) : KeyboardUnit × CallState := ({ s.ku with retryDue := false }, s.cm.call.state)

theorem keyboardBounds_iff (s : State) :
    keyboardBounds s ↔ (keyState s).1.scan.length = 64 ∧ (keyState s).1.fifo.length ≤ 8
      ∧ (keyState s).1.editStack.length ≤ 72 ∧ (keyState s).1.dial.length ≤ 2 := Iff.rfl

theorem editOnlyInLineCall_iff (s : State) :
    editOnlyInLineCall s ↔
      ((keyState s).1.editStack ≠ [] → (keyState s).1.mode = .line ∧ (keyState s).2 = .opened) := Iff.rfl

/-- What every act keeps: the keyboard in its bounds, and the edit stack within an OPEN call in LINE mode. -/
structure KeysKept (s t : State) : Prop where
  bounds : keyboardBounds s → keyboardBounds t
  edit : editOnlyInLineCall s → editOnlyInLineCall t

theorem KeysKept.refl (s : State) : KeysKept s s := ⟨id, id⟩

theorem KeysKept.trans {s t u : State} (h : KeysKept s t) (k : KeysKept t u) : KeysKept s u :=
  ⟨k.bounds ∘ h.bounds, k.edit ∘ h.edit⟩

/-- An act that changes nothing the invariants read. -/
theorem KeysKept.of_keyState {s t : State} (same : keyState t = keyState s) : KeysKept s t := by
  constructor
  · rw [keyboardBounds_iff, keyboardBounds_iff, same]; exact id
  · rw [editOnlyInLineCall_iff, editOnlyInLineCall_iff, same]; exact id

/-- An act on a state that differs from the first elsewhere. -/
theorem KeysKept.after {s x t : State} (h : KeysKept x t) (same : keyState x = keyState s) : KeysKept s t :=
  (KeysKept.of_keyState same).trans h

/-- An act, and then a change elsewhere. -/
theorem KeysKept.before {s x t : State} (h : KeysKept s x) (same : keyState t = keyState x) : KeysKept s t :=
  h.trans (.of_keyState same)

/-- An act of the keyboard itself, field by field. -/
theorem KeysKept.of_fields {s t : State} (scan : t.ku.scan.length = s.ku.scan.length)
    (fifo : s.ku.fifo.length ≤ 8 → t.ku.fifo.length ≤ 8)
    (stack : s.ku.editStack.length ≤ 72 → t.ku.editStack.length ≤ 72)
    (dial : s.ku.dial.length ≤ 2 → t.ku.dial.length ≤ 2) (edit : editOnlyInLineCall s → editOnlyInLineCall t) :
    KeysKept s t := by
  refine ⟨?_, edit⟩
  rintro ⟨positions, entries, characters, digits⟩
  exact ⟨scan.trans positions, fifo entries, stack characters, dial digits⟩

/-- An act that leaves the edit stack empty, and the rest of the keyboard as it was. -/
theorem KeysKept.of_emptied {s t : State} (core : callCore t = callCore s) (empty : t.ku.editStack = []) : KeysKept s t := by
  obtain ⟨scan, fifo, _, _, _, _, dial⟩ := ku_of_callCore core
  exact .of_fields (by rw [scan]) (by rw [fifo]; exact id) (fun _ => by simp [empty]) (by rw [dial]; exact id)
    fun _ some => absurd empty some

/-- An act under a condition. -/
theorem keysKept_ite {p : Prop} [Decidable p] {s a : State} (h : KeysKept s a) : KeysKept s (if p then a else s) := by
  split
  · exact h
  · exact .refl s

/-- The one act or the other. -/
theorem keysKept_either {p : Prop} [Decidable p] {s a b : State} (h : KeysKept s a) (k : KeysKept s b) :
    KeysKept s (if p then a else b) := by
  split
  · exact h
  · exact k

/-! ### The acts that leave `keyState`: the store's and the file's operations -/

/-- A change of a state that writes neither the Keyboard Unit nor the CM. -/
@[simp] theorem keyState_update {lu : LineUnit} {cs : Store} {pu : PrintUnit} {tu : TapeUnit} {mt : MotorTerminal}
    {au : AnsweringUnit} {cl : ConfigLoader} {pending : List Instr} {s : State} :
    keyState ⟨lu, s.cm, cs, s.ku, pu, tu, mt, au, cl, pending⟩ = keyState s := rfl

theorem keyState_of_fileCore {a b : State} (h : fileCore a = fileCore b) : keyState a = keyState b := by
  have same := congrArg keyState h
  exact same

theorem keyState_of_storeCore {a b : State} (h : storeCore a = storeCore b) : keyState a = keyState b :=
  keyState_of_fileCore (fileCore_of_storeCore h)

@[simp] theorem keyState_elapse (d : Tick) (s : State) : keyState (elapse d s) = keyState s := by
  rw [keyState, keyState, elapse_ku, elapse_callState]
@[simp] theorem keyState_formText (s : State) : keyState (formText s) = keyState s := by
  rw [keyState, keyState, formText_ku, formText_call]
@[simp] theorem keyState_settle (s : State) : keyState (settle s) = keyState s := by
  rw [keyState, keyState, settle_ku, settle_call]
@[simp] theorem keyState_requestOrDrop (r : Request) (s : State) : keyState (requestOrDrop r s) = keyState s :=
  keyState_of_storeCore (storeCore_requestOrDrop r s)
@[simp] theorem keyState_flowTest (s : State) : keyState (flowTest s) = keyState s :=
  keyState_of_storeCore (storeCore_flowTest s)
@[simp] theorem keyState_signal (r t : Bool) (s : State) : keyState (signal r t s) = keyState s :=
  keyState_of_storeCore (storeCore_signal r t s)
@[simp] theorem keyState_placeRun (n : QueueName) (run : List Cell) (s : State) :
    keyState (placeRun n run s) = keyState s := keyState_of_storeCore (storeCore_placeRun n run s)
@[simp] theorem keyState_notice (n : Notice) (s : State) : keyState (notice n s) = keyState s :=
  keyState_of_storeCore (storeCore_notice n s)
@[simp] theorem keyState_noticeIf (n : Option Notice) (s : State) : keyState (noticeIf n s) = keyState s :=
  keyState_of_storeCore (storeCore_noticeIf n s)
@[simp] theorem keyState_placeNotice (n : Notice) (s : State) : keyState (placeNotice n s).1 = keyState s :=
  keyState_of_storeCore (storeCore_placeNotice n s)
@[simp] theorem keyState_removeHead (n : QueueName) (s : State) : keyState (removeHead n s) = keyState s :=
  keyState_of_storeCore (storeCore_removeHead n s)
@[simp] theorem keyState_flushSend (s : State) : keyState (flushSend s) = keyState s :=
  keyState_of_storeCore (storeCore_flushSend s)
@[simp] theorem keyState_ackSend (s : State) : keyState (ackSend s) = keyState s :=
  keyState_of_storeCore (storeCore_ackSend s)
@[simp] theorem keyState_bellPulse (b : BellSource) (s : State) : keyState (bellPulse b s) = keyState s := rfl
@[simp] theorem keyState_refuseKey (s : State) : keyState (refuseKey s) = keyState s := rfl

theorem keyState_appendRun {n : QueueName} {c : ReserveClass} {run : List Cell} {s t : State}
    (h : appendRun n c run s = some t) : keyState t = keyState s := keyState_of_storeCore (storeCore_appendRun h)

/-- An append, with what is done where it is refused. -/
theorem keyState_appendRun_getD {n : QueueName} {c : ReserveClass} {run : List Cell} {s d : State}
    (refused : keyState d = keyState s) : keyState ((appendRun n c run s).getD d) = keyState s := by
  cases h : appendRun n c run s with
  | none => exact refused
  | some t => exact keyState_appendRun h

@[simp] theorem keyState_fileChange (was : Bool) (s : State) : keyState (fileChange was s) = keyState s :=
  keyState_of_fileCore (fileCore_fileChange was s)
@[simp] theorem keyState_abandonCursor (s : State) : keyState (abandonCursor s) = keyState s :=
  keyState_of_fileCore (fileCore_abandonCursor s)
@[simp] theorem keyState_tryHeader (s : State) : keyState (tryHeader s) = keyState s :=
  keyState_of_fileCore (fileCore_tryHeader s)
@[simp] theorem keyState_startReplay (r : FileRecord) (s : State) : keyState (startReplay r s) = keyState s :=
  keyState_of_fileCore (fileCore_startReplay r s)
@[simp] theorem keyState_followTest (s : State) : keyState (followTest s) = keyState s :=
  keyState_of_fileCore (fileCore_followTest s)
@[simp] theorem keyState_auTests (s : State) : keyState (auTests s) = keyState s :=
  keyState_of_fileCore (fileCore_auTests s)
@[simp] theorem keyState_finishCursor (s : State) : keyState (finishCursor s) = keyState s :=
  keyState_of_fileCore (fileCore_finishCursor s)
@[simp] theorem keyState_attendRequest (a : Attendance) (c : AttendCause) (s : State) :
    keyState (attendRequest a c s) = keyState s := keyState_of_fileCore (fileCore_attendRequest a c s)
@[simp] theorem keyState_tellIdle (s : State) : keyState (tellIdle s) = keyState s :=
  keyState_of_fileCore (fileCore_tellIdle s)
@[simp] theorem keyState_pressReport (s : State) : keyState (pressReport s) = keyState s :=
  keyState_of_fileCore (fileCore_pressReport s)

/-! ### The acts that leave `keyState`: the mechanisms -/

@[simp] theorem keyState_startPrintOp (op : PrintOp) (s : State) : keyState (startPrintOp op s) = keyState s := by
  cases op <;> rfl

@[simp] theorem keyState_nextPrintOp (s : State) : keyState (nextPrintOp s) = keyState s := by
  unfold nextPrintOp
  split
  · split
    · split_ifs <;> simp
    · rfl
  · rfl

@[simp] theorem keyState_beginWork (src : Source) (c : Cell) (s : State) : keyState (beginWork src c s) = keyState s := by
  unfold beginWork
  dsimp only
  split_ifs
  · rfl
  · split <;> simp

@[simp] theorem keyState_takePrintCell (src : Source) (c : Cell) (s : State) :
    keyState (takePrintCell src c s) = keyState s := by
  cases src <;> simp [takePrintCell, advanceCursor]

@[simp] theorem keyState_completePrintOp (s : State) : keyState (completePrintOp s) = keyState s := by
  unfold completePrintOp
  split
  · simp [finishPrintOp]
  · rfl

@[simp] theorem keyState_printerChange (was : Bool) (s : State) : keyState (printerChange was s) = keyState s := by
  unfold printerChange
  dsimp only
  split_ifs <;> simp

@[simp] theorem keyState_punchChange (was : Bool) (s : State) : keyState (punchChange was s) = keyState s := by
  unfold punchChange
  split_ifs <;> simp

@[simp] theorem keyState_nextPunchOp (s : State) : keyState (nextPunchOp s) = keyState s := by
  unfold nextPunchOp
  split
  · split
    · split_ifs <;> rfl
    · rfl
  · rfl

@[simp] theorem keyState_takePunchCell (c : Cell) (s : State) : keyState (takePunchCell c s) = keyState s := by
  simp [takePunchCell]

@[simp] theorem keyState_finishPunchOp (s : State) : keyState (finishPunchOp s) = keyState s := by simp [finishPunchOp]

@[simp] theorem keyState_startRun (n : QueueName) (limit : Nat) (s : State) : keyState (startRun n limit s) = keyState s :=
  rfl

@[simp] theorem keyState_endRun (s : State) : keyState (endRun s) = keyState s := by
  unfold endRun
  split <;> rfl

@[simp] theorem keyState_stopSendRun (s : State) : keyState (stopSendRun s) = keyState s := by
  unfold stopSendRun
  split_ifs
  · split
    · split_ifs <;> simp
    · rfl
  · rfl

@[simp] theorem keyState_endRunWith (n : Notice) (s : State) : keyState (endRunWith n s) = keyState s := by
  simp [endRunWith]

/-- Steps 1 to 4 of R86. -/
@[simp] theorem keyState_stopSending (s : State) : keyState (stopSending s) = keyState s := by
  have stepped (x : State) : keyState (withdrawPlace (stepSequence x)) = keyState x := by
    unfold stepSequence withdrawPlace
    split_ifs <;> rfl
  simp [stopSending, stepped]

@[simp] theorem keyState_readerLast (r : ReaderRun) (ch : Resolved) (s : State) :
    keyState (readerLast r ch s) = keyState s := by
  simp [readerLast]

@[simp] theorem keyState_readerAppend (r : ReaderRun) (ch : Resolved) (s : State) :
    keyState (readerAppend r ch s) = keyState s := by
  unfold readerAppend
  split
  · rename_i appended
    split_ifs
    · simp
    · simp [keyState_appendRun appended]
  · rfl

@[simp] theorem keyState_readerCode (r : ReaderRun) (row : Code) (s : State) :
    keyState (readerCode r row s) = keyState s := by
  unfold readerCode
  dsimp only
  generalize (if row = 0 then r.blanks + 1 else 0) = blanks
  split
  · simp
  · split <;> simp

@[simp] theorem keyState_readerStep (r : ReaderRun) (s : State) : keyState (readerStep r s) = keyState s := by
  unfold readerStep
  split_ifs <;> simp

@[simp] theorem keyState_readerGoOn (r : ReaderRun) (s : State) : keyState (readerGoOn r s) = keyState s := by
  unfold readerGoOn
  split
  · simp
  · split_ifs <;> rfl

@[simp] theorem keyState_completeCycle (row : Code) (s : State) : keyState (completeCycle row s) = keyState s := by
  unfold completeCycle
  dsimp only
  split
  · split_ifs <;> simp
  · rfl

@[simp] theorem keyState_enterRunning (s : State) : keyState (enterRunning s) = keyState s := by simp [enterRunning]

@[simp] theorem keyState_enterFaulted (s : State) : keyState (enterFaulted s) = keyState s := by simp [enterFaulted]

@[simp] theorem keyState_leaveFaulted (s : State) : keyState (leaveFaulted s) = keyState s := by
  unfold leaveFaulted
  dsimp only
  split_ifs <;> simp [startMotor]

@[simp] theorem keyState_runUpEnds (s : State) : keyState (runUpEnds s) = keyState s := by
  unfold runUpEnds
  dsimp only
  split_ifs <;> simp

@[simp] theorem keyState_senseTaken (level : Level) (s : State) : keyState (senseTaken level s) = keyState s := by
  unfold senseTaken
  dsimp only
  split
  · split_ifs <;> simp
  · simp
  · rfl

@[simp] theorem keyState_setPaper (p : Supply) (s : State) : keyState (setPaper p s) = keyState s := by simp [setPaper]

@[simp] theorem keyState_setTape (t : Supply) (s : State) : keyState (setTape t s) = keyState s := by
  unfold setTape
  dsimp only
  split_ifs <;> simp [newTape]

@[simp] theorem keyState_switchTaken (level : Level) (s : State) : keyState (switchTaken level s) = keyState s := by
  simp [switchTaken]

/-! ### The acts that leave `keyState`: the delivery of a TEXT, and the line (R22, R32 to R54, R66, R169) -/

@[simp] theorem keyState_openRecord (s : State) : keyState (openRecord s) = keyState s := by
  have freed (x : State) : keyState (match oldestPrinted x with | some r => dropRecord r x | none => x) = keyState x := by
    split <;> rfl
  unfold openRecord
  dsimp only
  split
  · split_ifs
    · rfl
    · exact freed s
  · split_ifs
    · rfl
    · exact freed s

@[simp] theorem keyState_reclaimFor (needed n : Nat) (s : State) : keyState (reclaimFor needed n s) = keyState s := by
  induction n generalizing s with
  | zero => rfl
  | succ n ih =>
    unfold reclaimFor
    split_ifs
    · rfl
    · split
      · rw [ih]; rfl
      · rfl

@[simp] theorem keyState_appendFile (run : List Cell) (lost : Nat) (s : State) :
    keyState (appendFile run lost s) = keyState s := by
  unfold appendFile
  split
  · rfl
  · split <;> rfl

@[simp] theorem keyState_deliver (e : Route) (r : TextRuns) (party : Station) (lost : Nat) (s : State) :
    keyState (deliver e r party lost s) = keyState s := by
  unfold deliver
  dsimp only
  split_ifs <;> simp

@[simp] theorem keyState_acceptText (t : Telegram) (run : List Resolved) (s : State) :
    keyState (acceptText t run s).2 = keyState s := by
  have counted (x : State) (q : Seq) : keyState { x with cm.call.recvSeq := q } = keyState x := rfl
  unfold acceptText
  split_ifs
  · split
    · rfl
    · dsimp only
      split_ifs <;> simp [counted]
  · rfl

@[simp] theorem keyState_turnDecision (k : Kind) (t : Telegram) (s : State) :
    keyState (turnDecision k t s).2.2 = keyState s := by
  unfold turnDecision
  split_ifs
  · rfl
  · exact keyState_notice _ s
  · rfl
  · split
    · rfl
    · split
      · rfl
      · exact keyState_acceptText t _ s
      · rfl

@[simp] theorem keyState_turnHeard (k : Kind) (t : Telegram) (s : State) : keyState (turnHeard k t s) = keyState s :=
  keyState_turnDecision k t s

@[simp] theorem keyState_startTelegram (c : Candidate) (s : State) : keyState (startTelegram c s) = keyState s :=
  keyState_elapse _ s

@[simp] theorem keyState_listenAfterAttempt (s : State) : keyState (listenAfterAttempt s) = keyState s := by
  unfold listenAfterAttempt
  split <;> rfl

@[simp] theorem keyState_endRestartClear (source : SlotSource) (s : State) :
    keyState (endRestartClear source s) = keyState s := by
  unfold endRestartClear
  split_ifs <;> simp

@[simp] theorem keyState_probeUnanswered (s : State) : keyState (probeUnanswered s) = keyState s := by
  unfold probeUnanswered
  split_ifs <;> rfl

@[simp] theorem keyState_textTaken (s : State) : keyState (textTaken s) = keyState s := by
  unfold textTaken
  split
  · rfl
  · split_ifs
    · rfl
    · rw [keyState_ackSend]; rfl

@[simp] theorem keyState_lineBroken (s : State) : keyState (lineBroken s) = keyState s := by
  unfold lineBroken breakRestartClear
  dsimp only
  rw [keyState_notice]
  split_ifs <;> rfl

@[simp] theorem keyState_readSpace (after : Nat) (s : State) : keyState (readSpace after s) = keyState s := by
  have broken (x : State) : keyState (if breakRun ≤ x.lu.spaceRun then lineBroken x else x) = keyState x := by
    split_ifs <;> simp
  exact (broken _).trans (keyState_elapse _ s)

@[simp] theorem keyState_lineRestored (s : State) : keyState (lineRestored s) = keyState s := by
  unfold lineRestored
  dsimp only
  rw [keyState_notice]
  split_ifs <;> exact keyState_elapse _ s

@[simp] theorem keyState_readBrokenSpace (s : State) : keyState (readBrokenSpace s) = keyState s := keyState_elapse _ s

@[simp] theorem keyState_countDiscarded (units : List Bool) (s : State) :
    keyState (countDiscarded units s) = keyState s := by
  unfold countDiscarded
  dsimp only
  split
  · rfl
  · split
    · exact keyState_lineBroken _
    · rfl

end Sys2Proof.Machine
end

section
/-!
The keyboard's invariants through the call's operations, the line, the hand-on, restart and the call's timers: the edit stack
is empty before the record leaves OPEN (R95, R109), and a record that is not OPEN may go anywhere.
-/

namespace Sys2Proof.Machine

/-! ### The call's operations (R71, R77, R78, R92, R95, R96) -/

/-- A record that is not OPEN goes to another state: the edit stack was empty. -/
theorem keysKept_setCallState {c : CallState} {s : State} (state : s.cm.call.state ≠ .opened) :
    KeysKept s (setCallState c s) := ⟨id, fun inv some => absurd (inv some).2 state⟩

/-- The edit stack is discarded before the record has left OPEN for another act (R95, R109). -/
theorem keysKept_leaveOpen {c : CallState} (filed : Bool) (s : State) (leaves : c ≠ .opened) :
    KeysKept s (leaveOpen c filed s) := by
  obtain ⟨_, _, _, _, _, _, _, _, _, _, _, _, empty, _⟩ := leaveOpen_spec filed s leaves
  exact .of_emptied (callCore_leaveOpen c filed s) empty

theorem keysKept_toIdle (filed : Bool) (n : Option Notice) (s : State) : KeysKept s (toIdle filed n s) := by
  unfold toIdle
  dsimp only
  refine KeysKept.before (x := if s.cm.call.state = .opened then leaveOpen .idle filed s else setCallState .idle s) ?_
    (by simp)
  split
  · exact keysKept_leaveOpen filed s (by decide)
  · rename_i state; exact keysKept_setCallState state

theorem keysKept_exhausted (r : Request) (s : State) : KeysKept s (exhausted r s) := by
  unfold exhausted
  refine keysKept_ite ?_
  cases r.kind with
  | call => exact keysKept_ite (keysKept_toIdle _ _ s)
  | accept => exact keysKept_ite (keysKept_toIdle _ _ s)
  | clear => exact keysKept_ite (keysKept_toIdle _ _ s)
  | who => exact .of_keyState (keyState_notice _ s)
  | _ => exact .refl s

theorem keysKept_sendRequest (r : Request) (s : State) : KeysKept s (sendRequest r s) := by
  unfold sendRequest
  split
  · rename_i entered; exact .of_keyState (keyState_of_storeCore (storeCore_luRequest entered))
  · exact keysKept_exhausted r s

theorem keysKept_openToClearing (filed : Bool) (n : Option Notice) (c : Cause) (s : State) :
    KeysKept s (openToClearing filed n c s) :=
  ((keysKept_leaveOpen (c := .clearing) filed s (by decide)).before (by simp)).trans (keysKept_sendRequest _ _)

theorem keysKept_textExhausted (s : State) : KeysKept s (textExhausted s) := keysKept_ite (keysKept_openToClearing _ _ _ s)

/-- A call that opens leaves the edit stack what it is (R78). -/
theorem keysKept_enterOpen (s : State) : KeysKept s (enterOpen s) := by
  have entered : KeysKept s (engageView (openFields (setCallState .opened s))) :=
    ⟨id, fun inv some => ⟨(inv some).1, rfl⟩⟩
  unfold enterOpen
  dsimp only
  generalize engageView (openFields (setCallState .opened s)) = x at entered
  have told : KeysKept s (if x.cm.call.role = some .member then x else notice (.callOpen (partyNumber x)) x) :=
    keysKept_either entered (entered.before (keyState_notice _ _))
  exact keysKept_either (told.trans (keysKept_sendRequest _ _)) told

theorem keysKept_answerAccept (s : State) : KeysKept s (answerAccept s) := (keysKept_sendRequest _ _).after rfl

theorem keysKept_answerRefuse (r : Reason) (s : State) : KeysKept s (answerRefuse r s) :=
  (keysKept_toIdle _ _ _).after (keyState_requestOrDrop _ s)

theorem keysKept_discardEdit (s : State) : KeysKept s (discardEdit s) := by
  have emptied : KeysKept s { s with ku.editStack := [] } := .of_emptied rfl rfl
  exact keysKept_either (.refl s) (emptied.before (keyState_notice _ _))

/-! ### The line (R40 to R44, R51 to R54, R81) -/

theorem keysKept_reportExhausted (rs : List Request) (s : State) : KeysKept s (reportExhausted rs s) := by
  unfold reportExhausted
  induction rs generalizing s with
  | nil => exact .refl s
  | cons r rs ih => exact (keysKept_exhausted r s).trans (ih _)

theorem keysKept_reportText (p : Option TextPlace) (s : State) : KeysKept s (reportText p s) := by
  unfold reportText
  split
  · exact keysKept_either (.refl s) (keysKept_textExhausted s)
  · exact .refl s

theorem keysKept_enterListenOnly (s : State) : KeysKept s (enterListenOnly s) :=
  (((keysKept_reportExhausted _ { s with lu := luListenOnly s.lu }).trans (keysKept_reportText _ _)).before
    (keyState_notice _ _)).after (s := s) rfl

theorem keysKept_entryUnanswered (k : Kind) (s : State) : KeysKept s (entryUnanswered k s) := by
  unfold entryUnanswered
  split
  · exact .refl s
  · refine keysKept_either (.of_keyState rfl) ?_
    split
    · exact .of_keyState rfl
    · exact keysKept_either (.of_keyState rfl) ((keysKept_exhausted _ _).after rfl)

theorem keysKept_textUnanswered (s : State) : KeysKept s (textUnanswered s) := by
  unfold textUnanswered
  split
  · exact .refl s
  · exact keysKept_either (.of_keyState rfl) (keysKept_either (.of_keyState rfl) ((keysKept_textExhausted _).after rfl))

theorem keysKept_entryTaken (k : Kind) (s : State) : KeysKept s (entryTaken k s) := by
  unfold entryTaken
  split
  · exact .refl s
  · exact keysKept_either ((keysKept_toIdle _ _ _).after rfl) (.of_keyState rfl)

theorem keysKept_collide (x : Slot) (s : State) : KeysKept s (collide x s) := by
  have unanswered (source : SlotSource) (y : State) : KeysKept y (collisionUnanswered source y) := by
    cases source with
    | control k => exact keysKept_entryUnanswered k y
    | text => exact keysKept_textUnanswered y
    | probe => exact .of_keyState rfl
  exact keysKept_either ((keysKept_enterListenOnly _).after rfl)
    (((unanswered _ _).before (keyState_endRestartClear _ _)).after rfl)

theorem keysKept_attemptOutcome (source : SlotSource) (ack : Bool) (s : State) :
    KeysKept s (attemptOutcome source ack s) := by
  cases source <;> cases ack
  case control.true k => exact keysKept_entryTaken k s
  case control.false k => exact keysKept_entryUnanswered k s
  case text.true => exact .of_keyState (keyState_textTaken s)
  case text.false => exact keysKept_textUnanswered s
  case probe.true => exact keysKept_enterListenOnly s
  case probe.false => exact .of_keyState (keyState_probeUnanswered s)

theorem keysKept_endAttempt (x : Slot) (ack handedOn : Bool) (s : State) : KeysKept s (endAttempt x ack handedOn s) :=
  ((keysKept_attemptOutcome _ _ _).before (keyState_endRestartClear _ _)).after rfl

/-! ### The hand-on (R37) -/

theorem keysKept_ownCall (h : Handed) (s : State) : KeysKept s (ownCall h s) := by
  unfold ownCall
  refine keysKept_either (.refl s) (keysKept_either (.of_keyState (keyState_requestOrDrop _ s)) ?_)
  split
  · rename_i calling
    exact keysKept_either (keysKept_enterOpen s)
      ((keysKept_setCallState (c := .awaiting) (by rw [calling]; decide)).before rfl)
  · exact .refl s

theorem keysKept_overtaken (s : State) : KeysKept s (overtaken s) := (keysKept_toIdle _ _ _).after rfl

/-- The dial buffer is emptied (R76, R110, R111). -/
theorem keysKept_undialed (s : State) : KeysKept s { s with ku.dial := [] } :=
  .of_fields rfl id id (fun _ => Nat.zero_le 2) id

theorem keysKept_undoDialing (s : State) : KeysKept s (undoDialing s) :=
  (keysKept_undialed s).before (keyState_notice _ _)

theorem keysKept_enterRinging (t : Telegram) (w : Fin 8) {s : State} (state : s.cm.call.state ≠ .opened) :
    KeysKept s (enterRinging t w s) :=
  ((keysKept_setCallState (c := .ringing) (s := setCalled .called t.source t.destination w s) state).before
    (t := enterRinging t w s) rfl).after (s := s) rfl

theorem keysKept_applyOutcome {o : AnswerOutcome} (w : Fin 8) (t : Telegram) (undone : Bool) {s : State}
    (applies : appliesTo o s.cm.call.state = true) : KeysKept s (applyOutcome o w t undone s) := by
  have refused {r : Reason} (x : State) : KeysKept x (refuseCall t r undone x) := by
    have asked (d : Addr) (text : List Code) : KeysKept x (requestOrDrop (request x .refuse d text .cmNoOutcome) x) :=
      .of_keyState (keyState_requestOrDrop _ x)
    exact keysKept_either ((asked _ _).trans (keysKept_toIdle _ _ _)) (asked _ _)
  cases o with
  | ring => exact (keysKept_enterRinging t w (not_opened_of_appliesTo applies (by simp))).before rfl
  | accept =>
    exact (keysKept_enterRinging t w (not_opened_of_appliesTo applies (by simp))).trans
      ((keysKept_answerAccept (setAutoAnswered true (enterRinging t w s))).after rfl)
  | glare =>
    have rings := keysKept_enterRinging t w (s := { s with lu := withdraw .call s.lu })
      (not_opened_of_appliesTo applies (by simp))
    exact (rings.trans ((keysKept_answerAccept (setAutoAnswered false (enterRinging t w
      { s with lu := withdraw .call s.lu }))).after rfl)).after (s := s) rfl
  | refuse r => exact (refused (setAutoAnswered false s)).after rfl
  | memberJoin => exact
    (keysKept_enterOpen (setAutoAnswered false (setCalled .member t.source t.destination w s))).after (s := s) rfl
  | notTaken => exact .refl s

theorem keysKept_takenCall (o : AnswerOutcome) (w : Fin 8) (atTurn : CallState) (t : Telegram) (s : State) :
    KeysKept s (takenCall o w atTurn t s) := by
  unfold takenCall
  split
  · rename_i applies
    have undone : appliesTo o (undoDialing s).cm.call.state = true := by
      rw [undoDialing, (call_of_storeCore (storeCore_notice _ _)).1]; exact applies
    exact keysKept_either ((keysKept_undoDialing s).trans (keysKept_applyOutcome w t true undone))
      (keysKept_applyOutcome w t false applies)
  · exact .refl s

theorem keysKept_heardCall (tookView : Bool) (h : Handed) (s : State) : KeysKept s (heardCall tookView h s) := by
  have first : KeysKept s (if tookView && s.cm.call.state = .calling && !sparesAttempt h s then overtaken s else s) :=
    keysKept_ite (keysKept_overtaken s)
  unfold heardCall
  dsimp only
  split
  · exact first.trans (keysKept_takenCall _ _ _ _ _)
  · exact first

theorem keysKept_takenAccept (h : Handed) (s : State) : KeysKept s (takenAccept h s) := by
  unfold takenAccept
  refine keysKept_ite ?_
  split
  · exact keysKept_enterOpen s
  · exact .refl s
  · exact .of_keyState (keyState_requestOrDrop _ s)

theorem keysKept_heardRefuse (freed : Bool) (h : Handed) (s : State) : KeysKept s (heardRefuse freed h s) := by
  unfold heardRefuse
  split
  · exact .refl s
  · exact keysKept_ite (keysKept_either (keysKept_toIdle _ _ s) (keysKept_ite (.of_keyState (keyState_notice _ s))))

theorem keysKept_heardClear (freed : Bool) (h : Handed) (s : State) : KeysKept s (heardClear freed h s) := by
  have left (n : Station) : KeysKept s (memberLeft n s) := .of_keyState (keyState_notice _ _)
  unfold heardClear
  split
  · exact .refl s
  · dsimp only
    refine keysKept_either (keysKept_ite (left _)) (keysKept_ite ?_)
    split
    · exact keysKept_toIdle _ _ s
    · exact (keysKept_toIdle _ _ _).after rfl
    · exact keysKept_toIdle _ _ s
    · exact keysKept_ite ((keysKept_toIdle _ _ _).after rfl)
    · exact .refl s
    · exact .refl s
    · exact .refl s

/-- The kinds of which the record's state takes no notice (R67, R82, R83, R86, R88 to R90). -/
theorem keyState_cmHandOn_rest {h : Handed} (tookView freed : Bool) (s : State)
    (rest : h.kind ≠ .call ∧ h.kind ≠ .accept ∧ h.kind ≠ .refuse ∧ h.kind ≠ .clear) :
    keyState (cmHandOn tookView freed h s) = keyState s := by
  obtain ⟨call, accept, refuse, clear⟩ := rest
  have asked (x : State) : keyState (if x.cm.call.state ≠ .opened then x
      else if x.cm.call.heldByMe then queueHold x else setHeld x) = keyState x := by
    split_ifs
    · rfl
    · exact keyState_requestOrDrop _ x
    · exact keyState_requestOrDrop _ x
  have captured (run : List Resolved) (x : State) : keyState (capture run x) = keyState x := by
    unfold capture
    dsimp only
    split <;> rfl
  unfold cmHandOn
  split
  · split
    · rename_i kind; exact absurd kind call
    · rename_i kind; exact absurd kind accept
    · rfl
  · split
    · rename_i kind; exact absurd kind call
    · rename_i kind; exact absurd kind accept
    · rename_i kind; exact absurd kind refuse
    · rename_i kind; exact absurd kind clear
    · unfold heardText
      split
      · exact keyState_flowTest s
      · exact asked s
      · exact asked s
      · rfl
    · unfold takenHold; split_ifs <;> rfl
    · unfold takenGo; split_ifs <;> rfl
    · unfold takenBreak; split_ifs <;> simp
    · unfold takenWho; split_ifs <;> simp
    · unfold takenHereis; dsimp only; split_ifs <;> simp [captured]
    · unfold takenPoll
      split_ifs
      · split <;> simp
      · rfl

theorem keysKept_cmHandOn (tookView freed : Bool) (h : Handed) (s : State) :
    KeysKept s (cmHandOn tookView freed h s) := by
  cases own : h.own <;> cases kind : h.kind
  case false.call => rw [cmHandOn, own, kind]; exact keysKept_heardCall tookView h s
  case false.accept => rw [cmHandOn, own, kind]; exact keysKept_takenAccept h s
  case false.refuse => rw [cmHandOn, own, kind]; exact keysKept_heardRefuse freed h s
  case false.clear => rw [cmHandOn, own, kind]; exact keysKept_heardClear freed h s
  case true.call => rw [cmHandOn, own, kind]; exact keysKept_ownCall h s
  case true.accept => rw [cmHandOn, own, kind]; exact keysKept_ite (keysKept_enterOpen s)
  case true.refuse => rw [cmHandOn, own, kind]; exact .refl s
  case true.clear => rw [cmHandOn, own, kind]; exact .refl s
  all_goals exact .of_keyState (keyState_cmHandOn_rest tookView freed s (by rw [kind]; decide))

theorem keysKept_luHandOn (h : Handed) (s : State) : KeysKept s (luHandOn h s) :=
  keysKept_either (.refl s) (keysKept_either (keysKept_either (keysKept_enterListenOnly s) (.of_keyState rfl))
    (keysKept_ite (keysKept_enterListenOnly s)))

theorem keysKept_handOn (h : Handed) (s : State) : KeysKept s (handOn h s) := by
  have ended (freed : Bool) (x : State) : KeysKept x (endFreed freed h x) :=
    keysKept_ite ((keysKept_toIdle _ _ _).after rfl)
  unfold handOn
  dsimp only
  refine (keysKept_luHandOn h s).trans ?_
  generalize luHandOn h s = x
  exact ((keysKept_cmHandOn _ _ h { x with cm.view := viewAfter x.cm.view h }).after (s := x) rfl).trans (ended _ _)

/-! ### The call's timers, and ringing (R75, R77, R93, R94, R166) -/

theorem keysKept_answerWaitEnds (s : State) : KeysKept s (answerWaitEnds s) := by
  unfold answerWaitEnds
  split
  · exact keysKept_toIdle _ _ s
  · exact (keysKept_toIdle _ _ _).after rfl
  · exact .refl s

theorem keysKept_silence (s : State) : KeysKept s (silence s) := by
  have left : KeysKept s (leaveOpen .idle false (freeView s)) :=
    (keysKept_leaveOpen (c := .idle) false (freeView s) (by decide)).after (s := s) rfl
  unfold silence
  dsimp only
  split
  · exact left.before (by simp)
  · exact (keysKept_answerWaitEnds (freeView s)).after (s := s) rfl

theorem keysKept_abandonCall (s : State) : KeysKept s (abandonCall s) :=
  keysKept_either ((keysKept_toIdle _ _ _).after rfl) (.of_keyState rfl)

theorem keysKept_answerByTimer (s : State) : KeysKept s (answerByTimer s) := by
  unfold answerByTimer
  refine keysKept_either ?_ ((keysKept_answerRefuse _ _).after rfl)
  split
  · exact (keysKept_answerAccept _).after rfl
  · exact (keysKept_answerRefuse _ _).after rfl

/-! ### Restart, and the end of the load (R30, R54, R97, R116, R184, R185) -/

theorem keysKept_setScan (p : BitVec 6) (k : KeyScan) (s : State) : KeysKept s (setScan p k s) :=
  .of_fields List.length_set id id id id

theorem keysKept_cmRestart (s : State) : KeysKept s (cmRestart s) := by
  unfold cmRestart
  dsimp only
  refine KeysKept.before (x := if s.cm.call.state = .opened then leaveOpen .idle false s
    else flushSend (setCallState .idle s)) ?_ rfl
  split
  · exact keysKept_leaveOpen false s (by decide)
  · rename_i state; exact (keysKept_setCallState state).before (keyState_flushSend _)

theorem keysKept_kuRestart (s : State) : KeysKept s (kuRestart s) := by
  have emptied : KeysKept s { s with ku.fifo := [], ku.headWaiting := false, ku.retryDue := false, ku.dial := [] } :=
    .of_fields rfl (fun _ => Nat.zero_le 8) id (fun _ => Nat.zero_le 2) id
  exact emptied.trans (keysKept_discardEdit _)

theorem keysKept_restartAll (lines : PresenceLines) (s : State) : KeysKept s (restartAll lines s) := by
  have listens (p : Option Addr) (x : State) : keyState (luRestart p x) = keyState x := by cases p <;> rfl
  have first : KeysKept s (luEmpty (setScan restartPosition ⟨.down, 0⟩ (pressReport s))) :=
    ((keysKept_setScan _ _ (pressReport s)).before
      (t := luEmpty (setScan restartPosition ⟨.down, 0⟩ (pressReport s))) rfl).after (s := s) rfl
  refine ((first.trans (keysKept_cmRestart _)).trans (keysKept_kuRestart _)).before ?_
  simp [restartAll, listens, auRestart, tapeRestart]

theorem keyState_endLoad (result : Option Loaded) (inputs : InputLines) (s : State) :
    keyState (endLoad result inputs s) = keyState s := by
  have first (x : State) : keyState (firstAttendance x) = keyState x := by
    unfold firstAttendance
    dsimp only
    split
    · exact keyState_attendRequest _ _ x
    · rfl
  cases result with
  | some ld => exact first _
  | none => exact (first _).trans (keyState_notice .configFault _)

end Sys2Proof.Machine
end

section
/-!
The keyboard's invariants through its own commands (R99 to R115), and every command together.
-/

namespace Sys2Proof.Machine

/-! ### Scanning and the FIFO (R99 to R101) -/

/-- A press enters a FIFO of fewer than 8 entries (R100). -/
theorem keysKept_enterFifo (k : Key) {s : State} (room : s.ku.fifo.length < 8) : KeysKept s (enterFifo k s) := by
  unfold enterFifo
  have entered (x : State) (same : keyState { x with ku.headRead := s.ku.headRead } = keyState s) :
      KeysKept s { x with ku.fifo := s.ku.fifo ++ [k] } := by
    simp only [keyState, Prod.mk.injEq, KeyboardUnit.mk.injEq] at same
    obtain ⟨⟨scan, _, _, _, _, _, mode, stack, dial⟩, state⟩ := same
    refine .of_fields (congrArg List.length scan) (fun _ => ?_) ?_ ?_ ?_
    · simp only [List.length_append, List.length_singleton]; omega
    · simp only [stack]; exact id
    · simp only [dial]; exact id
    · simp only [editOnlyInLineCall, stack, mode, state]; exact id
  split
  · exact entered (readHead s) rfl
  · exact entered s rfl

theorem keysKept_pressAt (p : BitVec 6) (k : KeyScan) (s : State) : KeysKept s (pressAt p k s) := by
  have taken (j : Key) (x : State) : KeysKept x (takePress j x) := by
    unfold takePress
    split
    · rename_i room; exact (keysKept_enterFifo j room).before (keyState_pressReport _)
    · exact .of_keyState rfl
  unfold pressAt pressTaken
  refine keysKept_either ((keysKept_setScan p k s).trans ?_) (keysKept_setScan p k s)
  split
  · exact taken _ _
  · exact .refl _

/-- The head leaves the FIFO (R101). -/
theorem keysKept_dropHead (s : State) : KeysKept s (dropHead s) :=
  .of_fields rfl (fun entries => (List.length_tail.trans_le (Nat.sub_le _ _)).trans entries) id id id

theorem keysKept_dealtWith (k : Key) (s : State) : KeysKept s (dealtWith k s) := by
  have cased (c : Case) : KeysKept s { s with ku.case := c } := .of_fields rfl id id id id
  exact (cased _).trans (keysKept_dropHead _)

/-! ### Dialing (R72, R110) -/

theorem keysKept_placeCall (d : Addr) {s : State} (state : s.cm.call.state ≠ .opened) : KeysKept s (placeCall d s) := by
  have calling : KeysKept s (setCaller d (setCallState .calling s)) :=
    (keysKept_setCallState (c := .calling) state).before rfl
  exact keysKept_either (calling.trans (keysKept_sendRequest _ _)) ((keysKept_toIdle _ _ s).before rfl)

theorem keysKept_endDialing {s : State} (state : s.cm.call.state ≠ .opened) : KeysKept s (endDialing s) := by
  have refused : KeysKept s (refuseKey (toIdle false none { s with ku.dial := [] })) :=
    ((keysKept_undialed s).trans (keysKept_toIdle _ _ _)).before rfl
  unfold endDialing
  dsimp only
  split
  · exact refused
  · exact keysKept_either refused ((keysKept_undialed s).trans (keysKept_placeCall _ state))

theorem keysKept_dialKey (k : Key) {s : State} (state : s.cm.call.state ≠ .opened) : KeysKept s (dialKey k s) := by
  have digit (d : Nat) (room : s.ku.dial.length < 2) : KeysKept s { s with ku.dial := s.ku.dial ++ [d] } :=
    .of_fields rfl id id (fun _ => by simp only [List.length_append, List.length_singleton]; omega) id
  unfold dialKey
  refine keysKept_either (keysKept_endDialing state) ?_
  split
  · split
    · rename_i room; exact digit _ room
    · exact .of_keyState rfl
  · exact .of_keyState rfl

/-! ### Character keys (R102, R104 to R108) -/

theorem keysKept_keyRuns (main : QueueName) (echo : Bool) (k : Key) (ch : Resolved) (s : State) :
    KeysKept s (keyRuns main echo k ch s) := by
  have echoed (x : State) : keyState (echoRun echo (keyedCell ch) x) = keyState x := by
    unfold echoRun
    split_ifs
    · exact keyState_appendRun_getD rfl
    · rfl
  unfold keyRuns
  refine keysKept_either ?_ (.of_fields rfl id id id id)
  split
  · rename_i sent
    exact (KeysKept.of_keyState ((echoed _).trans (keyState_appendRun sent))).trans (keysKept_dealtWith k _)
  · exact (keysKept_dealtWith k _).after (s := s) rfl

/-- CR commits the edit stack and leaves it empty (R108). -/
theorem keysKept_commitLine (s : State) : KeysKept s (commitLine s) := by
  unfold commitLine
  dsimp only
  refine keysKept_either ?_ (.of_keyState rfl)
  refine KeysKept.before (.of_emptied ?_ rfl) (keyState_signal _ _ _)
  exact callCore_startSendTimer _ _ s

/-- A character goes on an edit stack of fewer than 72 in LINE mode in a sending call (R104, R107). -/
theorem keysKept_stacked (ch : Resolved) {s : State} (line : s.ku.mode = .line) (sends : maySend s.cm.call = true)
    (room : s.ku.editStack.length < 72) : KeysKept s { s with ku.editStack := s.ku.editStack ++ [ch] } :=
  .of_fields rfl id (fun _ => by simp only [List.length_append, List.length_singleton]; omega) id
    fun _ _ => ⟨line, ((maySend_iff _).mp sends).1⟩

theorem keysKept_editKey (k : Key) (ch : Resolved) {s : State} (line : s.ku.mode = .line)
    (sends : maySend s.cm.call = true) : KeysKept s (editKey k ch s) := by
  have refused : KeysKept s (dealtWith k (refuseKey s)) := (keysKept_dealtWith k _).after (s := s) rfl
  refine keysKept_either ((keysKept_commitLine s).trans (keysKept_dealtWith k _))
    (keysKept_either (keysKept_either (keysKept_keyRuns _ _ _ _ s) refused) ?_)
  split
  · rename_i room; exact (keysKept_stacked ch line sends room).trans (keysKept_dealtWith k _)
  · exact refused

theorem keysKept_modeKey (k : Key) (ch : Resolved) (s : State) : KeysKept s (modeKey k ch s) := by
  have refused : KeysKept s (dealtWith k (refuseKey s)) := (keysKept_dealtWith k _).after (s := s) rfl
  unfold modeKey
  split
  · rename_i line
    split
    · exact refused
    · rename_i sends
      exact keysKept_either (keysKept_editKey k ch line (by simpa using sends)) (keysKept_keyRuns _ _ _ _ s)
  · exact keysKept_either (keysKept_keyRuns _ _ _ _ s) refused
  · exact keysKept_either (keysKept_keyRuns _ _ _ _ s) refused

theorem keysKept_interpretChar (k : Key) (ch : Resolved) (s : State) : KeysKept s (interpretChar k ch s) := by
  unfold interpretChar
  split
  · rename_i dialing
    exact (keysKept_dialKey k (by rw [dialing]; decide)).trans (keysKept_dealtWith _ _)
  · exact keysKept_modeKey k ch s

/-! ### The other keys (R87, R89, R102, R103, R107, R112 to R115, R144, R149, R161, R174, R177) -/

/-- The mode changes with the edit stack empty (R103). -/
theorem keysKept_setMode (m : KeyMode) (s : State) : KeysKept s (setMode m s) := by
  unfold setMode
  split
  · rename_i empty; exact .of_fields rfl id id id fun _ some => absurd empty some
  · exact .of_keyState rfl

theorem keysKept_backspaceKey (s : State) : KeysKept s (backspaceKey s) := by
  have dropped : KeysKept s { s with ku.editStack := s.ku.editStack.dropLast } :=
    .of_fields rfl id (fun characters => (List.length_dropLast.trans_le (Nat.sub_le _ _)).trans characters) id
      fun inv some => inv fun none => some (by rw [none]; rfl)
  exact keysKept_either dropped (.of_keyState rfl)

theorem keysKept_cancelDialing (s : State) : KeysKept s (cancelDialing s) :=
  (keysKept_undialed s).trans (keysKept_toIdle _ _ _)

theorem keysKept_takenDialing {f : State → State} {s : State} (h : s.cm.call.state ≠ .opened → KeysKept s (f s)) :
    KeysKept s (takenDialing f s) := by
  unfold takenDialing
  split
  · rename_i dialing; exact h (by rw [dialing]; decide)
  · exact keysKept_undialed s

theorem keysKept_requestDialing (s : State) : KeysKept s (requestDialing s) := by
  unfold requestDialing
  split
  · rename_i idle
    have begun := (keysKept_setCallState (c := .dialing) (s := s) (by rw [idle]; decide)).trans (keysKept_undialed _)
    exact begun.before rfl
  · exact .of_keyState rfl

theorem keysKept_callKeyAct (read : CallState) (s : State) : KeysKept s (callKeyAct read s) := by
  unfold callKeyAct
  split
  · exact keysKept_takenDialing keysKept_endDialing
  · exact keysKept_either
      (keysKept_ite ((keysKept_answerAccept (setAutoAnswered false (ringAnswered s))).after (s := s) rfl)) (.of_keyState rfl)
  · exact keysKept_requestDialing s

theorem keysKept_refuseByKey (s : State) : KeysKept s (refuseByKey s) :=
  keysKept_ite ((keysKept_answerRefuse _ (ringAnswered s)).after (s := s) rfl)

theorem keysKept_requestClear (s : State) : KeysKept s (requestClear s) := by
  unfold requestClear
  split
  · exact keysKept_cancelDialing s
  · exact (keysKept_toIdle _ _ { s with lu := withdraw .call s.lu }).after (s := s) rfl
  · rename_i awaiting
    exact (keysKept_setCallState (c := .clearing) (by rw [awaiting]; decide)).trans (keysKept_sendRequest _ _)
  · exact keysKept_openToClearing _ _ _ s
  · exact keysKept_refuseByKey s
  · exact .refl s
  · exact .refl s

theorem keysKept_clearKeyAct (read : CallState) (s : State) : KeysKept s (clearKeyAct read s) := by
  unfold clearKeyAct
  split
  · exact .refl s
  · exact .refl s
  · exact keysKept_takenDialing fun _ => keysKept_cancelDialing s
  · exact keysKept_either (keysKept_refuseByKey s) (.of_keyState rfl)
  · exact keysKept_requestClear s

theorem keysKept_whoKeyAct (s : State) : KeysKept s (whoKeyAct s) := by
  unfold whoKeyAct
  split
  · exact keysKept_sendRequest _ s
  · exact keysKept_sendRequest _ s
  · exact .of_keyState rfl

theorem keyState_hereisKeyAct (s : State) : keyState (hereisKeyAct s) = keyState s := by
  unfold hereisKeyAct echoRun
  split_ifs
  · split
    · rename_i sent; exact (keyState_appendRun_getD (keyState_refuseKey _)).trans (keyState_appendRun sent)
    · rfl
  · split
    · rename_i sent; exact keyState_appendRun sent
    · rfl
  · exact keyState_appendRun_getD rfl
  · rfl

theorem keyState_breakKeyAct (s : State) : keyState (breakKeyAct s) = keyState s := by
  unfold breakKeyAct
  split_ifs <;> simp

theorem keyState_pollKeyAct (s : State) : keyState (pollKeyAct s) = keyState s := by
  unfold pollKeyAct
  split_ifs <;> simp

theorem keyState_readStartAct (s : State) : keyState (readStartAct s) = keyState s := by
  unfold readStartAct
  split_ifs
  · rfl
  · split <;> rfl

theorem keyState_readStopAct (s : State) : keyState (readStopAct s) = keyState s := by
  unfold readStopAct
  split_ifs <;> simp

theorem keyState_filePrintAct (s : State) : keyState (filePrintAct s) = keyState s := by
  unfold filePrintAct
  split_ifs
  · rfl
  · split
    · rfl
    · dsimp only
      split_ifs <;> simp

theorem keyState_fileClearAct (s : State) : keyState (fileClearAct s) = keyState s := by
  have dropped (rs : List FileRecord) : keyState (dropRecords rs s) = keyState s := by rw [dropRecords_eq]; rfl
  simp [fileClearAct, dropped]

theorem keyState_attendKeyAct (s : State) : keyState (attendKeyAct s) = keyState s := by
  unfold attendKeyAct
  split_ifs <;> simp

/-! ### The answers of commands -/

/-- Whatever next state a command answers keeps the keyboard's invariants. -/
def AnswerKeysKept (s : State) (r : Result) : Prop := ∀ t, r = .next t → KeysKept s t

theorem answerKeysKept_unmoved (s : State) : AnswerKeysKept s (unmoved s) := by
  rintro t ⟨⟩
  exact .refl s

theorem answerKeysKept_acted {s t : State} (h : KeysKept s t) : AnswerKeysKept s (acted t) := by
  rintro u ⟨⟩
  exact h.before (keyState_settle t)

theorem answerKeysKept_actIf {can : Bool} {f : State → State} {s : State} (h : KeysKept s (f s)) :
    AnswerKeysKept s (actIf can f s) := by
  unfold actIf
  split
  · exact answerKeysKept_acted h
  · exact answerKeysKept_unmoved s

theorem answerKeysKept_expire {timer : Option Tick} {can : Bool} {f : State → State} {s : State}
    (h : ∀ x, KeysKept x (f x)) : AnswerKeysKept s (expire timer can f s) := by
  unfold expire
  split
  · exact answerKeysKept_actIf ((h _).after (keyState_elapse _ s))
  · exact answerKeysKept_unmoved s

/-- A command whose act leaves `keyState`. -/
theorem answerKeysKept_of_same {can : Bool} {f : State → State} {s : State} (h : keyState (f s) = keyState s) :
    AnswerKeysKept s (actIf can f s) := answerKeysKept_actIf (.of_keyState h)

/-- An expiry whose act leaves `keyState`. -/
theorem answerKeysKept_expire_same {timer : Option Tick} {can : Bool} {f : State → State} {s : State}
    (h : ∀ x, keyState (f x) = keyState x) : AnswerKeysKept s (expire timer can f s) :=
  answerKeysKept_expire fun x => .of_keyState (h x)

theorem answerKeysKept_keyAct {k : Key} {f : State → State} {s : State} (h : KeysKept s (f s)) :
    AnswerKeysKept s (keyAct k f s) := answerKeysKept_actIf (h.trans (keysKept_dropHead _))

theorem answerKeysKept_breakLine (s : State) : AnswerKeysKept s (breakLine s) :=
  answerKeysKept_of_same (keyState_lineBroken s)

theorem answerKeysKept_readUnits {units : List Bool} {f : State → State} {s : State} (h : ∀ x, KeysKept x (f x)) :
    AnswerKeysKept s (readUnits units f s) := by
  unfold readUnits
  split
  · exact answerKeysKept_breakLine s
  · exact answerKeysKept_acted ((h (countUnits units s)).after (s := s) rfl)

theorem answerKeysKept_telegramTurn (t : Telegram) (s : State) : AnswerKeysKept s (execTelegramTurn t s) := by
  unfold execTelegramTurn
  split
  · exact answerKeysKept_readUnits fun x => .of_keyState (keyState_turnHeard _ t x)
  · split
    · exact answerKeysKept_readUnits fun _ => .of_keyState rfl
    · exact answerKeysKept_unmoved s
  · exact answerKeysKept_readUnits fun _ => .of_keyState rfl
  · exact answerKeysKept_unmoved s
  · exact answerKeysKept_unmoved s

theorem answerKeysKept_malformedDiscard (t : Telegram) (s : State) : AnswerKeysKept s (execMalformedDiscard t s) := by
  unfold execMalformedDiscard
  split
  · exact answerKeysKept_readUnits fun _ => .of_keyState rfl
  · exact answerKeysKept_unmoved s

theorem answerKeysKept_telegramHandOn (slot : SlotUnits) (s : State) : AnswerKeysKept s (execTelegramHandOn slot s) := by
  unfold execTelegramHandOn
  split
  · split
    · split
      · exact answerKeysKept_breakLine s
      · exact answerKeysKept_acted ((keysKept_handOn _ _).after (s := s) rfl)
    · exact answerKeysKept_unmoved s
  · exact answerKeysKept_unmoved s

theorem answerKeysKept_transmitStart (s : State) : AnswerKeysKept s (execTransmitStart s) := by
  unfold execTransmitStart
  dsimp only
  split
  · exact answerKeysKept_of_same ((keyState_startTelegram _ _).trans (keyState_formText s))
  · exact answerKeysKept_unmoved s

theorem answerKeysKept_arbitrationLoss (s : State) : AnswerKeysKept s (execArbitrationLoss s) := by
  unfold execArbitrationLoss
  split
  · exact answerKeysKept_acted (.of_keyState rfl)
  · exact answerKeysKept_unmoved s

theorem answerKeysKept_collision (s : State) : AnswerKeysKept s (execCollision s) := by
  unfold execCollision
  split
  · rename_i x _
    dsimp only
    split
    · exact answerKeysKept_readUnits fun y => (keysKept_collide x { y with lu.spaceLeft := _ }).after (s := y) rfl
    · exact answerKeysKept_acted (keysKept_collide x s)
  · exact answerKeysKept_unmoved s

theorem answerKeysKept_attemptEnd (ackSpace : Bool) (s : State) : AnswerKeysKept s (execAttemptEnd ackSpace s) := by
  unfold execAttemptEnd
  split
  · exact answerKeysKept_actIf (keysKept_endAttempt _ _ _ s)
  · exact answerKeysKept_unmoved s

theorem answerKeysKept_keyPress (key : KeySamples) (s : State) : AnswerKeysKept s (execKeyPress key s) := by
  unfold execKeyPress
  split
  · exact answerKeysKept_actIf (keysKept_pressAt _ _ s)
  · exact answerKeysKept_unmoved s

theorem answerKeysKept_keyRelease (key : KeySamples) (s : State) : AnswerKeysKept s (execKeyRelease key s) := by
  unfold execKeyRelease
  split
  · exact answerKeysKept_acted (keysKept_setScan _ _ s)
  · exact answerKeysKept_unmoved s

theorem answerKeysKept_characterKey (s : State) : AnswerKeysKept s (execCharacterKey s) := by
  unfold execCharacterKey
  split
  · exact answerKeysKept_actIf (keysKept_interpretChar _ _ s)
  · exact answerKeysKept_unmoved s

theorem answerKeysKept_keyHeadRetry (s : State) : AnswerKeysKept s (execKeyHeadRetry s) := by
  unfold execKeyHeadRetry
  split
  · exact answerKeysKept_actIf (keysKept_interpretChar _ _ s)
  · exact answerKeysKept_unmoved s

theorem answerKeysKept_puTakeCell (s : State) : AnswerKeysKept s (execPuTakeCell s) := by
  unfold execPuTakeCell
  split
  · exact answerKeysKept_of_same (keyState_takePrintCell _ _ s)
  · exact answerKeysKept_unmoved s

theorem answerKeysKept_punchTakeCell (s : State) : AnswerKeysKept s (execPunchTakeCell s) := by
  unfold execPunchTakeCell
  split
  · exact answerKeysKept_of_same (keyState_takePunchCell _ s)
  · exact answerKeysKept_unmoved s

theorem answerKeysKept_readerCycleStart (s : State) : AnswerKeysKept s (execReaderCycleStart s) := by
  unfold execReaderCycleStart
  split
  · exact answerKeysKept_of_same (keyState_readerStep _ s)
  · exact answerKeysKept_unmoved s

theorem answerKeysKept_readerResume (s : State) : AnswerKeysKept s (execReaderResume s) := by
  unfold execReaderResume
  split
  · exact answerKeysKept_of_same (keyState_readerGoOn _ _)
  · exact answerKeysKept_unmoved s

/-! ### Every command -/

/-- Every command but RESET_ASSERT keeps the keyboard in its bounds and the edit stack within its call. -/
theorem exec_keepsKeys {c : Instr} {s : State} (noReset : c ≠ .resetAssert) : AnswerKeysKept s (exec c s) := by
  cases c with
  | resetAssert => exact absurd rfl noReset
  | resetRelease straps lines => exact answerKeysKept_of_same rfl
  | configReadDone image inputs => exact answerKeysKept_of_same (keyState_endLoad _ _ s)
  | configNoAck inputs => exact answerKeysKept_of_same (keyState_endLoad _ _ s)
  | configLoadTimeout inputs => exact answerKeysKept_expire_same (keyState_endLoad _ _)
  | telegramTurn t => exact answerKeysKept_telegramTurn t s
  | malformedDiscard t => exact answerKeysKept_malformedDiscard t s
  | telegramHandOn slot => exact answerKeysKept_telegramHandOn slot s
  | transmitStart => exact answerKeysKept_transmitStart s
  | arbitrationLoss => exact answerKeysKept_arbitrationLoss s
  | collision => exact answerKeysKept_collision s
  | attemptEnd ackSpace => exact answerKeysKept_attemptEnd ackSpace s
  | retryWaitExpiry which =>
    rw [exec, execRetryWaitExpiry]
    exact answerKeysKept_expire_same fun _ => rfl
  | lineBreak => exact answerKeysKept_breakLine s
  | lineRestored => exact answerKeysKept_of_same (keyState_lineRestored s)
  | listenQuietExpiry =>
    rw [exec, execListenQuietExpiry]
    exact answerKeysKept_of_same (keyState_elapse _ s)
  | listenWindowExpiry =>
    rw [exec, execListenWindowExpiry]
    exact answerKeysKept_expire_same fun _ => keyState_notice _ _
  | probeWaitExpiry =>
    rw [exec, execProbeWaitExpiry]
    exact answerKeysKept_expire_same fun _ => rfl
  | sendTimerExpiry =>
    rw [exec, execSendTimerExpiry]
    exact answerKeysKept_expire_same fun _ => rfl
  | silenceExpiry => exact answerKeysKept_expire keysKept_silence
  | ringWaitExpiry =>
    rw [exec, execRingWaitExpiry]
    exact answerKeysKept_expire fun x => (keysKept_answerWaitEnds (freeView x)).after (s := x) rfl
  | breakTimerExpiry => exact answerKeysKept_expire keysKept_abandonCall
  | holdEntryExpiry station => exact answerKeysKept_expire_same fun _ => keyState_notice _ _
  | heldSinceExpiry =>
    rw [exec, execHeldSinceExpiry]
    exact answerKeysKept_expire fun _ => keysKept_openToClearing _ _ _ _
  | keyPress key => exact answerKeysKept_keyPress key s
  | keyHeadRetry => exact answerKeysKept_keyHeadRetry s
  | characterKey => exact answerKeysKept_characterKey s
  | ltrsKey =>
    rw [exec, execLtrsKey]
    exact answerKeysKept_keyAct (.of_fields rfl id id id id)
  | figsKey =>
    rw [exec, execFigsKey]
    exact answerKeysKept_keyAct (.of_fields rfl id id id id)
  | lineKey => exact answerKeysKept_keyAct (keysKept_setMode .line s)
  | localKey => exact answerKeysKept_keyAct (keysKept_setMode .localMode s)
  | tapeKey => exact answerKeysKept_keyAct (keysKept_setMode .tape s)
  | backspace => exact answerKeysKept_keyAct (keysKept_backspaceKey s)
  | callKey => exact answerKeysKept_keyAct (keysKept_callKeyAct s.ku.headRead s)
  | clearKey => exact answerKeysKept_keyAct (keysKept_clearKeyAct s.ku.headRead s)
  | whoKey => exact answerKeysKept_keyAct (keysKept_whoKeyAct s)
  | hereisKey => exact answerKeysKept_keyAct (.of_keyState (keyState_hereisKeyAct s))
  | breakKey => exact answerKeysKept_keyAct (.of_keyState (keyState_breakKeyAct s))
  | pollKey => exact answerKeysKept_keyAct (.of_keyState (keyState_pollKeyAct s))
  | readStart => exact answerKeysKept_keyAct (.of_keyState (keyState_readStartAct s))
  | readStop => exact answerKeysKept_keyAct (.of_keyState (keyState_readStopAct s))
  | filePrint => exact answerKeysKept_keyAct (.of_keyState (keyState_filePrintAct s))
  | fileClear => exact answerKeysKept_keyAct (.of_keyState (keyState_fileClearAct s))
  | attendKey => exact answerKeysKept_keyAct (.of_keyState (keyState_attendKeyAct s))
  | restart lines =>
    rw [exec, execRestart]
    exact answerKeysKept_actIf ((keysKept_restartAll lines.toPresenceLines _).after (keyState_countDiscarded lines.units s))
  | paperStateChange first second => exact answerKeysKept_of_same (keyState_setPaper _ s)
  | puTakeCell => exact answerKeysKept_puTakeCell s
  | printOpComplete => exact answerKeysKept_expire_same keyState_completePrintOp
  | heatTimerExpiry => exact answerKeysKept_expire_same fun _ => rfl
  | tapeStateChange first second => exact answerKeysKept_of_same (keyState_setTape _ s)
  | punchTakeCell => exact answerKeysKept_punchTakeCell s
  | punchOpComplete => exact answerKeysKept_expire_same keyState_finishPunchOp
  | tapeInChange level =>
    rw [exec, execTapeInChange]
    exact answerKeysKept_of_same rfl
  | readerCycleStart => exact answerKeysKept_readerCycleStart s
  | readerCycleComplete row => exact answerKeysKept_expire_same (keyState_completeCycle row)
  | readerResume => exact answerKeysKept_readerResume s
  | runUpExpiry => exact answerKeysKept_expire_same keyState_runUpEnds
  | senseWindowExpiry => exact answerKeysKept_expire_same keyState_enterFaulted
  | motorSenseChange level => exact answerKeysKept_of_same (keyState_senseTaken level s)
  | motorHoldExpiry =>
    rw [exec, execMotorHoldExpiry]
    exact answerKeysKept_expire_same fun _ => rfl
  | faultWaitExpiry => exact answerKeysKept_expire_same keyState_leaveFaulted
  | bellPulseExpiry =>
    rw [exec, execBellPulseExpiry]
    exact answerKeysKept_expire_same fun _ => rfl
  | cadencePhaseExpiry =>
    rw [exec, execCadencePhaseExpiry]
    exact answerKeysKept_expire_same fun _ => rfl
  | callLampFlashExpiry =>
    rw [exec, execCallLampFlashExpiry]
    exact answerKeysKept_expire_same fun _ => rfl
  | attendSwitchChange level => exact answerKeysKept_of_same (keyState_switchTaken level s)
  | attendTimerExpiry =>
    rw [exec, execAttendTimerExpiry]
    exact answerKeysKept_expire_same fun _ => keyState_attendRequest _ _ _
  | ringTimerExpiry => exact answerKeysKept_expire keysKept_answerByTimer
  | replayHeaderRetry =>
    rw [exec, execReplayHeaderRetry]
    exact answerKeysKept_of_same ((keyState_finishCursor _).trans (keyState_tryHeader s))
  | stationClockTick => exact answerKeysKept_expire_same fun _ => rfl
  | huntingSpaceRead afterUnits => exact answerKeysKept_of_same (keyState_readSpace afterUnits s)
  | brokenSpaceRead => exact answerKeysKept_of_same (keyState_readBrokenSpace s)
  | keyRelease key => exact answerKeysKept_keyRelease key s

/-- Settles O7: every command keeps both, and device reset meets them. -/
theorem keyboardStaysInBounds : Obligations.KeyboardStaysInBounds := by
  obtain ⟨_, boundsAtReset, editAtReset, _⟩ := resetMeetsTheInvariants
  have kept {s t : State} (next : step s = .next t) : KeysKept s t ∨ keyState t = keyState State.reset := by
    unfold step at next
    split at next
    · cases next; exact .inl (.of_keyState (keyState_elapse 1 s))
    · rename_i c rest _
      by_cases reset : c = .resetAssert
      · subst reset
        cases next
        exact .inr rfl
      · exact .inl ((exec_keepsKeys reset t next).after (s := s) rfl)
  refine ⟨fun s t inv next => ?_, fun s t inv next => ?_⟩
  · exact (kept next).elim (·.bounds inv) fun same => (KeysKept.of_keyState same).bounds boundsAtReset
  · exact (kept next).elim (·.edit inv) fun same => (KeysKept.of_keyState same).edit editAtReset

end Sys2Proof.Machine
end

section
/-!
The keys that the KU acts on itself (R102, R103, R107), and the samples of a key position (R99, R100, R162).
-/

namespace Sys2Proof.Machine

/-! ### Case keys, mode keys and BACKSPACE (R102, R103, R107) -/

theorem setMode_empty (m : KeyMode) {s : State} (empty : s.ku.editStack = []) :
    setMode m s = { s with ku.mode := m } := if_pos empty

theorem setMode_refused (m : KeyMode) {s : State} (some : s.ku.editStack ≠ []) : setMode m s = refuseKey s := if_neg some

theorem editing_iff (s : State) :
    editing s = true ↔ s.ku.mode = .line ∧ s.cl.config.edit = true ∧ s.cm.call.state = .opened
      ∧ (s.cm.call.role = some .caller ∨ s.cm.call.role = some .called) := by
  simp [editing, maySend_iff, and_assoc]

/-- BACKSPACE on a stack that is in use and holds a character (R107). -/
theorem backspaceKey_removes {s : State} {stack : List Resolved} {top : Resolved} (stacked : s.ku.editStack = stack ++ [top])
    (used : editing s = true) : backspaceKey s = { s with ku.editStack := stack } := by
  simp [backspaceKey, used, stacked]

theorem backspaceKey_refused {s : State} (idle : s.ku.editStack = [] ∨ editing s = false) : backspaceKey s = refuseKey s := by
  rcases idle with empty | unused
  · simp [backspaceKey, empty]
  · simp [backspaceKey, unused]

/-- Settles O41, key by key. -/
theorem caseModeAndBackspaceKeys : Obligations.CaseModeAndBackspaceKeys := by
  unfold Obligations.CaseModeAndBackspaceKeys
  have acts {s : State} {rest : List Key} {k : Key} {f : State → State} (load : loaded s = true)
      (head : s.ku.fifo = k :: rest) : keyAct k f s = .next (settle (dropHead (f s))) := keyAct_of_head load head
  refine ⟨fun s rest load => ?_, fun s rest load head => ?_⟩
  · have refused {k : Key} (m : KeyMode) (some : s.ku.editStack ≠ []) (head : s.ku.fifo = k :: rest) :
        keyAct k (setMode m) s = .next (settle { s with
          ku := keyDealt s.ku rest s.cm.call.state, mt.pulses := s.mt.pulses ++ [⟨.keyboard, ms 100⟩] }) := by
      rw [acts load head, setMode_refused m some, dropHead_refuseKey rfl head]
    have sets {k : Key} (m : KeyMode) (empty : s.ku.editStack = []) (head : s.ku.fifo = k :: rest) :
        keyAct k (setMode m) s =
          .next (settle { s with ku := { keyDealt s.ku rest s.cm.call.state with mode := m } }) := by
      rw [acts load head, setMode_empty m empty]
      simp only [dropHead, readHead, keyDealt, head, List.tail_cons]
    refine ⟨fun head => ?_, fun head => ?_, fun empty => ⟨sets .line empty, sets .localMode empty, sets .tape empty⟩,
      fun some => ⟨refused .line some, refused .localMode some, refused .tape some⟩⟩
    · refine (acts (f := fun x => { x with ku.case := .ltrs }) load head).trans ?_
      simp only [dropHead, readHead, head, List.tail_cons]
    · refine (acts (f := fun x => { x with ku.case := .figs }) load head).trans ?_
      simp only [dropHead, readHead, head, List.tail_cons]
  · have run : exec .backspace s = .next (settle (dropHead (backspaceKey s))) := acts load head
    refine ⟨fun stack top stacked line edit opened sends => ?_, fun idle => ?_⟩
    · rw [run, backspaceKey_removes stacked ((editing_iff s).mpr ⟨line, edit, opened, sends⟩)]
      simp only [dropHead, readHead, head, List.tail_cons]
    · have unused : s.ku.editStack = [] ∨ editing s = false := by
        refine idle.imp_right fun off => Bool.eq_false_iff.mpr fun used => ?_
        obtain ⟨line, edit, opened, sends⟩ := (editing_iff s).mp used
        rcases off with mode | option | state | member
        · exact mode line
        · exact Bool.false_ne_true (option.symm.trans edit)
        · exact state opened
        · rcases sends with caller | called
          · exact nomatch member.symm.trans caller
          · exact nomatch member.symm.trans called
      rw [run, backspaceKey_refused unused, dropHead_refuseKey rfl head]
      rfl

/-! ### The samples of a position (R99) -/

theorem KeyScan.sample_with {k : KeyScan} {b : Bool} (same : k.level.isAgainst b = false) :
    k.sample b = ⟨k.level, 0⟩ := by
  simp [KeyScan.sample, same]

theorem KeyScan.sample_against {k : KeyScan} {b : Bool} (against : k.level.isAgainst b = true) :
    k.sample b = if k.count < 2 then ⟨k.level, k.count + 1⟩ else ⟨k.level.other, 0⟩ := by
  simp [KeyScan.sample, against]

/-- As many closed samples as an UP position still needs take the press (R99). -/
theorem KeyScan.samples_press {k : KeyScan} (up : k.level = .up) (range : k.count ≤ 2) :
    KeyScan.samples (List.replicate (3 - k.count) true) k = ⟨.down, 0⟩ := by
  obtain ⟨level, count⟩ := k
  subst up
  match count, range with
  | 0, _ => rfl
  | 1, _ => rfl
  | 2, _ => rfl

/-! ### A press and a release (R98 to R101, R162) -/

/-- The positions that carry a key (R98). -/
theorem keyAt_none {p : BitVec 6} (high : 46 < p.toNat) : keyAt p = none := by
  revert p; decide

theorem keyAt_some {p : BitVec 6} (low : p.toNat ≤ 46) : ∃ name, keyAt p = some name := by
  rw [← Option.isSome_iff_exists]
  revert p; decide

/-- The samples of a position at its level, once the load has ended. -/
theorem sampled_of_level {l : KeyLevel} {key : KeySamples} {s : State} {k : KeyScan} (load : loaded s = true)
    (at_ : s.ku.scan[key.position.toNat]? = some k) (level : k.level = l) :
    sampled l key s = some (KeyScan.samples key.samples k) := by
  simp [sampled, at_, load, level]

/-- A press reported to the AU (R162). -/
theorem pressReport_eq (s : State) :
    pressReport s =
      { s with
        au.attendTimer :=
          if s.au.attendance = .attended then
            if s.cl.config.attendTimeout ≠ 0 ∧ switchAssigned s = false then some (minutes s.cl.config.attendTimeout) else none
          else s.au.attendTimer
        au.pending := s.au.pending.filter fun c => c.2 ≠ .timeout } := by
  have timer : attendTimerFull s =
      if s.cl.config.attendTimeout ≠ 0 ∧ switchAssigned s = false then some (minutes s.cl.config.attendTimeout) else none := by
    simp [attendTimerFull, timeoutOn]
  have pending : (pressReport s).au.pending = s.au.pending.filter fun c => c.2 ≠ .timeout := by
    unfold pressReport
    dsimp only
    rcases s.au.pending with _ | ⟨target, cause⟩
    · rfl
    · cases cause <;> rfl
  rw [← timer, ← pending]
  rfl

theorem enterFifo_eq (k : Key) (s : State) :
    enterFifo k s =
      { s with
        ku.fifo := s.ku.fifo ++ [k]
        ku.headRead := if s.ku.fifo = [] then s.cm.call.state else s.ku.headRead } := by
  unfold enterFifo
  split_ifs <;> rfl

/-- A press where the FIFO has room, with all that it changes (R100, R101, R162). -/
theorem takePress_room {k : Key} {s : State} (room : s.ku.fifo.length < 8) :
    takePress k s = pressReport (enterFifo k s) := if_pos room

theorem takePress_full {k : Key} {s : State} (full : 8 ≤ s.ku.fifo.length) : takePress k s = bellPulse .keyboard s :=
  if_neg (Nat.not_lt.mpr full)

/-- KEY_PRESS of an UP position other than RESTART's (R99, R100). -/
theorem exec_keyPress {key : KeySamples} {s : State} {k : KeyScan} (load : loaded s = true)
    (at_ : s.ku.scan[key.position.toNat]? = some k) (up : k.level = .up)
    (other : (KeyScan.samples key.samples k).level = .down → key.position.toNat ≠ 45) :
    exec (.keyPress key) s = .next (settle (pressAt key.position (KeyScan.samples key.samples k) s)) := by
  have may : ¬(key.position = restartPosition ∧ (KeyScan.samples key.samples k).level = .down) :=
    fun ⟨restart, down⟩ => other down (by rw [restart]; rfl)
  simp only [exec, execKeyPress, sampled_of_level load at_ up]
  exact actIf_of _ s (decide_eq_true may)

theorem pressAt_up {p : BitVec 6} {k : KeyScan} (s : State) (up : k.level = .up) : pressAt p k s = setScan p k s :=
  if_neg (by rw [up]; decide)

theorem pressAt_down {p : BitVec 6} {k : KeyScan} (s : State) (down : k.level = .down) :
    pressAt p k s = pressTaken p (setScan p k s) := if_pos down

/-- Settles O42: the samples case by case, then what the press finds. -/
theorem pressAndRelease : Obligations.PressAndRelease := by
  unfold Obligations.PressAndRelease
  refine ⟨fun k => ⟨fun up => ?_, fun down => ?_, rfl, fun b bs => KeyScan.samples_cons b bs k, KeyScan.samples_press⟩,
    fun s key k load at_ => ⟨fun up => ⟨fun stays => ?_, fun pressed position => ?_⟩, fun down => ?_⟩⟩
  · rw [KeyScan.sample_with (by rw [up]; rfl), KeyScan.sample_against (by rw [up]; rfl), up]
    exact ⟨rfl, rfl⟩
  · rw [KeyScan.sample_with (by rw [down]; rfl), KeyScan.sample_against (by rw [down]; rfl), down]
    exact ⟨rfl, rfl⟩
  · rw [exec_keyPress load at_ up (fun pressed => nomatch stays.symm.trans pressed), pressAt_up s stays]
    rfl
  · rw [exec_keyPress load at_ up fun _ => position, pressAt_down s pressed]
    refine ⟨fun high => ?_, fun low full => ?_, fun low room => ?_⟩
    · rw [pressTaken, keyAt_none high]
      rfl
    · obtain ⟨name, there⟩ := keyAt_some low
      rw [pressTaken, there]
      dsimp only
      rw [takePress_full (s := setScan _ _ s) full]
      rfl
    · obtain ⟨name, there⟩ := keyAt_some low
      refine ⟨name, there, ?_⟩
      rw [pressTaken, there]
      dsimp only
      rw [takePress_room (s := setScan _ _ s) room, pressReport_eq, enterFifo_eq]
      rfl
  · simp only [exec, execKeyRelease, sampled_of_level load at_ down]
    rfl

end Sys2Proof.Machine
end

section
/-!
The character keys (R101, R102, R104 to R108, R110): what the key leaves of the keyboard once dealt with, its runs, the edit
stack, and the dialing that CR ends.
-/

namespace Sys2Proof.Machine

/-! ### The key dealt with (R101, R102) -/

/-- The Keyboard Unit once a character key has been dealt with: the entry gone, and the case LTRS after a SPACE with
unshift-on-space on (R101, R102). -/
def charDealt (k : Key) (rest : List Key) (s : State) : KeyboardUnit :=
  { keyDealt s.ku rest s.cm.call.state with case := if k = .space ∧ unshift s then .ltrs else s.ku.case }

theorem dealtWith_eq {k : Key} {rest : List Key} {s : State} (head : s.ku.fifo = k :: rest) :
    dealtWith k s = { s with ku := charDealt k rest s } := by
  simp only [dealtWith, dropHead, readHead, charDealt, keyDealt, head, List.tail_cons]

/-- An act on the store alone leaves the keyboard but for its retry flag, which the key's end clears. -/
theorem charDealt_of_storeCore {k : Key} {rest : List Key} {s u : State} (core : storeCore u = storeCore s) :
    charDealt k rest u = charDealt k rest s := by
  have cl := (cl_of_callCore (callCore_of_storeCore core)).1
  have state := (call_of_storeCore core).1
  have ku : { u.ku with retryDue := false } = { s.ku with retryDue := false } := congrArg Prod.fst (keyState_of_storeCore core)
  simp only [KeyboardUnit.mk.injEq] at ku
  obtain ⟨scan, _, _, _, _, case, mode, stack, dial⟩ := ku
  simp only [charDealt, keyDealt, unshift, cl, state, scan, case, mode, stack, dial]
  rfl

/-- After an act on the store alone the key is dealt with as if that had been the act's only effect on the KU. -/
theorem dealtWith_of_storeCore {k : Key} {rest : List Key} {s u : State} (core : storeCore u = storeCore s)
    (head : s.ku.fifo = k :: rest) : dealtWith k u = { u with ku := charDealt k rest s } := by
  have fifo : u.ku.fifo = s.ku.fifo := (ku_of_callCore (callCore_of_storeCore core)).2.1
  rw [dealtWith_eq (fifo.trans head), charDealt_of_storeCore core]

/-- The same for a key refused, or whose echo was refused. -/
theorem dealtWith_refuseKey {k : Key} {rest : List Key} {s u : State} (core : storeCore u = storeCore s)
    (head : s.ku.fifo = k :: rest) :
    dealtWith k (refuseKey u) =
      { u with ku := charDealt k rest s, mt.pulses := u.mt.pulses ++ [⟨.keyboard, ms 100⟩] } :=
  congrArg refuseKey (dealtWith_of_storeCore core head)

theorem dealtWith_cr (s : State) : dealtWith .cr s = dropHead s := by simp [dealtWith]

/-! ### The command (R101, R104) -/

/-- CHARACTER_KEY and KEY_HEAD_RETRY interpret the character key at the head alike. -/
theorem exec_character {s : State} {k : Key} {rest : List Key} {ch : Resolved} {c : Instr} (load : loaded s = true)
    (head : s.ku.fifo = k :: rest) (char : keyChar s.ku.case k = some ch)
    (taken : c = .characterKey ∧ s.ku.headWaiting = false
      ∨ c = .keyHeadRetry ∧ s.ku.headWaiting = true ∧ s.ku.retryDue = true) :
    exec c s = .next (settle (interpretChar k ch s)) := by
  have there : charHead s = some (k, ch) := by simp [charHead, headKey, load, head, char]
  rcases taken with ⟨rfl, first⟩ | ⟨rfl, waits, due⟩
  · simp only [exec, execCharacterKey, there]
    exact actIf_of _ s (by rw [first]; rfl)
  · simp only [exec, execKeyHeadRetry, there]
    exact actIf_of _ s (by rw [waits, due]; rfl)

/-! ### The runs of a character key (R104 to R106) -/

theorem limitsPass_iff (n : QueueName) (echo : Bool) (run : List Cell) (s : State) :
    limitsPass n echo run s = true ↔
      (s.cs.queue n).limitPasses run = true ∧ (echo = true → s.cs.print.limitPasses run = true) := by
  cases echo <;> simp [limitsPass]

/-- At a queue's limit the key waits at the head (R106). -/
theorem keyRuns_waits {n : QueueName} {echo : Bool} {k : Key} {ch : Resolved} {s : State}
    (full : ¬ limitsPass n echo (keyedCell ch) s = true) : keyRuns n echo k ch s = waitAtHead s := if_neg full

theorem keyRuns_fits {n : QueueName} {echo : Bool} {k : Key} {ch : Resolved} {s : State}
    (fits : limitsPass n echo (keyedCell ch) s = true) :
    keyRuns n echo k ch s =
      ((appendRun n .mayUse (keyedCell ch) s).map fun u => dealtWith k (echoRun echo (keyedCell ch) u)).getD
        (dealtWith k (refuseKey s)) := by
  unfold keyRuns
  rw [if_pos fits]
  cases appendRun n .mayUse (keyedCell ch) s <;> rfl

/-- The reserve refuses the main run: the bell, and no echo (R106). -/
theorem keyRuns_refused {n : QueueName} {echo : Bool} {k : Key} {ch : Resolved} {s : State}
    (fits : limitsPass n echo (keyedCell ch) s = true) (refused : appendRun n .mayUse (keyedCell ch) s = none) :
    keyRuns n echo k ch s = dealtWith k (refuseKey s) := by rw [keyRuns_fits fits, refused]; rfl

theorem keyRuns_sent {n : QueueName} {echo : Bool} {k : Key} {ch : Resolved} {s u : State}
    (fits : limitsPass n echo (keyedCell ch) s = true) (sent : appendRun n .mayUse (keyedCell ch) s = some u) :
    keyRuns n echo k ch s = dealtWith k (echoRun echo (keyedCell ch) u) := by rw [keyRuns_fits fits, sent]; rfl

theorem echoRun_off (run : List Cell) (s : State) : echoRun false run s = s := rfl

theorem echoRun_printed {run : List Cell} {s v : State} (printed : appendRun .print .mayUse run s = some v) :
    echoRun true run s = v := by simp [echoRun, printed]

theorem echoRun_refused {run : List Cell} {s : State} (refused : appendRun .print .mayUse run s = none) :
    echoRun true run s = refuseKey s := by simp [echoRun, refused]

/-! ### The edit stack (R107, R108) -/

/-- Nothing of the flow test reads the keyboard. -/
theorem flowTest_ku (ku : KeyboardUnit) (s : State) : flowTest { s with ku := ku } = { flowTest s with ku := ku } := by
  have applies : flowApplies { s with ku := ku } = flowApplies s := rfl
  have hold : holdLevel { s with ku := ku } = holdLevel s := rfl
  have go : goLevel { s with ku := ku } = goLevel s := rfl
  unfold flowTest
  simp only [applies, hold, go, setHeld, queueHold, clearHeld, requestOrDrop_eq]
  split_ifs <;> rfl

/-- What a block event changes of the call, and the key dealt with, in either order. -/
theorem dealtWith_signal {k : Key} {rest : List Key} {s : State} (taken : Bool) (head : s.ku.fifo = k :: rest) :
    dealtWith k (signal false taken s) = signal false taken { s with ku := charDealt k rest s } := by
  rw [dealtWith_of_storeCore (storeCore_signal false taken s) head]
  cases taken with
  | false => rfl
  | true => exact (flowTest_ku _ s).symm

/-- The run that CR commits (R108). -/
def commitRun (s : State) : List Cell := cellsOf .keyboard (s.ku.editStack ++ [.cr])

/-- The stack committed, before the event of the act (R108). -/
def committed (s : State) : State :=
  { startSendTimer .send (commitRun s) s with
    cs := if s.pu.present then (s.cs.pushRun .send (commitRun s)).pushRun .print (commitRun s)
      else s.cs.pushRun .send (commitRun s)
    ku.editStack := [] }

theorem commitLine_passes {s : State} (passes : commitPasses s (commitRun s) = true) :
    commitLine s = signal false (commitBlocks s (commitRun s) != 0) (committed s) := if_pos passes

theorem commitLine_refused {s : State} (fails : ¬ commitPasses s (commitRun s) = true) : commitLine s = refuseKey s :=
  if_neg fails

theorem commitPasses_iff (s : State) (run : List Cell) :
    commitPasses s run = true ↔
      s.cs.send.limitPasses run = true ∧ (s.pu.present = true → s.cs.print.limitPasses run = true)
        ∧ s.cs.send.blocksNeeded run + (if s.pu.present = true then s.cs.print.blocksNeeded run else 0)
          ≤ s.cs.free.length := by
  have reserve : reservePasses .mayUse s.cs.freeCount (commitBlocks s run) = true ↔
      commitBlocks s run ≤ s.cs.free.length := by
    rw [reservePasses, Bool.or_eq_true, beq_iff_eq, Store.freeCount, decide_eq_true_eq]
    omega
  have printed : (!s.pu.present || s.cs.print.limitPasses run) = true ↔
      (s.pu.present = true → s.cs.print.limitPasses run = true) := by
    cases s.pu.present <;> simp
  rw [commitPasses, Bool.and_eq_true, Bool.and_eq_true, reserve, printed, and_assoc]
  exact Iff.rfl

/-- CR dealt with after its commit: the stack empty, the flow levels tested where the runs took a block (R27, R108). -/
theorem dealtWith_committed {rest : List Key} {s : State} (head : s.ku.fifo = .cr :: rest)
    (passes : commitPasses s (commitRun s) = true) :
    let u : State := { committed s with ku := { charDealt .cr rest s with editStack := [] } }
    dealtWith .cr (commitLine s) = if commitBlocks s (commitRun s) = 0 then u else flowTest u := by
  have timed : (startSendTimer .send (commitRun s) s).ku = s.ku
      ∧ (startSendTimer .send (commitRun s) s).cm.call = s.cm.call
      ∧ (startSendTimer .send (commitRun s) s).cl = s.cl := by
    unfold startSendTimer
    split_ifs <;> exact ⟨rfl, rfl, rfl⟩
  obtain ⟨ku, call, cl⟩ := timed
  have emptied : charDealt .cr rest (committed s) = { charDealt .cr rest s with editStack := [] } := by
    simp only [charDealt, keyDealt, committed, unshift, ku, call, cl]
    rfl
  have entry : (committed s).ku.fifo = .cr :: rest := (congrArg KeyboardUnit.fifo ku).trans head
  dsimp only
  rw [commitLine_passes passes, dealtWith_signal _ entry, emptied]
  by_cases none : commitBlocks s (commitRun s) = 0
  · rw [if_pos none, none]; rfl
  · rw [if_neg none, show (commitBlocks s (commitRun s) != 0) = true from bne_iff_ne.mpr none]; rfl

/-! ### Dialing (R72, R110) -/

theorem interpretChar_dialing {k : Key} {ch : Resolved} {s : State} (dialing : s.cm.call.state = .dialing) :
    interpretChar k ch s = dealtWith k (dialKey k s) := if_pos dialing

theorem interpretChar_mode {k : Key} {ch : Resolved} {s : State} (other : s.cm.call.state ≠ .dialing) :
    interpretChar k ch s = modeKey k ch s := if_neg other

theorem keyDigit_cr_ne {k : Key} {d : Nat} (digit : keyDigit k = some d) : k ≠ .cr := by
  rintro rfl
  exact nomatch digit

/-- A digit in DIALING (R110). -/
theorem dialKey_digit {k : Key} {d : Nat} {s : State} (digit : keyDigit k = some d) :
    dialKey k s = if s.ku.dial.length < 2 then { s with ku.dial := s.ku.dial ++ [d] } else refuseKey s := by
  rw [dialKey, if_neg (keyDigit_cr_ne digit), digit]

theorem dialKey_other {k : Key} {s : State} (digit : keyDigit k = none) (other : k ≠ .cr) : dialKey k s = refuseKey s := by
  rw [dialKey, if_neg other, digit]

/-- CR with no digit dialed: the record IDLE and the bell (R110). -/
theorem crRefused_settled {s : State} {rest : List Key} (head : s.ku.fifo = .cr :: rest) :
    let t := settle (dropHead (refuseKey (toIdle false none (undialed s))))
    t.cm.call.state = .idle ∧ t.ku.dial = [] ∧ t.ku.fifo = rest
      ∧ t.mt.pulses = s.mt.pulses ++ [⟨.keyboard, ms 100⟩] := by
  have core : callCore (toIdle false none (undialed s)) = callCore (undialed s) := callCore_toIdle _ _ _
  have idle := toIdle_state false none (undialed s)
  obtain ⟨_, fifo, _, _, _, _, dial⟩ := ku_of_callCore core
  obtain ⟨_, _, _, _, _, _, _, _, pulses, _⟩ := mt_of_callCore core
  dsimp only
  generalize toIdle false none (undialed s) = x at idle fifo dial pulses
  rw [settle_dropHead_call, settle_dropHead_dial, settle_ku, (settle_bell _).1]
  exact ⟨idle, dial, (congrArg List.tail fifo).trans (congrArg List.tail head), congrArg (· ++ [_]) pulses⟩

/-- CR with an address, the view FREE and the LU JOINED (R71, R72). -/
theorem crPlaced_settled {s : State} {d : Addr} {rest : List Key} (head : s.ku.fifo = .cr :: rest)
    (free : s.cm.view.state = .free) (joined : s.lu.joinState = .joined) (served : s.lu.restartClear = false) :
    let t := settle (dropHead (placeCall d (undialed s)))
    t.cm.call.state = .calling ∧ t.cm.call.role = some .caller ∧ t.cm.call.callAddr = d ∧ t.cm.call.partyAddr = d
      ∧ t.ku.dial = [] ∧ t.ku.fifo = rest
      ∧ t.lu.control = (enterRequest ⟨.call, d, [], .cm, s.cl.config.retryLimit⟩ s.lu).control := by
  dsimp only
  rw [placeCall_free (d := d) (s := undialed s) free joined served, settle_dropHead_call, settle_dropHead_lu,
    settle_dropHead_dial, settle_ku]
  exact ⟨rfl, rfl, rfl, rfl, rfl, congrArg List.tail head, rfl⟩

/-! ### The modes (R104, R105) -/

theorem modeKey_local {k : Key} {ch : Resolved} {s : State} (mode : s.ku.mode = .localMode) :
    modeKey k ch s = if s.pu.present then keyRuns .print false k ch s else dealtWith k (refuseKey s) := by
  rw [modeKey, mode]

theorem modeKey_tape {k : Key} {ch : Resolved} {s : State} (mode : s.ku.mode = .tape) :
    modeKey k ch s =
      if s.tu.punchPresent then keyRuns .punch (s.cl.config.tapeEcho && s.pu.present) k ch s
      else dealtWith k (refuseKey s) := by
  rw [modeKey, mode]

theorem modeKey_line {k : Key} {ch : Resolved} {s : State} (mode : s.ku.mode = .line) :
    modeKey k ch s =
      if !maySend s.cm.call then dealtWith k (refuseKey s)
      else if s.cl.config.edit then editKey k ch s else keyRuns .send s.pu.present k ch s := by
  rw [modeKey, mode]

/-- A key that goes on the stack: not CR, not LF (R107). -/
theorem editKey_other {k : Key} {ch : Resolved} {s : State} (cr : k ≠ .cr) (lf : k ≠ .lf) :
    editKey k ch s =
      if s.ku.editStack.length < 72 then dealtWith k { s with ku.editStack := s.ku.editStack ++ [ch] }
      else dealtWith k (refuseKey s) := by
  rw [editKey, if_neg cr, if_neg lf]

theorem editKey_lf (ch : Resolved) (s : State) :
    editKey .lf ch s =
      if s.ku.editStack = [] then keyRuns .send s.pu.present .lf ch s else dealtWith .lf (refuseKey s) := by
  rw [editKey, if_neg (by decide), if_pos rfl]

theorem editKey_cr (ch : Resolved) (s : State) : editKey .cr ch s = dealtWith .cr (commitLine s) := if_pos rfl

/-- Settles O43, by the record's state and the mode. -/
theorem characterKeyActs : Obligations.CharacterKeyActs := by
  unfold Obligations.CharacterKeyActs
  intro s k rest ch load head char case dealt bell cell sending c taken rings waits goes
  have run : exec c s = .next (settle (interpretChar k ch s)) := exec_character load head char taken
  have rung (act : interpretChar k ch s = dealtWith k (refuseKey s)) : rings := by
    rw [dealtWith_refuseKey rfl head] at act
    exact run.trans (by rw [act]; rfl)
  have went {n : QueueName} {echo : Bool} (act : interpretChar k ch s = keyRuns n echo k ch s) : goes n echo := by
    have fits := limitsPass_iff n echo cell s
    refine ⟨fun full => ?_, fun passes refused => rung (act.trans (keyRuns_refused (fits.mpr passes) refused)),
      fun passes u sent => ⟨fun silent => ?_, fun echoes => ⟨fun v printed => ?_, fun refused => ?_⟩⟩⟩
    · exact run.trans (by rw [act, keyRuns_waits (mt fits.mp full)]; rfl)
    · subst silent
      rw [run, act, keyRuns_sent (fits.mpr passes) sent, echoRun_off, dealtWith_of_storeCore (storeCore_appendRun sent) head]
      rfl
    · subst echoes
      have core := (storeCore_appendRun printed).trans (storeCore_appendRun sent)
      rw [run, act, keyRuns_sent (fits.mpr passes) sent, echoRun_printed (run := keyedCell ch) printed,
        dealtWith_of_storeCore core head]
      rfl
    · subst echoes
      rw [run, act, keyRuns_sent (fits.mpr passes) sent, echoRun_refused (run := keyedCell ch) refused,
        dealtWith_refuseKey (storeCore_appendRun sent) head]
      rfl
  have sends (on : sending) : s.cm.call.state ≠ .dialing ∧ maySend s.cm.call = true :=
    ⟨(fun dialing => nomatch dialing.symm.trans on.1), (maySend_iff _).mpr on⟩
  refine ⟨fun dialing => ?_, fun other mode => ?_, fun other mode => ?_, fun other mode off => ?_,
    fun on mode edit => ?_, fun on mode edit => ?_⟩
  · have act := interpretChar_dialing (k := k) (ch := ch) dialing
    refine ⟨fun d digit room => ?_, fun d digit full => rung ?_, fun digit other => rung ?_, fun cr none => ?_,
      fun cr d number other free joined served => ?_⟩
    · rw [run, act, dialKey_digit digit, if_pos room, dealtWith_eq (rest := rest) (by exact head)]
      rfl
    · rw [act, dialKey_digit digit, if_neg (Nat.not_lt.mpr full)]
    · rw [act, dialKey_other digit other]
    · subst cr
      rw [run, act, dealtWith_cr, dialKey, if_pos rfl, endDialing_refused (.inl none)]
      exact ⟨_, rfl, crRefused_settled head⟩
    · subst cr
      rw [run, act, dealtWith_cr, dialKey, if_pos rfl, endDialing_address number other]
      exact ⟨_, rfl, crPlaced_settled head free joined served⟩
  · have act := (interpretChar_mode (k := k) (ch := ch) other).trans (modeKey_local mode)
    exact ⟨fun present => went (act.trans (if_pos present)),
      fun absent => rung (act.trans (if_neg (by rw [absent]; decide)))⟩
  · have act := (interpretChar_mode (k := k) (ch := ch) other).trans (modeKey_tape mode)
    exact ⟨fun present => went (act.trans (if_pos present)),
      fun absent => rung (act.trans (if_neg (by rw [absent]; decide)))⟩
  · have act := (interpretChar_mode (k := k) (ch := ch) other).trans (modeKey_line mode)
    have silent : maySend s.cm.call = false := Bool.eq_false_iff.mpr (mt (maySend_iff _).mp off)
    exact rung (act.trans (if_pos (by rw [silent]; rfl)))
  · obtain ⟨other, may⟩ := sends on
    refine went ?_
    rw [interpretChar_mode other, modeKey_line mode, may, edit]
    rfl
  · obtain ⟨other, may⟩ := sends on
    have act : interpretChar k ch s = editKey k ch s := by
      rw [interpretChar_mode other, modeKey_line mode, may, edit]
      rfl
    refine ⟨fun cr lf => ⟨fun room => ?_, fun full => rung ?_⟩, fun lf => ⟨fun empty => went ?_, fun some => rung ?_⟩,
      fun cr => ⟨fun fails => rung ?_, fun passes => ?_⟩⟩
    · rw [run, act, editKey_other cr lf, if_pos room, dealtWith_eq (rest := rest) (by exact head)]
      rfl
    · rw [act, editKey_other cr lf, if_neg (Nat.not_lt.mpr full)]
    · subst lf; rw [act, editKey_lf, if_pos empty]
    · subst lf; rw [act, editKey_lf, if_neg some]
    · subst cr; rw [act, editKey_cr, commitLine_refused (mt (commitPasses_iff s _).mp fails)]
    · subst cr
      rw [run, act, editKey_cr, dealtWith_committed head ((commitPasses_iff s _).mpr passes)]
      rfl

end Sys2Proof.Machine
end
